-- ==== Sys2Proof/Word.lean ====
section
/-! DEFINITION. Word.lean: words, operand and modifier types that instruction words are made of, the
messages that outside agents send, and sorted tables keyed by Nat (the model's sparse data). -/

namespace Sys2Proof

/-- A 32-bit register value (R28). -/
abbrev Word := BitVec 32
/-- A 64-bit value: a register pair, a pointer, an instruction word (R47). -/
abbrev DWord := BitVec 64
/-- An operand code of 8 bits (R47). -/
abbrev Code := BitVec 8
abbrev Byte := BitVec 8
/-- A clause or word address, 56 bits (R36, R69). -/
abbrev Addr := BitVec 56

/-! ### Sorted tables: keys strictly rising, so that equal tables are equal lists -/

/-- A table of values by number, kept with strictly rising keys. -/
abbrev Tab (α : Type) := List (Nat × α)

def Tab.find {α : Type} (k : Nat) : List (Nat × α) → Option α
  | [] => none
  | (k', v) :: t => if k' = k then some v else Tab.find k t

def Tab.put {α : Type} (k : Nat) (v : α) : List (Nat × α) → List (Nat × α)
  | [] => [(k, v)]
  | (k', v') :: t =>
    if k < k' then (k, v) :: (k', v') :: t
    else if k' = k then (k, v) :: t
    else (k', v') :: Tab.put k v t

def Tab.del {α : Type} (k : Nat) : List (Nat × α) → List (Nat × α)
  | [] => []
  | (k', v') :: t => if k' = k then t else (k', v') :: Tab.del k t

/-- Keys strictly rising. -/
def Tab.sorted {α : Type} : List (Nat × α) → Bool
  | [] => true
  | [_] => true
  | (k, _) :: (k', v') :: t => decide (k < k') && Tab.sorted ((k', v') :: t)

/-! ### Operands and modifiers of instruction words -/

/-- The guard of a word: predicate number and negate bit (R45). -/
structure Guard where
  neg : Bool
  p : BitVec 6
deriving DecidableEq, Repr, Inhabited

/-- A source operand: its code and its trap-if-empty bit (R47, R49). -/
structure Src where
  code : Code
  tie : Bool
deriving DecidableEq, Repr, Inhabited

/-- CMP of icmp (R81). -/
inductive ICmp | eq | ne | lt | le | gt | ge
deriving DecidableEq, Repr, Inhabited

/-- MODE of gmask (R81). -/
inductive GMode | ballot | slot | lid
deriving DecidableEq, Repr, Inhabited

/-- MODE of shfl (R81). -/
inductive SMode | idx | up | down | xor
deriving DecidableEq, Repr, Inhabited

/-- Rounding modes (R109). -/
inductive RMode | rn | rz | rd | ru
deriving DecidableEq, Repr, Inhabited

/-- T of the packed float forms (R119). -/
inductive PkT | f16 | bf16
deriving DecidableEq, Repr, Inhabited

/-- T of fcmp (R119). -/
inductive CmT | f32 | f16 | bf16
deriving DecidableEq, Repr, Inhabited

/-- T of fpack and funpk (R119). -/
inductive NarT | f16 | bf16 | e4m3 | e5m2 | e3m2 | e2m3 | e2m1
deriving DecidableEq, Repr, Inhabited

/-- CMP of fcmp (R119, R123). -/
inductive FCmp | eq | ne | lt | le | gt | ge | nan | num
deriving DecidableEq, Repr, Inhabited

/-- KIND of fcvt (R119). -/
inductive CvKind | i32f32 | n32f32 | f32i32 | f32n32
deriving DecidableEq, Repr, Inhabited

/-- OUT of rnd (R129). -/
inductive ROut | raw | co | oc
deriving DecidableEq, Repr, Inhabited

/-- SZ of the loads and stores (R134). -/
inductive Sz | b8 | b16 | b32 | b64 | i8 | i16
deriving DecidableEq, Repr, Inhabited

/-- HINT of ld (R134). -/
inductive Hint | dflt | fresh | stream
deriving DecidableEq, Repr, Inhabited

/-- TY of the atomics (R134). -/
inductive Ty | b32 | i32 | n32 | b64 | i64 | n64 | f32
deriving DecidableEq, Repr, Inhabited

/-- The functions of rmw, prmw and red (R53). -/
inductive AFn | add | min | max | and | or | xor | exch | cas | fadd
deriving DecidableEq, Repr, Inhabited

/-- SCOPE of fence (R134). -/
inductive Scope | team | cluster | die | package | fabric
deriving DecidableEq, Repr, Inhabited

/-- MODE of bank, the mode of a tile-store bank (R134, R149). -/
inductive BMode | cache | pad | fifo
deriving DecidableEq, Repr, Inhabited

/-- LEN of lease (R134). -/
inductive LLen | l64 | l128 | l256 | l512 | l1024 | l2048 | l4096
deriving DecidableEq, Repr, Inhabited

/-- LVL of pref (R134). -/
inductive Lvl | l1 | l2
deriving DecidableEq, Repr, Inhabited

/-- OP of frmw (R411). -/
inductive FrOp | add | smin | smax | umin | umax | and | or | xor | exch | cas | fadd
deriving DecidableEq, Repr, Inhabited

/-- SEL of frq (R360). -/
inductive FrqSel | pm | seq | atF
deriving DecidableEq, Repr, Inhabited

/-- MODE of ctrr (R438). -/
inductive CtrMode | live | snap | latch
deriving DecidableEq, Repr, Inhabited

/-! ### Messages of outside agents -/

/-- The fields of a debug request (R428), less its OP, which is the row of the table. -/
structure DbgReq where
  ctx : BitVec 6
  wslot : BitVec 5
  all : Bool
  poison : Bool
  reg : BitVec 8
  lane : BitVec 10
  team : BitVec 32
  grid : BitVec 24
  value : BitVec 64
deriving DecidableEq, Repr, Inhabited

/-- The lineage of a remote access: carbons from the root down with their fork postmarks (R339, R418). -/
structure FabTag where
  ctx : Nat
  carbon : Nat
  lineage : List (Nat × Nat)
  postmark : Nat
  lseq : Nat
deriving DecidableEq, Repr, Inhabited

/-- What a fabric request asks for (R406). -/
inductive FabKind
  | read (n : Nat)
  | write (bytes : List Byte)
  | atomic (fn : AFn) (ty : Ty) (data : DWord)
  | other
deriving DecidableEq, Repr, Inhabited

/-- A fabric request as it arrives at a die (R409). -/
structure FabReq where
  src : Nat
  entry : BitVec 12
  key : BitVec 14
  off : BitVec 28
  kind : FabKind
  tag : Option FabTag
deriving DecidableEq, Repr, Inhabited

/-- The answer to a fabric request (R406, R409, R415): done, with bytes and a WCT; refused with a cause; an error, for a request that is
not supported; or the acknowledgement of a fold. -/
inductive FabResp
  | done (bytes : List Byte) (wct : Nat)
  | refused (cause : Nat)
  | error
  | foldAck
deriving DecidableEq, Repr, Inhabited

/-- The name of a remote version (R419): source endpoint, source context, task key's lseq. -/
structure RemoteKey where
  src : Nat
  ctx : Nat
  lseq : Nat
deriving DecidableEq, Repr, Inhabited

/-! ### Plain list helpers used throughout -/

/-- `n` numbers from `k` on. -/
def upFrom (k : Nat) : Nat → List Nat
  | 0 => []
  | n + 1 => k :: upFrom (k + 1) n

/-- The first element that a test accepts. -/
def firstWith {α : Type} (p : α → Bool) : List α → Option α
  | [] => none
  | x :: t => if p x then some x else firstWith p t

/-- The sum of a list of numbers. -/
def sumOf : List Nat → Nat
  | [] => 0
  | x :: t => x + sumOf t

/-- The largest of a list of numbers and 0. -/
def maxOf : List Nat → Nat
  | [] => 0
  | x :: t => Nat.max x (maxOf t)

/-- ceil(a / b) for b above 0. -/
def ceilDiv (a b : Nat) : Nat := (a + b - 1) / b

/-- Insert into a list kept in rising order of a key, after equal keys. -/
def insertBy {α : Type} (key : α → Nat) (x : α) : List α → List α
  | [] => [x]
  | y :: t => if key x < key y then x :: y :: t else y :: insertBy key x t

/-- Stable insertion sort by a key, rising. -/
def sortBy {α : Type} (key : α → Nat) : List α → List α
  | [] => []
  | x :: t => insertByFront key x (sortBy key t)
where
  /-- Insert before equal keys, which keeps the sort stable when built from the right. -/
  insertByFront {α : Type} (key : α → Nat) (x : α) : List α → List α
    | [] => [x]
    | y :: t => if key x ≤ key y then x :: y :: t else y :: insertByFront key x t

end Sys2Proof
end

