-- ==== Sys2Proof/Config.lean ====
section
/-! DEFINITION. Config.lean: what a part fixes and the spec does not give, and the free values. Every constant here has no
body: no proof can find out what it is. -/

namespace Sys2Proof.Config

/-- A fresh free value of 64 bits for each value of the counter `State.free` (assumption log 2). -/
opaque freeValue : Nat → BitVec 64

/-- The hash that chooses the home slice, 0 to 31 within a die, of a 4 KiB granule of physical memory (R1, R475); the value
is taken modulo 32. -/
opaque sliceHash : Nat → Nat

/-- The bytes of a team's image, but for its digest, by image number and offset: their order is the engine's own (R272). -/
opaque imageByte : Nat → Nat → Byte

/-- The fused SHAKE256 digest of the Retuqua root public key (R463). -/
opaque rootDigest : BitVec 512

/-- The ML-DSA-65 signature of 3,309 bytes that ATTEST answers (R467), of the bytes that it signs: the signing key never leaves die A. -/
opaque signature : List Byte → BitVec 26472

/-- The identity key of 1,952 bytes, and Retuqua's certificate for it (R467). -/
opaque identityKey : BitVec 15616
opaque certificate : List Byte

/-- The fused minimum boot version VMIN (R465). -/
opaque bootVersionMin : BitVec 32

/-- The part code and revision that idq reports (R474). -/
opaque partCode : BitVec 64

end Sys2Proof.Config
end

