-- ==== Sys2Proof/Syntax.lean ====
section
/-! DEFINITION. Syntax.lean: the steps of the KLN-8800, one constructor for each row of spec/opcode_table.json.
The first 182 are instruction words (R44, R51 to R53); a constructor holds the word's guard, modifiers and operands.
The others are the operations and events that have no encoding (spec/95); a constructor names the agents and carries
the message it concerns. -/

namespace Sys2Proof

/-- A step of the device: an instruction word, or one of its operations and events. -/
inductive Instr where
  | add (g : Guard) (sat : Bool) (u : Bool) (d : Code) (a : Src) (b : Src)
  | sub (g : Guard) (sat : Bool) (u : Bool) (d : Code) (a : Src) (b : Src)
  | mul (g : Guard) (sat : Bool) (u : Bool) (d : Code) (a : Src) (b : Src)
  | mulh (g : Guard) (u : Bool) (d : Code) (a : Src) (b : Src)
  | mad (g : Guard) (sat : Bool) (u : Bool) (d : Code) (a : Src) (b : Src) (c : Src)
  | min (g : Guard) (u : Bool) (d : Code) (a : Src) (b : Src)
  | max (g : Guard) (u : Bool) (d : Code) (a : Src) (b : Src)
  | abs (g : Guard) (sat : Bool) (d : Code) (a : Src)
  | neg (g : Guard) (sat : Bool) (d : Code) (a : Src)
  | and (g : Guard) (d : Code) (a : Src) (b : Src)
  | or (g : Guard) (d : Code) (a : Src) (b : Src)
  | xor (g : Guard) (d : Code) (a : Src) (b : Src)
  | not (g : Guard) (d : Code) (a : Src)
  | shl (g : Guard) (d : Code) (a : Src) (b : Src)
  | shr (g : Guard) (sx : Bool) (d : Code) (a : Src) (b : Src)
  | rot (g : Guard) (d : Code) (a : Src) (b : Src)
  | popc (g : Guard) (d : Code) (a : Src)
  | clz (g : Guard) (d : Code) (a : Src)
  | brev (g : Guard) (d : Code) (a : Src)
  | bfe (g : Guard) (sx : Bool) (d : Code) (a : Src) (b : Src)
  | bfi (g : Guard) (d : Code) (a : Src) (b : Src) (c : Src)
  | bperm (g : Guard) (d : Code) (a : Src) (b : Src) (c : Src)
  | icmp (g : Guard) (w : Bool) (u : Bool) (cmp : ICmp) (d : Code) (a : Src) (b : Src)
  | pand (g : Guard) (nb : Bool) (na : Bool) (d : Code) (a : Src) (b : Src)
  | por (g : Guard) (nb : Bool) (na : Bool) (d : Code) (a : Src) (b : Src)
  | pxor (g : Guard) (nb : Bool) (na : Bool) (d : Code) (a : Src) (b : Src)
  | pnot (g : Guard) (d : Code) (a : Src)
  | mov (g : Guard) (w : Bool) (d : Code) (a : Src)
  | sel (g : Guard) (w : Bool) (d : Code) (a : Src) (b : Src) (c : Src)
  | movx (g : Guard) (w : Bool) (d : Code) (a : Src)
  | movxw (g : Guard) (w : Bool) (a : Src) (b : Src)
  | mkempty (g : Guard) (w : Bool) (d : Code)
  | add64 (g : Guard) (sat : Bool) (u : Bool) (d : Code) (a : Src) (b : Src)
  | sub64 (g : Guard) (sat : Bool) (u : Bool) (d : Code) (a : Src) (b : Src)
  | lea (g : Guard) (u : Bool) (sh : BitVec 3) (d : Code) (a : Src) (b : Src)
  | gmask (g : Guard) (m : GMode) (d : Code) (a : Src)
  | shfl (g : Guard) (w : Bool) (m : SMode) (d : Code) (a : Src) (b : Src)
  | addi (g : Guard) (d : Code) (a : Code) (imm : Word)
  | movi (g : Guard) (d : Code) (imm : Word)
  | bra (g : Guard) (d : Code) (off : BitVec 40)
  | brx (g : Guard) (slot : Bool) (d : Code) (a : Src) (b : Src)
  | exit (g : Guard)
  | trap (g : Guard) (a : Src)
  | baton (g : Guard) (tk : Bool) (d : Code) (a : Src)
  | fadd (g : Guard) (sat : Bool) (rm : RMode) (d : Code) (a : Src) (b : Src)
  | fsub (g : Guard) (sat : Bool) (rm : RMode) (d : Code) (a : Src) (b : Src)
  | fmul (g : Guard) (sat : Bool) (rm : RMode) (d : Code) (a : Src) (b : Src)
  | ffma (g : Guard) (sat : Bool) (rm : RMode) (d : Code) (a : Src) (b : Src) (c : Src)
  | fdiv (g : Guard) (sat : Bool) (rm : RMode) (d : Code) (a : Src) (b : Src)
  | fsqrt (g : Guard) (sat : Bool) (rm : RMode) (d : Code) (a : Src)
  | fmin (g : Guard) (prop : Bool) (d : Code) (a : Src) (b : Src)
  | fmax (g : Guard) (prop : Bool) (d : Code) (a : Src) (b : Src)
  | fabs (g : Guard) (d : Code) (a : Src)
  | fneg (g : Guard) (d : Code) (a : Src)
  | fadd2 (g : Guard) (sat : Bool) (rm : RMode) (t : PkT) (d : Code) (a : Src) (b : Src)
  | fmul2 (g : Guard) (sat : Bool) (rm : RMode) (t : PkT) (d : Code) (a : Src) (b : Src)
  | ffma2 (g : Guard) (sat : Bool) (rm : RMode) (t : PkT) (d : Code) (a : Src) (b : Src) (c : Src)
  | fcmp (g : Guard) (cmp : FCmp) (t : CmT) (d : Code) (a : Src) (b : Src)
  | fcvt (g : Guard) (rm : RMode) (k : CvKind) (d : Code) (a : Src)
  | fpack (g : Guard) (t : NarT) (sat : Bool) (rs : Bool) (d : Code) (a : Src) (b : Src) (c : Src)
  | funpk (g : Guard) (t : NarT) (sc : Bool) (d : Code) (a : Src) (b : Src) (c : Src)
  | fex2 (g : Guard) (sat : Bool) (rm : RMode) (d : Code) (a : Src)
  | flg2 (g : Guard) (sat : Bool) (rm : RMode) (d : Code) (a : Src)
  | frcp (g : Guard) (sat : Bool) (d : Code) (a : Src)
  | frsq (g : Guard) (sat : Bool) (d : Code) (a : Src)
  | rnd (g : Guard) (out : ROut) (d : Code) (a : Src) (b : Src) (c : Src)
  | ld (g : Guard) (h : Hint) (sz : Sz) (d : Code) (a : Src) (off : BitVec 8)
  | st (g : Guard) (stream : Bool) (sz : Sz) (a : Src) (b : Src) (off : BitVec 8)
  | pld (g : Guard) (sz : Sz) (d : Code) (a : Src) (off : BitVec 8)
  | pst (g : Guard) (sz : Sz) (a : Src) (b : Src) (off : BitVec 8)
  | ldp (g : Guard) (pt : BitVec 5) (a : Src) (b : Src)
  | rmw (g : Guard) (fn : AFn) (ty : Ty) (d : Code) (a : Src) (b : Src) (off : BitVec 8)
  | prmw (g : Guard) (fn : AFn) (ty : Ty) (d : Code) (a : Src) (b : Src) (off : BitVec 8)
  | red (g : Guard) (fn : AFn) (ty : Ty) (a : Src) (b : Src) (off : BitVec 8)
  | fence (g : Guard) (sc : Scope)
  | fenceLd (g : Guard)
  | bank (g : Guard) (m : BMode) (a : Src) (b : Src)
  | bankq (g : Guard) (d : Code) (a : Src)
  | lease (g : Guard) (len : LLen)
  | pref (g : Guard) (lvl : Lvl) (a : Src) (off : BitVec 8)
  | qpush (g : Guard) (a : Src) (b : Src)
  | qpop (g : Guard) (d : Code) (a : Src)
  | psnt (g : Guard) (w : Bool) (d : Code) (a : Src)
  | psnc (g : Guard) (w : Bool) (d : Code)
  | xlq (g : Guard) (fill : Bool) (wr : Bool) (d : Code) (a : Src)
  | tagr (g : Guard) (d : Code) (a : Src)
  | tagw (g : Guard) (a : Src) (b : Src)
  | copy (g : Guard) (stream : Bool) (sig : Bool) (dp : Bool) (sp : Bool) (d : Code) (a : Code)
  | fill (g : Guard) (stream : Bool) (sig : Bool) (dp : Bool) (d : Code) (a : Code) (b : Code)
  | gath (g : Guard) (stream : Bool) (sig : Bool) (dp : Bool) (sp : Bool) (d : Code) (a : Code)
  | scat (g : Guard) (stream : Bool) (sig : Bool) (dp : Bool) (sp : Bool) (d : Code) (a : Code)
  | copy2d (g : Guard) (stream : Bool) (sig : Bool) (dp : Bool) (sp : Bool) (d : Code) (a : Code)
  | publish (g : Guard) (d : Code) (a : Code) (b : Code)
  | smerge (g : Guard) (ord : Bool) (d : Code) (a : Code)
  | shadow (g : Guard) (d : Code) (a : Code) (b : Code)
  | shadowClose (g : Guard) (d : Code) (a : Code) (b : Code)
  | cpq (g : Guard) (occ : Bool) (d : Code) (a : Code) (b : Code)
  | push (g : Guard) (st : Bool) (w : Bool) (a : Src) (b : Src)
  | pop (g : Guard) (w : Bool) (d : Code) (a : Src)
  | poll (g : Guard) (d : Code) (a : Src)
  | stamp (g : Guard) (d : Code) (a : Src) (b : Src)
  | rput (g : Guard) (a : Src) (b : Src) (c : Src)
  | rtake (g : Guard) (d : Code) (a : Src)
  | arrive (g : Guard) (a : Src) (b : Src)
  | await (g : Guard) (d : Code) (a : Src) (b : Src)
  | expect (g : Guard) (a : Src) (b : Src)
  | cwr (g : Guard) (a : Src) (b : Src)
  | waitw (g : Guard) (a : Src) (b : Src)
  | phcfgCreate (g : Guard) (d : Code) (a : Code) (b : Code)
  | phcfgDestroy (g : Guard) (d : Code) (a : Code) (b : Code)
  | phq (g : Guard) (d : Code) (a : Code) (b : Code)
  | post (g : Guard) (pmk : Bool) (par : Bool) (gx : Bool) (d : Code) (a : Code) (b : Code)
  | accept (g : Guard) (a : Src) (b : Src)
  | pshare (g : Guard) (keepe : Bool) (expert : Bool) (d : Code) (a : Code)
  | opclass (g : Guard) (d : Code) (a : Code) (b : Code)
  | cwait (g : Guard) (all : Bool) (d : Code) (a : Code) (b : Code)
  | bleft (g : Guard) (d : Code)
  | preempt (g : Guard) (d : Code) (a : Code) (b : Code)
  | preemptResume (g : Guard) (d : Code) (a : Code) (b : Code)
  | pquery (g : Guard) (d : Code) (a : Code)
  | mmul (g : Guard) (scb : Bool) (sca : Bool) (acc : Bool) (d : Code) (a : Code)
  | bfill (g : Guard) (tr : Bool) (sp : Bool) (d : Code) (a : Code)
  | azero (g : Guard) (d : Code) (a : Code)
  | aread (g : Guard) (scl : Bool) (dp : Bool) (sat : Bool) (rm : RMode) (d : Code) (a : Code)
  | aepi (g : Guard) (resc : Bool) (exp : Bool) (d : Code) (a : Code)
  | rqt (g : Guard) (bd : Bool) (d : Code) (a : Code)
  | mattn (g : Guard) (scb : Bool) (sca : Bool) (acc : Bool) (d : Code) (a : Code)
  | aalloc (g : Guard) (d : Code) (a : Code) (b : Code)
  | mstat (g : Guard) (d : Code) (a : Code)
  | topk (g : Guard) (dp : Bool) (sp : Bool) (d : Code) (a : Code)
  | selm (g : Guard) (dp : Bool) (sp : Bool) (d : Code) (a : Code)
  | sdraw (g : Guard) (raw : Bool) (greedy : Bool) (dp : Bool) (sp : Bool) (d : Code) (a : Code) (b : Code)
  | hook (g : Guard) (d : Code) (a : Code)
  | hist (g : Guard) (acc : Bool) (sp : Bool) (d : Code) (a : Code)
  | fork (g : Guard) (d : Code) (a : Code)
  | seal (g : Guard) (d : Code) (a : Code) (b : Code)
  | shred (g : Guard) (d : Code) (a : Code) (b : Code)
  | abrt (g : Guard) (kl : Bool) (a : Src)
  | frq (g : Guard) (which : FrqSel) (d : Code)
  | tsq (g : Guard) (d : Code)
  | decl (g : Guard) (d : Code) (a : Code)
  | edges (g : Guard) (d : Code)
  | verq (g : Guard) (d : Code) (a : Code)
  | dtload (g : Guard) (save : Bool) (sp : Bool) (d : Code) (a : Code)
  | dtnode (g : Guard) (d : Code) (a : Code)
  | dtclr (g : Guard) (d : Code) (a : Code) (b : Code)
  | dtmask (g : Guard) (d : Code) (a : Code)
  | dtpos (g : Guard) (d : Code) (a : Code)
  | dtacc (g : Guard) (sp : Bool) (d : Code) (a : Code)
  | redact (g : Guard) (d : Code) (a : Code)
  | kvx (g : Guard) (wr : Bool) (d : Code) (a : Src) (b : Src) (c : Src)
  | kvfork (g : Guard) (d : Code) (a : Code)
  | kvapp (g : Guard) (d : Code) (a : Code)
  | kvalloc (g : Guard) (d : Code) (a : Code)
  | kvallocInit (g : Guard) (d : Code) (a : Code)
  | kvfree (g : Guard) (d : Code) (a : Code)
  | pcatt (g : Guard) (d : Code) (a : Code)
  | pcattIns (g : Guard) (d : Code) (a : Code)
  | pcevict (g : Guard) (d : Code) (a : Code)
  | bltabCreate (g : Guard) (d : Code) (a : Code)
  | bltabDestroy (g : Guard) (d : Code) (a : Code)
  | bltabRead (g : Guard) (d : Code) (a : Code)
  | kvsurvGet (g : Guard) (d : Code) (a : Code)
  | kvsurvClr (g : Guard) (d : Code) (a : Code)
  | kvsurvSet (g : Guard) (d : Code) (a : Code)
  | fld (g : Guard) (sz : Sz) (d : Code) (a : Src) (off : BitVec 8)
  | fst (g : Guard) (sz : Sz) (a : Src) (b : Src) (off : BitVec 8)
  | frmw (g : Guard) (fop : FrOp) (w : Bool) (d : Code) (a : Src) (b : Src) (off : BitVec 8)
  | fstm (g : Guard) (d : Code) (a : Code)
  | fldr (g : Guard) (d : Code) (a : Code)
  | fexpGrant (g : Guard) (d : Code) (a : Code) (b : Code)
  | fexpRevoke (g : Guard) (d : Code) (a : Code) (b : Code)
  | fexpGroup (g : Guard) (d : Code) (a : Code) (b : Code)
  | fexpQuery (g : Guard) (d : Code) (a : Code) (b : Code)
  | bkpt (g : Guard) (a : Src)
  | trc (g : Guard) (a : Src) (b : Src)
  | ctrr (g : Guard) (m : CtrMode) (d : Code) (a : Src)
  | wpset (g : Guard) (d : Code) (a : Code) (b : Code)
  | errq (g : Guard) (d : Code) (a : Code)
  | pwrq (g : Guard) (d : Code) (a : Code)
  | featq (g : Guard) (d : Code) (a : Src)
  | idq (g : Guard) (d : Code) (a : Code)
  | contextFault (ctx : Nat)
  | fabricResponse (req : Nat) (resp : FabResp)
  | groupFormation (core sched : Nat)
  | waitRelease (team lid : Nat)
  | trapEntry (core sched : Nat)
  | commandAcceptance (cmd : Nat)
  | engineStep (cmd : Nat)
  | commandCompletion (cmd : Nat)
  | deadLetterPost (die : Nat)
  | lateDelivery (flight : Nat)
  | irrevocableStepResume (cmd : Nat)
  | globalWritePerform (flight : Nat)
  | leaseExpiry (place idx : Nat)
  | bankSwitchComplete (cluster bnk : Nat)
  | fencePass (team lid : Nat)
  | frameService (ctx page : Nat)
  | serviceEnd (ctx page : Nat)
  | publicationPerform (cmd : Nat)
  | heldPartialMerge (cmd : Nat)
  | partialResend (cmd : Nat)
  | phActServed (act : Nat)
  | courierFill (cw : Nat)
  | spillModeEntry (scope owner num : Nat)
  | spillMove (scope owner num : Nat)
  | deadlock (ctx : Nat)
  | recordTake
  | teamStart (part : Nat)
  | startOrderBlock (part : Nat)
  | teamEnd (team : Nat)
  | gridRetire (lseq : Nat)
  | shareRecompute
  | switchBegin (part : Nat)
  | switchComplete (die : Nat)
  | budgetOverrun (team : Nat)
  | preemption (part : Nat)
  | saveComplete (team : Nat)
  | teamResume (part : Nat)
  | holdRelease (lseq : Nat)
  | taskCommit (ctx : Nat)
  | versionFold (lseq : Nat)
  | taskRelaunch (lseq : Nat)
  | frontierUpdate (core ctx : Nat)
  | parkTakeUp (lseq : Nat)
  | versionSpaceAbort (ctx : Nat)
  | ingressRequest (die : Nat) (req : FabReq)
  | requestAbsent (req : Nat)
  | peerRouteChange (die epid : Nat) (up kln : Bool)
  | foldNotice (die : Nat) (key : RemoteKey)
  | discardNotice (die : Nat) (key : RemoteKey)
  | retagNotice (die : Nat) (key : RemoteKey) (carbon : Nat)
  | postbagWrite
  | counterClear (m die : Nat)
  | halt (m : Nat) (q : DbgReq)
  | resume (m : Nat) (q : DbgReq)
  | step (m : Nat) (q : DbgReq)
  | debugRead (m : Nat) (q : DbgReq)
  | debugWrite (m : Nat) (q : DbgReq)
  | readpc (m : Nat) (q : DbgReq)
  | wset (m : Nat) (q : DbgReq) (blk : BitVec 512)
  | query (m : Nat) (q : DbgReq)
  | grant (m : Nat) (q : DbgReq)
  | revoke (m : Nat) (q : DbgReq)
  | claim (m : Nat)
  | handover (m nm : Nat)
  | take (m : Nat)
  | read (m space addr len : Nat)
  | write (m addr : Nat) (bytes : List Byte)
  | idkey (m : Nat)
  | attest (m : Nat) (nonce : BitVec 256)
  | reset (m : Nat)
  | masterDetach (m : Nat)
  | registerWrite (m addr : Nat) (words : List DWord)
  | sqctlWrite (m q : Nat) (v : DWord)
  | sqtailDoorbell (m q : Nat) (v : DWord)
  | partitionTableWrite (m addr : Nat) (words : List DWord)
  | feataccWrite (m addr : Nat) (words : List DWord)
  | classWrite (m : Nat) (v : DWord)
  | create (m ctx : Nat)
  | destroy (m ctx : Nat)
  | kill (m ctx : Nat)
  | restart (m ctx : Nat)
  | shootdown (m : Nat) (v : DWord)
  | preqPreempt (m : Nat) (v : DWord)
  | preqResume (m : Nat) (v : DWord)
  | bootgo (m : Nat) (v : DWord)
  | pbctlWrite (m : Nat) (v : DWord)
  | pbgetWrite (m : Nat) (v : DWord)
  | thermal (die temp : Nat)
  | softError (code loc : Nat) (corr : Bool)
  | masterAttach (m : Nat)
  | temperatureFall (die temp : Nat)
deriving DecidableEq, Repr

end Sys2Proof
end

