-- ==== Sys2Proof/Machine/State.lean ====
section
/-! DEFINITION. State.lean: everything the spec gives the KLN-8800, as plain data, and the state after reset. Tables keyed by
number (`Tab`) list only what differs from the default that their reader names. -/

namespace Sys2Proof.Machine

open Sys2Proof

/-! ### Launch records (R248, R335) -/

/-- A launch record (R248). -/
structure Rec where
  rolePc : List DWord := [0, 0, 0, 0]
  lanes32 : List Nat := [0, 0, 0, 0]
  regs8 : List Nat := [0, 0, 0, 0]
  gdx : Nat := 1
  gdy : Nat := 1
  gdz : Nat := 1
  pm : Bool := false
  guess : Bool := false
  flush : Bool := false
  padb : Nat := 0
  part : Nat := 0
  prio : Nat := 0
  opclass : Nat := 0
  carbon : Nat := 0
  config : DWord := 0
  params : DWord := 0
  postmark : Nat := 0
  sets : DWord := 0
  sigAddr : DWord := 0
  sigVal : Word := 0
  budget : Nat := 0
deriving DecidableEq, Repr, Inhabited

/-- A declared range (R335). -/
structure DRange where
  base : Nat
  len : Nat
deriving DecidableEq, Repr, Inhabited

/-- A record that has been read and checked, with its configuration block and declared ranges (R249, R334). -/
structure Launch where
  lrec : Rec
  config : List Byte
  sets : List DRange
deriving DecidableEq, Repr

/-- The number of no carbon: the binding of a record whose carbon has been shredded before post has put it in the out-tray (R479). -/
def noCarbon : Nat := 256

/-! ### Lanes and teams -/

/-- The state of a lane register (R20). -/
inductive RegSt
  | full
  | pend (pid : Nat) (port : Bool)   -- owed a delivery by producer pid; port: an instruction of classes 0x0 to 0x3 (R39)
  | opn
deriving DecidableEq, Repr, Inhabited

/-- A lane register: value, poison bit, state (R20, R68). -/
structure Reg where
  v : Word := 0
  poison : Bool := false
  st : RegSt := .full
deriving DecidableEq, Repr, Inhabited

/-- A predicate with its poison bit (R68). -/
structure Pred where
  v : Bool := false
  poison : Bool := false
deriving DecidableEq, Repr, Inhabited

/-- What a lane in the wait list waits for (R69), and so what its release does. -/
inductive Wait
  | regs (rs : List Nat)               -- these lane registers are full (R21, R22)
  | wset (bits : BitVec 5)             -- the wait set of the clause at its PC (R39)
  | fence (sc : Scope) (h : Addr) (slot : Option Nat) (count : Nat)   -- a fence (R152), where the lane goes on, COUNT of its clause
  | fenceLd (h : Addr) (slot : Option Nat)              -- fence.ld (R153), and where the lane goes on
  | page (p : Nat)                     -- frame service of a 64 KiB page of its context (R177, R179)
  | post (qid : Nat)                   -- a dead-letter record not yet placed (R187)
  | cmdq                               -- room in the core's command queue (R15)
  | word (off : Nat) (v : Word) (h : Addr) (slot : Option Nat)   -- waitw: the pad word differs from v (R238); where it goes on
  | act (n : Nat)                      -- a push or rput that waits its turn (R228 to R230)
  | hold (core : Nat)                  -- cwr: the target core's hold is full (R237)
  | ldp                                -- a pigeonhole act after an ldp of the lane whose pad write is to come (R226, R227)
  | holeCmd (h : Word)                 -- an act on the object of a handle after the lane's phcfg and phq on it (R226)
  | outTray (l : Launch) (d : Nat) (h : Addr) (slot : Option Nat)   -- post: a free entry of the out-tray for a record (R278); D, where it goes on
  | edges (w : Nat)                    -- a ninth reader edge: the version of task w that the read would return (R346)
  | fetch (p : Nat)                    -- a clause word whose page is being served (R177)
deriving DecidableEq, Repr

/-- A trap as formed where it was raised: clause address, cause word, info word (R102). -/
structure TrapRec where
  h : Addr
  cause : Word
  info : Word
deriving DecidableEq, Repr, Inhabited

/-- Why a lane is parked (R348). -/
inductive Park
  | act
  | trap (t : TrapRec)
  /-- A watch slot has fired: the lane halts, with this reason, once it is at the frontier (R437). -/
  | halt (reason : Nat)
deriving DecidableEq, Repr, Inhabited

/-- A lane (R68). Its PC is the header at `h`, or the word of slot k of the clause at `h` (R36). -/
structure Lane where
  role : Nat := 0
  rlid : Nat := 0
  h : Addr := 0
  slot : Option Nat := none
  regs : List Reg := []
  preds : List Pred := []
  inTrap : Bool := false
  /-- Latest WCT (R68, R154). -/
  wct : Nat := 0
  /-- Latest fabric WCT (R415). -/
  fwct : Nat := 0
  /-- The lane's fabric error (R415): the info word that fence.fabric reports. -/
  ferr : Option Word := none
  /-- Lease length in ns (R148). -/
  lease : Nat := 256
  wait : Option Wait := none
  parked : Option Park := none
  /-- Halted by a debugger, with the reason code (R431). -/
  halted : Option Nat := none
  /-- Watch slots that have fired at its PC and that it passes there without firing again (R431); 20 stands for bkpt. -/
  passing : List Nat := []
  /-- A step is in progress, for this master (R432). -/
  stepping : Option Nat := none
  /-- The TAG of the request that started the step (R454). -/
  stepTag : Nat := 0
  exited : Bool := false
  /-- A page whose service was refused while the lane waited at its word (R179). -/
  refused : Option Nat := none
  /-- The page for which its access at its word has asked service, and the cycle of that execution of the word (R178 step 3). -/
  asked : Option (Nat × Nat) := none
  /-- Sectors (physical address / 128) of which a copy is still held that is older than what the lane has read, each with the number
  of the oldest fill that may serve the lane, and that number for all sectors (R158 point 1). -/
  seen : List (Nat × Nat) := []
  floor : Nat := 0
  /-- The addresses of the reads of its word that have been counted as waiting for a ninth edge (R369). -/
  counted : List Nat := []
deriving DecidableEq, Repr, Inhabited

/-- A lane's PC (R36). -/
def Lane.pc (l : Lane) : Addr :=
  match l.slot with
  | none => l.h
  | some k => l.h + BitVec.ofNat 56 (8 * (k + 1))

/-- A collection point (R232). -/
structure Point where
  phase : Nat := 0
  plast : Nat := 0
  pvalid : Bool := false
  expect : Nat
  dflt : Nat
  once : Bool := false
  arrived : Nat := 0
  pcur : Bool := false
deriving DecidableEq, Repr, Inhabited

/-- An entry of a pigeonhole: value and poison bit (R222). -/
structure Entry where
  v : DWord
  poison : Bool
deriving DecidableEq, Repr, Inhabited

/-- Where a team's resources are (R67, R271). -/
inductive Loc
  | resident (core slot : Nat)
  | saving (core slot : Nat)          -- halted, its save running
  | saved
deriving DecidableEq, Repr, Inhabited

/-- A trap of a lane of a team on its way to its trap-entry group (R101, R103). -/
structure TrapPend where
  cyc : Nat
  h : Addr
  lid : Nat
  /-- Waits at TVEC for the wait set of the clause there. -/
  waits : Bool
deriving DecidableEq, Repr, Inhabited

/-- What a waiting act of a pigeonhole does (R226, R228 to R235). -/
inductive PActKind
  | push (v : Entry)
  | pop
  | poll
  | stamp (n : Nat)
  | rput (t : Nat) (v : Entry)
  | rtake
  | await (p : Nat)
deriving DecidableEq, Repr, Inhabited

/-- A waiting act, by number in order of arrival, on a pigeonhole (scope, owner, number) or a point (scope 3, team, number). -/
structure PAct where
  kind : PActKind
  scope : Nat
  owner : Nat
  num : Nat
  tid : Nat
  lid : Nat
  /-- D; 224 for none. -/
  d : Nat := 224
  wide : Bool := false
  /-- Clause and slot of its word, the count of its clause, and the cycle of its arrival. -/
  h : Addr := 0
  slot : Nat := 0
  count : Nat := 0
  since : Nat := 0
deriving DecidableEq, Repr, Inhabited

/-- A team's allocation in its core's matrix engine (R289): units of 32 rows and units of 1 KiB, where they lie, the words that are not
0 by 256 × row + column, and the B-slice bytes that are not 0 by 65,536 × column + offset, both relative to its runs. -/
structure AccStore where
  runits : Nat := 0
  bunits : Nat := 0
  rowAt : Nat := 0
  bAt : Nat := 0
  rows : List (Nat × Word) := []
  slices : List Host.Cell := []
deriving DecidableEq, Repr, Inhabited

/-- A node of a draft tree (R373). -/
structure TNode where
  token : Nat := 0
  score : Nat := 0
  parent : Nat := 0
  flags : Nat := 0
  depth : Nat := 0
deriving DecidableEq, Repr, Inhabited

/-- A held tree slot (R372). -/
structure Tree where
  seq : Nat := 0
  kv0 : Nat := 0
  basePos : Nat := 0
  nodes : List TNode := []
deriving DecidableEq, Repr, Inhabited

/-- A team (R12, R262). -/
structure Team where
  /-- Its grid, by lseq, and its linear index in it. -/
  lseq : Nat
  tlin : Nat
  loc : Loc
  lanes : List Lane := []
  /-- s0 to s31 (R77). -/
  scal : List Word := []
  /-- Scalar writes of this cycle: scheduler, scalar, value (R79). -/
  pendScal : List (Nat × Nat × Word) := []
  padb : Nat := 0
  /-- First 64-byte unit of the pad in the cluster's PAD banks (R260). -/
  padAt : Nat := 0
  /-- Pad bytes that are not zero, by pad offset (R260). -/
  pad : List Host.Cell := []
  /-- FLUSH of the launch record (R113). -/
  flush : Bool := false
  /-- Cycles counted before the last start or resume, and the cycle of that (R267). -/
  budBase : Nat := 0
  since : Nat := 0
  /-- The cycle of its start (R270). -/
  started : Nat := 0
  /-- Returned: 0 not; 1 an overrun; 2 and above, 2 + the trap code (R267). -/
  returned : Nat := 0
  /-- Baton partner, holder flag, and a move that waits: the team that is to get the baton (R98). -/
  partner : Option Nat := none
  holder : Bool := false
  batonMove : Option Nat := none
  traps : List TrapPend := []
  /-- Its collection points, by number (R218). -/
  points : List (Nat × Point) := []
  /-- The DBG bit of its image: a lane of it has been halted at a save, or edited (R430, R432). -/
  dbg : Bool := false
  /-- The lanes that were saved halted when debug rights over its image ended: they run on at resume (R427). -/
  unhalt : Option (List Nat) := none
  /-- Waits for the operating point of its die (R266). -/
  heldPoint : Bool := false
  /-- The instant at which it last joined its partition's start order (R261). -/
  joined : Nat := 0
  /-- Its allocation in the matrix engine, and its tree slots by number (R289, R372). -/
  acc : AccStore := {}
  trees : List (Nat × Tree) := []
  /-- Its image's place in the save area of its context: first unit, units, bytes, and the number of the image (R272). -/
  image : Option (Nat × Nat × Nat × Nat) := none
  /-- Takes and awaits that are issued again at resume (R247). -/
  owed : List (Nat × PAct) := []
deriving DecidableEq, Repr

/-! ### Issue (R69 to R73) -/

/-- An issue bin: its key (team, PC), and its lanes with the cycle at which each was filed (R69). -/
structure Bin where
  tid : Nat
  pc : Addr
  lanes : List (Nat × Nat)
deriving DecidableEq, Repr, Inhabited

/-- A lane of the spill list (R69). -/
structure Spill where
  tid : Nat
  pc : Addr
  lid : Nat
  cyc : Nat
deriving DecidableEq, Repr, Inhabited

/-- An active group (R71): the clause as fetched, the slot it is to issue next, its lanes by slot. -/
structure Group where
  gid : Nat
  tid : Nat
  h : Addr
  hdr : DWord
  words : List DWord
  slot : Nat
  /-- (slot in the group, team-lane index), rising. -/
  lanes : List (Nat × Nat)
  /-- Since when it has been able to issue without issuing (R73), the cycle from which it can issue (R80, R118), and whether
  its last word may take longer, being of no class 0x0 or 0x1 (R73). -/
  since : Nat
  busy : Nat := 0
  slow : Bool := false
  /-- A trap-entry group whose first word has not issued, and a trap-entry group: it ends with its first clause (R101, R103). -/
  entry : Bool
  own : Bool := false
deriving DecidableEq, Repr, Inhabited

/-- An issue scheduler (R69, R72). -/
structure Sched where
  bins : List Bin := []
  spill : List Spill := []
  groups : List Group := []
  credit : List Int := [0, 0, 0, 0]
  /-- The resident slot of the team last served, per partition (R72). -/
  last : List (Option Nat) := [none, none, none, none]
  /-- The cycle of its last group formation, and the last cycle that its words take for issue, each plus 1; 0 for none (R71, R73, R118). -/
  formed : Nat := 0
  issued : Nat := 0
  /-- The task and launch for whose lanes the word of this cycle issued, and whether that launch has been discarded since (R449). -/
  issuedFor : Option (Nat × Nat) := none
  wasted : Bool := false
deriving DecidableEq, Repr, Inhabited

/-- A copy of a 128-byte sector in the L1 level under a lease (R130, R156, R173). -/
structure Copy where
  ctx : Nat
  carbon : Nat
  va : Nat
  pa : Nat
  data : List Byte
  exp : Nat
  leaf : DWord
  tags : List (BitVec 4)
  /-- The number of its fill, in the order of fills (R158, R175). -/
  filled : Nat
deriving DecidableEq, Repr, Inhabited

/-- A core's frontier copy for a context (R330): none when there is no frontier, else (postmark, lseq; lseq 0 for a barrier). -/
structure FrontCopy where
  ctx : Nat
  key : Option (Nat × Nat)
deriving DecidableEq, Repr, Inhabited

/-- Task states (R329). -/
inductive TaskSt
  | held | running | finished | committed | aborted
deriving DecidableEq, Repr, Inhabited

/-- A writer of versions: a task of the same context, or a task of another endpoint (R419). -/
inductive Writer
  | task (lseq : Nat)
  | remote (die src ctx lseq : Nat)
deriving DecidableEq, Repr, Inhabited

/-- A task-table entry (R329). -/
structure Task where
  idx : Nat
  ctx : Nat
  postmark : Nat
  carbon : Nat
  st : TaskSt
  /-- Relaunches, and the launch that accesses carry (R337, R347). -/
  relaunch : Nat := 0
  launch : Nat := 0
  holdm : Bool := false
  guess : Bool := false
  /-- The set bits of its read signature, rising (R344). -/
  sig : List Nat := []
  edges : List Writer := []
  edgeWaits : Nat := 0
  /-- Its dependences, as found when it was taken or last relaunched, by lseq (R336). -/
  deps : List Nat := []
  /-- Declared ranges 0 to 3 (read) and 4 to 7 (write), and those of the launch record (R335, R368). -/
  sets : List DRange := []
  sets0 : List DRange := []
  acode : Word := 0
  /-- Pending acts: carbon and whether a seal (R357). -/
  acts : List (Nat × Bool) := []
  /-- Ends after its teardown instead of relaunching (R329). -/
  ends : Bool := false
  /-- Its abort does not count as a relaunch (R342). -/
  uncounted : Bool := false
  /-- Its commit's WCT, once committed (R332). -/
  cwct : Nat := 0
  /-- Slots that its lanes have issued, per die (R449). -/
  issued : List Nat := [0, 0]
deriving DecidableEq, Repr

/-- A core's copy of a task-table entry (R367): the task by lseq, its entry and its carbon's depth as copied. -/
structure TaskCopy where
  lseq : Nat
  entry : Task
  depth : Nat
deriving DecidableEq, Repr

/-- A core. -/
structure Core where
  scheds : List Sched := [{}, {}, {}, {}]
  l1 : List Copy := []
  front : List FrontCopy := []
  /-- Copies of task-table entries that differ from the table; of an entry that is not listed the copy is as the table (R367). -/
  copies : List TaskCopy := []
  /-- Cycles in which its matrix array has multiplied, since reset (R308). -/
  array : Nat := 0
deriving DecidableEq, Repr, Inhabited

/-- The mode of a tile-store bank, and the cycle at which a switch to it began (R149, R150). -/
structure Bank where
  mode : BMode
  sw : Option Nat := none
deriving DecidableEq, Repr, Inhabited

/-- A TLB entry: the page of (context, page, size) with its leaf (R173). -/
structure TlbEnt where
  ctx : Nat
  page : Nat
  big : Bool
  leaf : DWord
deriving DecidableEq, Repr, Inhabited

/-- A cluster: its CACHE-bank copies, TLB and tile-store banks. -/
structure Cluster where
  cache : List Copy := []
  tlb : List TlbEnt := []
  /-- Banks that differ from their reset mode. -/
  banks : List (Nat × Bank) := []
deriving DecidableEq, Repr, Inhabited

/-! ### Launching (R248 to R263) -/

/-- A grid that has been taken and has not retired (R254), by lseq. -/
structure Grid where
  ctx : Nat
  lrec : Rec
  depth : Nat := 1
  /-- The posting team and its grid's lseq (R264). -/
  posterTeam : Option Nat := none
  posterGrid : Option Nat := none
  /-- Held by preempt (R284). -/
  held : Bool := false
  /-- Teams not yet started are those of linear index `next` and above. -/
  next : Nat := 0
  ended : Nat := 0
  returned : Nat := 0
  /-- Largest WCT of its status entries (R263). -/
  statWct : Nat := 0
  /-- The instant at which its unstarted teams joined the start order (R261). -/
  joined : Nat := 0
  /-- The configuration block, 256 bytes, or empty (R221). -/
  config : List Byte := []
  /-- Its task ended by a shred: no completion signal (R356). -/
  shredded : Bool := false
  /-- Pages for which a signal or status store waits, and pages whose service was refused (R269). -/
  pages : List Nat := []
  refused : List Nat := []
  /-- A signal or status store waits for a version's place, or for a version of a writer to go (R342, R346). -/
  full : Bool := false
deriving DecidableEq, Repr

/-! ### Tasks, versions, carbons (12) -/

/-- A version of a 512-byte line (R338): its writer, and the bytes written, by offset in the line. -/
structure Version where
  ctx : Nat
  line : Nat
  writer : Writer
  launch : Nat
  cells : List Host.Cell
  spilled : Bool
deriving DecidableEq, Repr, Inhabited

/-- A carbon (R352). -/
structure Carbon where
  ctx : Nat
  num : Nat
  parent : Nat
  postmark : Nat
  depth : Nat
  owner : Option Nat
deriving DecidableEq, Repr, Inhabited

/-! ### Accesses on their way to the slices -/

/-- The tags of an access (R30): core, context, carbon, and the task and its launch, if any. -/
structure Tags where
  core : Nat
  ctx : Nat
  carbon : Nat
  task : Option (Nat × Nat)
deriving DecidableEq, Repr, Inhabited

/-- What a lane's global access does. -/
inductive FKind
  | ld (sz : Sz) (hint : Hint)
  /-- A load of the dead-letter window, at an offset (R186). -/
  | win (off : Nat) (sz : Sz)
  /-- A pad load, at a pad offset: read, and waiting to be delivered (R164). -/
  | pld (off : Nat) (sz : Sz)
  | st (sz : Sz)
  | rmw (fn : AFn) (ty : Ty)
  | red (fn : AFn) (ty : Ty)
  | qpush
  | qpop
  | tagr
  | tagw
  | ldp (off : Nat) (pt : Nat)
  | xlq (fill wr : Bool)
  | pref (l1 : Bool)
  /-- kvx of a sequence and position; `ptr` is the pool (R393). -/
  | kvx (seq pos : Nat) (wr : Bool)
  /-- A value that is ready and only waits to be delivered (prmw, acts of other engines). -/
  | done (hi lo : Word) (poison : Bool)
  /-- Fabric accesses whose requests are out (14): fld, fst (with its size), frmw. -/
  | fabLd (sz : Sz)
  | fabSt (sz : Sz)
  | fabRmw
deriving DecidableEq, Repr, Inhabited

/-- How far an access is. -/
inductive FStage
  | ready                      -- translated, on its way
  | page (p : Nat)             -- waits for frame service of its page (R179)
  | fail (cause : Nat)         -- its translation has failed, its record still to be formed (R184)
  | post (qid : Nat)           -- failed, its record not yet placed (R187)
  | bad                        -- to be delivered with poison (R177)
  | edge (w : Nat)             -- waits for a ninth reader edge, on task w (R346)
  | got (v : DWord)            -- read at its read instant, not yet delivered
  | owed                       -- saved with its team, to be issued again at resume (R164)
deriving DecidableEq, Repr, Inhabited

/-- An issued access of a lane that is not yet delivered or performed, by number in issue order. -/
structure Flight where
  tid : Nat
  lid : Nat
  tags : Tags
  kind : FKind
  /-- The pointer as formed (R135), and the physical address and leaf of its translation. -/
  ptr : DWord := 0
  pa : Nat := 0
  leaf : DWord := 0
  data : DWord := 0
  /-- D; 224 for none. -/
  d : Nat := 224
  wide : Bool := false
  stage : FStage := .ready
  /-- Clause address, slot and class of the word (R185). -/
  h : Addr := 0
  slot : Nat := 0
  cls : Nat := 0
  /-- Lease length for its fill (R148), and the cycle in which its word issued (R144). -/
  lease : Nat := 256
  exe : Nat := 0
  /-- B's code, and COUNT of the clause (R102, R185). -/
  breg : Nat := 0
  count : Nat := 0
  /-- A page whose service was refused while the access waited (R179). -/
  refused : Bool := false
  /-- Its wait for a ninth edge has been counted (R369). -/
  counted : Bool := false
  /-- The second register of its pair is delivered without poison: a poll (R228). -/
  clean : Bool := false
  /-- Further pointers at which its reads have failed, each with the cause (R393). -/
  also : List (DWord × Nat) := []
  /-- Its write waits for a version's place (R342). -/
  full : Bool := false
  /-- The team index and role of its lane, for the record of an access that outlives its team (R417). -/
  tlin : Nat := 0
  role : Nat := 0
  /-- kvx: parts of the slots that it copies that have been read ahead, and whether its writes are left, in units of so many words (R393,
  R476). -/
  early : List (Bool × Nat × List Byte) := []
  lag : Option Nat := none
deriving DecidableEq, Repr, Inhabited

/-! ### Engine commands (01) -/

/-- How far an engine command is (R15, R25, R33). -/
inductive CmdSt
  | queued
  | run
  | post (qid : Nat)                       -- failed, its record group not yet placed (R27)
  | ended (status : Word) (failed : Bool)  -- only the fill of D is left
deriving DecidableEq, Repr, Inhabited

/-- A place of an engine's step: a pad offset, or a pointer with the physical address and the leaf of its translation. -/
structure EngPlace where
  pad : Bool
  at_ : Nat
  pa : Nat := 0
  leaf : Nat := 0
deriving DecidableEq, Repr, Inhabited

/-- A write of a command's step that is performed after the step (R202, R318, R476): the bytes, and the place to which they are written. -/
structure Late where
  bytes : List Byte
  dst : EngPlace
deriving DecidableEq, Repr, Inhabited

/-- An engine command, by number in issue order. -/
structure Cmd where
  instr : Instr
  tid : Nat
  lid : Nat
  tags : Tags
  h : Addr
  slot : Nat
  /-- Status register, pad offset of the block, value of B. -/
  d : Nat
  aoff : Nat
  b : Word
  spec : Bool
  /-- Issued under an irrevocable right: the lane's task was at the frontier (R32 is judged at the step). -/
  st : CmdSt := .queued
  /-- Pad bytes as they were before later stores of the issuing lane, by pad offset, until acceptance (R16). -/
  shadow : List Host.Cell := []
  /-- The block as captured at acceptance (R15), and the order of acceptance. -/
  blk : List Byte := []
  accepted : Nat := 0
  /-- The step to perform next, and the engine's own progress. -/
  step : Nat := 0
  vals : List Nat := []
  data : List Nat := []
  /-- Largest WCT of its global writes (R19). -/
  wct : Nat := 0
  /-- Suspended with its team (R33); waits for frame service of a page, or for a page refused (R177, R179). -/
  suspended : Bool := false
  /-- Waits before an irrevocable act for the frontier (R32); for a version's place (R342). -/
  held : Bool := false
  full : Bool := false
  page : Option Nat := none
  refused : Option Nat := none
  /-- The pages of the step that waits for service (R178 step 3). -/
  keep : List Nat := []
  /-- Its reads are loads of a lane: a page not mapped fails, unless its service is pending (R393). -/
  asLoad : Bool := false
  /-- Reads of coming steps that have been performed before them: pad or memory, pad offset or pointer, bytes; and whether a step
  has used one (R202, R476). -/
  early : List (Bool × Nat × List Byte) := []
  used : Bool := false
  /-- The next step's writes are performed after it, in units of so many words; those that are still to come (R202). -/
  lag : Option Nat := none
  late : List Late := []
  /-- A read of its step waits for a ninth edge, on a task; the addresses of its step's reads that have been counted so (R346, R369). -/
  edge : Option Nat := none
  counted : List Nat := []
  /-- fldr: the instant at which members of its step were first found absent or refused, the members, and the cause of each (R423). -/
  bad : List (Nat × Nat × Nat) := []
  /-- hook: its record, read and checked, which waits for an entry of the out-tray (R323). -/
  record : Option Launch := none
deriving DecidableEq, Repr

/-- A lane of the word being executed whose translation for a write has failed (R177). -/
structure WFail where
  lid : Nat
  ptr : DWord
  cause : Nat
deriving DecidableEq, Repr, Inhabited

/-! ### Pigeonholes (08) -/

/-- A live pigeonhole (R218, R222): its scope (0 team, 1 cluster, 2 package), its owner (team, cluster, or 0) and number. -/
structure Pigeon where
  scope : Nat
  owner : Nat
  num : Nat
  ctx : Nat
  kind : Nat
  depth : Nat
  resv : Nat := 0
  /-- A queue's entries, the oldest first; a rack's full slots by number. -/
  entries : List Entry := []
  slots : List (Nat × Entry) := []
  headt : Nat := 0
  /-- The overflow extension, the oldest first, and the chunks that it holds (R242). -/
  spill : List Entry := []
  spm : Bool := false
  chunks : Nat := 0
  /-- Backing: units per FIFO bank of its cluster; empty while its team is saved (R220, R247). -/
  units : List (Nat × Nat) := []
deriving DecidableEq, Repr, Inhabited

/-- An accepted courier write that is held, by number in order of acceptance (R237). -/
structure Courier where
  tid : Nat
  lid : Nat
  reg : Nat
  v : Word
  poison : Bool
  /-- The point to bump, and the sender. -/
  point : Option Nat
  byTid : Nat
  byLid : Nat
deriving DecidableEq, Repr, Inhabited

/-! ### Shadow pairs (07) -/

/-- A pair slot of a context (R207): the 64-bit WCT of its last publication or close, and the swapped ranges (front, back, pages) in
force until then, if they were swapped. -/
structure Pair where
  ctx : Nat
  num : Nat
  front : Nat
  back : Nat
  pages : Nat
  gen : Nat := 0
  flip : Bool := false
  live : Bool := true
  wlast : Nat := 0
  old : Option (Nat × Nat × Nat) := none
deriving DecidableEq, Repr, Inhabited

/-! ### Pools (13) -/

/-- What the sequence engine keeps of a block that it took for a task (R403, R404): the pool's header and descriptor array, the block
whose storage it is, the block taken, the storage that it replaces if it is a copy, the carbon under which it counts as made, and the
task by lseq. -/
structure KvRec where
  ctx : Nat
  pool : Nat
  desc : Nat
  blk : Nat
  store : Nat
  old : Option Nat
  carbon : Nat
  task : Nat
deriving DecidableEq, Repr, Inhabited

/-! ### Fabric engine (14) -/

/-- A live entry of an import table (R408). -/
structure Export where
  base : Nat
  key : Nat
  pages : Nat
  peer : Nat
  any : Bool
  ctx : Nat
  wr : Bool
  atomics : Bool
  vers : Bool
deriving DecidableEq, Repr, Inhabited

/-- A live multicast group (R420): its context and its members' endpoint, entry and key. -/
structure FabGroup where
  ctx : Nat
  members : List (Nat × Nat × Nat)
deriving DecidableEq, Repr, Inhabited

/-- A die's fabric engine (R407, R408, R420): live entries and groups by number, and by EPID the peers' UP and KLN. -/
structure FabDie where
  table : List (Nat × Export) := []
  groups : List (Nat × FabGroup) := []
  peers : List (Nat × Bool × Bool) := []
deriving DecidableEq, Repr, Inhabited

/-- A task of another endpoint that holds remote versions here (R419): the die, the endpoint, its context and lseq, with the carbon and
postmark under which it writes. -/
structure RemoteTask where
  die : Nat
  src : Nat
  ctx : Nat
  lseq : Nat
  carbon : Nat
  postmark : Nat
  /-- The entries through which it has written. -/
  entries : List Nat
deriving DecidableEq, Repr, Inhabited

/-- Whose a request is: a lane's access by its flight; a part of a command's step for a member; a fold notice of a task. -/
inductive FabBy
  | lane (fid : Nat)
  | cmd (cid step member part : Nat)
  | fold (lseq : Nat)
deriving DecidableEq, Repr, Inhabited

/-- A request that awaits its response, by number: from which die, to which endpoint, what (none for a fold), since when. -/
structure FabOut where
  die : Nat
  epid : Nat
  req : Option FabReq
  sent : Nat
  owner : FabBy
  /-- The lane whose access it is: its team and index (R416). -/
  lane : Option (Nat × Nat) := none
deriving DecidableEq, Repr, Inhabited

/-- A notice sent to another endpoint (R418): from which die, to which endpoint, about the task of which context and lseq. -/
inductive Notice
  | fold (die epid ctx lseq : Nat)
  | discard (die epid ctx lseq : Nat)
  | retag (die epid ctx lseq carbon : Nat)
deriving DecidableEq, Repr, Inhabited

/-- The fabric engines of the package. -/
structure Fabric where
  dies : List FabDie := [{}, {}]
  outs : List (Nat × FabOut) := []
  /-- Endpoints that tasks have written: lseq, die, endpoint (R418). -/
  wrote : List (Nat × Nat × Nat) := []
  remotes : List RemoteTask := []
  /-- Notices sent, and responses sent to other endpoints (die, endpoint, response), the oldest first. -/
  notices : List Notice := []
  /-- Requests that have been admitted and not yet performed, by number: their die, and the entry that admitted them (R409, R424). -/
  kept : List (Nat × Nat × Export × FabReq) := []
  replies : List (Nat × Nat × FabResp) := []
  /-- Of kept requests of which some parts have been performed: their number, how many, the bytes read, the largest WCT (R476). -/
  begun : List (Nat × Nat × List Byte × Nat) := []
  /-- Of kept requests of this package, as what they were sent, although found absent since (R416). -/
  keptOuts : List (Nat × FabOut) := []
  /-- Pages, by context, for which a request waits, and pages whose service was refused (R409). -/
  pages : List (Nat × Nat) := []
  refused : List (Nat × Nat) := []
deriving DecidableEq, Repr

/-! ### Debug engine (15) -/

/-- A context's debug state (R426), with the watch slots that are set: bits [191:0] of their blocks (R433). -/
structure DbgCtx where
  rights : Bool := false
  laneset : Bool := false
  holder : Nat := 0
  slots : List (Nat × BitVec 192) := []
deriving DecidableEq, Repr, Inhabited

/-- The trace unit and the postbag's registers (R444, R446). -/
structure Trace where
  base : Nat := 0
  en : Bool := false
  logn : Nat := 7
  kinds : Nat := 0
  ctxen : Nat := 0
  put : Nat := 0
  get : Nat := 0
  drops : Nat := 0
  delay : Nat := 0
  /-- Records that await their writes, the cycles at which they were formed, and the last cycle counted in DELAY, plus 1. -/
  held : List (BitVec 256) := []
  heldAt : List Nat := []
  delayed : Nat := 0
deriving DecidableEq, Repr, Inhabited

/-- A die's slot counters (R448): counters 0 to 8 of the live set, the cycle of the last clear, and the snapshot. -/
structure DieCtr where
  live : List Nat := [0, 0, 0, 0, 0, 0, 0, 0, 0]
  since : Nat := 0
  snap : List Nat := [0, 0, 0, 0, 0, 0, 0, 0, 0, 0, 0, 0, 0]
deriving DecidableEq, Repr, Inhabited

/-- A firing of a sync watchpoint in the word being executed: team, lane, watch slots. -/
structure SyncHit where
  tid : Nat
  lid : Nat
  slots : List Nat
deriving DecidableEq, Repr, Inhabited

/-! ### Dead letters and frame service (06) -/

/-- What happens when a record group that waited is placed (R187, R188). -/
inductive PostAct
  | none
  /-- These loads are then delivered with poison; a record that asked for service of a page is tied to it (R185). -/
  | loads (fids : List Nat) (page : Option Nat)
  /-- Trap these lanes with (h, cause word) and cause code; the info word names the record (R183). -/
  | lanes (tid : Nat) (lids : List Nat) (h : Addr) (cause : Word) (code : Nat)
  | cmd (cid : Nat)
  /-- These fabric stores of lanes of a team have been refused or absent, with a cause (R415, R417). -/
  | fabric (fids : List Nat) (cause : Nat)
deriving DecidableEq, Repr, Inhabited

/-- A record group waiting for room (R187). -/
structure Post where
  qid : Nat
  die : Nat
  ctx : Nat
  recs : List (BitVec 256)
  act : PostAct
deriving DecidableEq, Repr, Inhabited

/-- A die's dead-letter queue (R184, R189); records not listed are free and zero. -/
structure Dlq where
  put : Nat := 0
  waits : Nat := 0
  held : List (Nat × Nat × BitVec 256) := []
deriving DecidableEq, Repr, Inhabited

/-- A frame service pending for a page of a context (R178, R179). -/
structure Svc where
  ctx : Nat
  page : Nat
  die : Nat
  /-- LOAD records with STATE PENDING for it: die, index and the record. -/
  recs : List (Nat × Nat × BitVec 256)
  /-- none until firmware has acted; then whether the page was served. -/
  served : Option Bool
  /-- Carries the victim whose leaf has been written with VALID = 0 and whose shootdown is running. -/
  victim : Option Nat
  /-- The executions of words whose loads asked for it and did not wait: team, clause, slot, cycle (R178 step 3). -/
  execs : List (Nat × Addr × Nat × Nat) := []
deriving DecidableEq, Repr, Inhabited

/-- A page saved to the control node's backing store (R178 step 4): bytes and tags by offset in the page. -/
structure Backed where
  ctx : Nat
  page : Nat
  cells : List Host.Cell
  tags : List (Nat × BitVec 4)
deriving DecidableEq, Repr, Inhabited

/-! ### Contexts -/

inductive CtxSt | free | ready | faulted
deriving DecidableEq, Repr, Inhabited

/-- A mappable range (R181). -/
structure MRange where
  base : Nat
  len : Nat
  attr : BitVec 9
deriving DecidableEq, Repr, Inhabited

/-- A context (R167, R251, R456): its state, its descriptor as read at CREATE or RESTART, and what firmware keeps of it. -/
structure Ctx where
  st : CtxSt := .free
  /-- The 16 words of the descriptor (R251). -/
  desc : List DWord := []
  ranges : List MRange := []
  /-- Pool frames (first, count) and those in use (R181). -/
  pool : List (Nat × Nat) := []
  used : List Nat := []
  /-- A context fault that has struck and whose teardown has not run: kind, detail, instant (R459, R460). -/
  fault : Option (Nat × Nat × Nat) := none
  /-- The last commit's WCT (R332), and its cycle, plus 1; 0 for none (R331). -/
  cwct : Nat := 0
  commitCyc : Nat := 0
  /-- Cycles for which the conditions of R244 have held together. -/
  stuck : Nat := 0
deriving DecidableEq, Repr, Inhabited

/-! ### Dispatch engine (09) -/

/-- A submission queue (R252). -/
structure SubQ where
  base : DWord := 0
  en : Bool := false
  ctx : Nat := 0
  logn : Nat := 4
  tail : Nat := 0
  head : Nat := 0
  drops : Nat := 0
deriving DecidableEq, Repr, Inhabited

/-- An out-tray entry (R254, R479): the record, its lseq, and the carbon that it is bound to if it is a task. -/
structure Tray where
  lseq : Nat
  ctx : Nat
  lrec : Rec
  config : List Byte
  depth : Nat
  posterTeam : Option Nat
  posterGrid : Option Nat
  carbon : Nat
  /-- Its declared ranges, as read when the record was checked (R334). -/
  sets : List DRange := []
  /-- Held by preempt. -/
  held : Bool := false
  /-- Relaunch count and launch of a displaced task (R333). -/
  relaunch : Nat := 0
  launch : Nat := 0
  displaced : Bool := false
deriving DecidableEq, Repr

/-- The partition table (R256). -/
structure PTable where
  ewma : Nat := 32768
  pairen : Bool := false
  pairtot : Nat := 0
  smax : Nat := 0
  smin : Nat := 0
  target : Nat := 0
  draft : Nat := 0
  shares : List Nat := [16, 16, 16, 16]
deriving DecidableEq, Repr, Inhabited

/-- The operating point of a die (R266). -/
structure DiePoint where
  cls : Nat := 1
  /-- The instant at which it took its class. -/
  since : Nat := 0
  /-- A switch in progress: to which class, begun at which instant, and for which opclass command if any. -/
  sw : Option (Nat × Nat) := none
deriving DecidableEq, Repr, Inhabited

/-- The dispatch engine. -/
structure Disp where
  queues : List (Nat × SubQ) := []
  tray : List Tray := []
  lseq : Nat := 1
  /-- The cycle of the last record taken, plus 1; 0 for none (R254). -/
  lastTake : Nat := 0
  /-- Pages, by context, for which the taking of a record waits, and pages whose service was refused (R177, R249). -/
  pages : List (Nat × Nat) := []
  refused : List (Nat × Nat) := []
  /-- Per partition, the team (lseq, tlin) that no later team may pass (R261). -/
  blocked : List (Nat × Nat × Nat) := []
  /-- Source last served: 0 to 15 a queue, 16 the tray (R254). -/
  lastSrc : Nat := 16
  ptable : PTable := {}
  /-- Core of each partition's last start or resume (R261). -/
  lastCore : List Nat := [127, 127, 127, 127]
  /-- Per die, cycle of the last start or resume, plus 1; 0 for none (R261). -/
  lastStart : List Nat := [0, 0]
  /-- Start chosen and waiting for its front end, per partition: the team's lseq and tlin, and the core (R261). -/
  chosen : List (Nat × Nat × Nat × Nat) := []
  points : List DiePoint := [{}, {}]
  /-- Switches that a write of CLASS has asked for and that wait for one in progress: die and class (R281, R456). -/
  classReq : List (Nat × Nat) := []
  /-- Franking time of the last recomputation of the pair's shares, in units of 10,000 ns (R265). -/
  shareTick : Nat := 0
  /-- The accepts of this cycle: core, team-lane index, r (R279). -/
  accepts : List (Nat × Nat × Nat) := []
deriving DecidableEq, Repr

/-! ### System controller (16) -/

/-- A die's error counters (R474). -/
structure ErrCtr where
  last : Nat := 0
  uncorr : Nat := 0
  hbm : Nat := 0
  l2 : Nat := 0
  tile : Nat := 0
  core : Nat := 0
  refill : Nat := 0
  /-- THROTTLE, and the last cycle counted in it, plus 1. -/
  throttle : Nat := 0
  throttled : Nat := 0
deriving DecidableEq, Repr, Inhabited

/-- The system controller (R451 to R474). -/
structure Sys where
  /-- FEATACC, and whether its one write has been made (R462). -/
  featAcc : Nat := 0
  featDone : Bool := false
  /-- The owner, the master to which an offer stands, and the masters attached (R452). -/
  owner : Option Nat := none
  offer : Option Nat := none
  attached : List Nat := []
  /-- The cycle and the TAG of the CLAIM by which the owner became it (R452). -/
  claimed : Option (Nat × Nat) := none
  /-- The TAG of the request being served; 0 between requests (R454). -/
  tag : Nat := 0
  /-- The master and the TAG of a RESET that runs (R466). -/
  resetBy : Option (Nat × Nat) := none
  /-- BSTATE: 0 ROM, 1 RUN, 2 FAILED; and the measurement register M (R463, R464). -/
  bstate : Nat := 0
  /-- The image whose checks run: 0 CTRL, 1 SVC (R465). -/
  bootRun : Option Nat := none
  m : List Byte := List.replicate 64 0
  ctxtab : Nat := 0
  epidA : Nat := 0
  epidB : Nat := 0
  /-- CTXCTL.CTX, and an operation that waits for a teardown: its context and whether it is DESTROY (R458, R461). -/
  opCtx : Nat := 0
  op : Option (Nat × Bool) := none
  shootVa : Nat := 0
  shootCtx : Nat := 0
  shootPages : Nat := 0
  /-- A shootdown that runs, GO of SHOOTCTL reading 1: context, first page, pages (R456). -/
  shootGo : Option (Nat × Nat × Nat) := none
  /-- PREQ, with the teams whose saves it waits for (R456). -/
  preqRes : Bool := false
  preqCtx : Nat := 0
  preqHandle : Nat := 0
  preqTids : List Nat := []
  /-- BIMG and BLEN of the two images (R465). -/
  bimg : List Nat := [0, 0]
  blen : List Nat := [0, 0]
  /-- The event log, the oldest entry first, and the last SEQ (R471). -/
  log : List (BitVec 256) := []
  seq : Nat := 0
  /-- The error counters of the dies (R474). -/
  errs : List ErrCtr := [{}, {}]
  /-- PWRA and PWRB: the dies' mean power over the last window of 1 ms (R474), and the number of the window that runs. -/
  power : List Nat := [0, 0]
  window : Nat := 0
  /-- Temperatures of the dies (R469), and whether a package fault has stopped the controller (R470). -/
  temps : List Nat := [0, 0]
  stopped : Bool := false
  /-- Frames that have been retired (R470). -/
  retired : List Nat := []
  /-- By master, the largest WCT of its memory writes (R455). -/
  memWct : List (Nat × Nat) := []
  /-- Debug WRITEs to empty-pending registers that await the end of the cycle: master, TAG, request (R430). -/
  writes : List (Nat × Nat × DbgReq) := []
deriving DecidableEq, Repr

/-! ### The model's own -/

/-- What happens next (assumption log 1): one of the rows of spec/opcode_table.json as an event, the issue of a word by a
scheduler of a core, the passing of cycles, or a happening to which the spec gives no row of its own. -/
inductive Choice
  | event (i : Instr)
  | issue (core sched : Nat)
  /-- An active group, its last word of neither class 0x0 nor 0x1, cannot issue for some cycles yet (R73). -/
  | stall (core sched gid cycles : Nat)
  | tick (cycles : Nat)
  /-- A load is read at its home slice and not yet delivered (R157). -/
  | read (flight : Nat)
  /-- A read of the step of a command that comes after `ahead` others is performed now: at a pad offset or a pointer, so many bytes (R202,
  R476). -/
  | early (cmd ahead : Nat) (pad : Bool) (at_ n : Nat)
  /-- The writes of a command's next step are performed after it, in units of so many words (R202, R318, R476). -/
  | lag (cmd unit : Nat)
  /-- A write that a command's step has left is performed (R202). -/
  | land (cmd idx : Nat)
  /-- A copy is evicted from the L1 level: core and position, or cluster (128 and above) and position (R156). -/
  | evictCopy (place idx : Nat)
  /-- A TLB entry is dropped. -/
  | evictTlb (cluster idx : Nat)
  /-- A slice drops its lease record of a line (R155). -/
  | dropLease (line : Nat)
  /-- A fabric request that has been admitted and waits is performed, by its number (R409). -/
  | kept (n : Nat)
  /-- A request of another endpoint arrives at a die, is admitted and waits (R409, R477); of a request that waits, the next part is performed
  (R476). -/
  | letIn (die : Nat) (req : FabReq)
  | part (n : Nat)
  /-- A core's copy of a task's entry stays as it is now, or follows the table again (R367). -/
  | taskCopy (core lseq : Nat) (stays : Bool)
  /-- A Forrin message arrives from a master: its header and its payload (R454). -/
  | message (m : Nat) (hdr : BitVec 256) (payload : List Byte)
  /-- The check of a firmware image ends (R465). -/
  | imageCheck
  /-- A reset that runs is complete (R466). -/
  | resetDone
  /-- A shootdown that runs is complete (R174, R456). -/
  | shootDone
  /-- A die idles its arrays for a cycle (R469). -/
  | throttle (die : Nat)
  /-- Another request waits in this cycle behind a trace write that has been taken ahead of it (R446). -/
  | traceDelay
deriving DecidableEq, Repr

/-- The group whose word is being executed: core, group number. -/
structure Cur where
  core : Nat := 0
  gid : Nat := 0
deriving DecidableEq, Repr, Inhabited

/-- The state of the package. -/
structure State where
  /-- Franking clock in ns (R1) and cycles of the arithmetic clock since reset (R48). -/
  now : Nat := 0
  cyc : Nat := 0
  /-- HBM by physical address; a byte not listed is 0 (R466, R475). -/
  mem : List Host.Cell := []
  /-- Granule tags that are not 0, by physical address / 32 (R176). -/
  tags : List (Nat × BitVec 4) := []
  backing : List Backed := []
  /-- Lease records by line (physical address / 512), and horizons by slice (R155). -/
  leases : List (Nat × Nat) := []
  horizon : List (Nat × Nat) := []
  flights : List (Nat × Flight) := []
  cmds : List (Nat × Cmd) := []
  cores : List (Nat × Core) := []
  clusters : List (Nat × Cluster) := []
  teams : List (Nat × Team) := []
  grids : List (Nat × Grid) := []
  ctxs : List (Nat × Ctx) := []
  dlqs : List Dlq := [{}, {}]
  posts : List Post := []
  svcs : List Svc := []
  tasks : List (Nat × Task) := []
  versions : List Version := []
  carbons : List Carbon := []
  disp : Disp := {}
  pigeons : List Pigeon := []
  pacts : List (Nat × PAct) := []
  couriers : List (Nat × Courier) := []
  pairs : List Pair := []
  kvs : List KvRec := []
  fab : Fabric := {}
  dbg : List (Nat × DbgCtx) := []
  trace : Trace := {}
  ctrs : List DieCtr := [{}, {}]
  sys : Sys := {}
  /-- Answers and messages on their way to masters, in the order in which they are sent: master and bytes. -/
  answers : List (Nat × List Byte) := []
  /-- The model's own: what happens next, the executing group, the counters of fresh numbers and of free values, and the
  physical address without memory that was touched (assumption logs 1, 2 and 7). -/
  agenda : List Choice := []
  cur : Cur := {}
  ids : Nat := 1
  free : Nat := 0
  bus : Option Nat := none
  /-- Failed writes of the word being executed, empty between steps. -/
  wfails : List WFail := []
  /-- Sync watchpoints that have fired in the word being executed, empty between steps. -/
  hits : List SyncHit := []
deriving DecidableEq, Repr

/-- Why the model stops. -/
inductive Fault
  /-- Raised by `Ops.finish` after any access to a physical address at which there is no memory (R475): a translation or a
  register of the control node names a frame outside both HBM ranges. Safe: the spec gives such an access no effect. -/
  | noMemory (pa : Nat)
deriving DecidableEq, Repr

/-- Why the model refuses an instruction. -/
inductive Refusal
  /-- Raised only by an arm of `exec` whose instruction has no meaning yet. Safe: nothing is claimed of it. -/
  | notModelled (mnemonic : String)
deriving DecidableEq, Repr

/-- The machine right after reset (R466). -/
def State.reset : State := {}

end Sys2Proof.Machine
end

