-- ==== Sys2Proof/Machine/Bytes.lean ====
section
/-! DEFINITION. Bytes.lean: bit fields of numbers, little-endian bytes (R3), and sparse memories in canonical form. -/

namespace Sys2Proof.Machine

open Sys2Proof

/-- Bits [lo + n - 1 : lo] of a number (R4). -/
def fld (v lo n : Nat) : Nat := v / 2 ^ lo % 2 ^ n

/-- A field of a number replaced. -/
def putFld (v lo n x : Nat) : Nat := v - fld v lo n * 2 ^ lo + x % 2 ^ n * 2 ^ lo

/-- Bit k of a number. -/
def bit (v k : Nat) : Bool := v / 2 ^ k % 2 == 1

/-- A number of `n` bits read as two's complement. -/
def sx (n v : Nat) : Int := if v < 2 ^ (n - 1) then (v : Int) else (v : Int) - 2 ^ n

/-- An integer modulo 2^n. -/
def wrap (n : Nat) (x : Int) : Nat := (x % (2 ^ n : Int)).toNat

def b2n (b : Bool) : Nat := if b then 1 else 0

/-- A Boolean as a register value. -/
def b2w (b : Bool) : Word := if b then 1 else 0

/-- Little-endian value of a list of bytes. -/
def leNat : List Byte → Nat
  | [] => 0
  | b :: t => b.toNat + 256 * leNat t

/-- `n` little-endian bytes of a value. -/
def leBytes : Nat → Nat → List Byte
  | 0, _ => []
  | n + 1, v => BitVec.ofNat 8 v :: leBytes n (v / 256)

/-! ### Sparse byte memories: an address not listed reads 0 -/

/-- The byte at an address. -/
def Mem.get : List Host.Cell → Nat → Byte
  | [], _ => 0
  | (k, b) :: t, a => if k = a then b else Mem.get t a

/-- Writes a byte: addresses stay strictly rising and no entry holds 0. -/
def Mem.set : List Host.Cell → Nat → Byte → List Host.Cell
  | [], a, b => if b = 0 then [] else [(a, b)]
  | (k, c) :: t, a, b =>
    if a < k then (if b = 0 then (k, c) :: t else (a, b) :: (k, c) :: t)
    else if a = k then (if b = 0 then t else (a, b) :: t)
    else (k, c) :: Mem.set t a b

/-- `n` bytes from an address on. -/
def Mem.read (m : List Host.Cell) (a : Nat) : Nat → List Byte
  | 0 => []
  | n + 1 => Mem.get m a :: Mem.read m (a + 1) n

/-- Writes bytes from an address on. -/
def Mem.write (m : List Host.Cell) (a : Nat) : List Byte → List Host.Cell
  | [] => m
  | b :: t => Mem.write (Mem.set m a b) (a + 1) t

/-- Addresses at or above a bound and strictly rising, no byte 0. -/
def Mem.wfFrom : Nat → List Host.Cell → Bool
  | _, [] => true
  | lo, (k, b) :: t => decide (lo ≤ k) && (b != 0) && Mem.wfFrom (k + 1) t

/-- The canonical form of a sparse memory: addresses strictly rising, no entry equal to what an unlisted address reads as. -/
def Mem.wf (m : List Host.Cell) : Bool := Mem.wfFrom 0 m

/-- The little-endian value of `n` bytes. -/
def Mem.num (m : List Host.Cell) (a n : Nat) : Nat := leNat (Mem.read m a n)

/-- Bytes written into a sparse list that also records writes of 0 (a version's cells, by offset). -/
def Mem.note : List Host.Cell → Nat → Byte → List Host.Cell
  | [], a, b => [(a, b)]
  | (k, c) :: t, a, b =>
    if a < k then (a, b) :: (k, c) :: t
    else if a = k then (a, b) :: t
    else (k, c) :: Mem.note t a b

/-- The recorded byte at an offset, if any. -/
def Mem.noted : List Host.Cell → Nat → Option Byte
  | [], _ => none
  | (k, b) :: t, a => if k = a then some b else Mem.noted t a

/-! ### Lists -/

/-- The element at a position replaced. -/
def setAt {α : Type} : List α → Nat → α → List α
  | [], _, _ => []
  | _ :: t, 0, x => x :: t
  | y :: t, n + 1, x => y :: setAt t n x

/-- The element at a position changed. -/
def modAt {α : Type} (f : α → α) : List α → Nat → List α
  | [], _ => []
  | y :: t, 0 => f y :: t
  | y :: t, n + 1 => y :: modAt f t n

/-- The element at a position, or a default. -/
def nth {α : Type} (d : α) : List α → Nat → α
  | [], _ => d
  | x :: _, 0 => x
  | _ :: t, n + 1 => nth d t n

/-- A value in a table, or a default. -/
def Tab.get {α : Type} (d : α) (k : Nat) (t : List (Nat × α)) : α := (Tab.find k t).getD d

/-- A value in a table changed, from a default if it is absent. -/
def Tab.mod {α : Type} (d : α) (f : α → α) (k : Nat) (t : List (Nat × α)) : List (Nat × α) :=
  Tab.put k (f (Tab.get d k t)) t

/-- A value in a table changed if it is there. -/
def Tab.upd {α : Type} (f : α → α) (k : Nat) : List (Nat × α) → List (Nat × α)
  | [] => []
  | (k', v) :: t => if k' = k then (k', f v) :: t else (k', v) :: Tab.upd f k t

/-- The element of a list of least key, the first on a tie. -/
def leastBy {α : Type} (key : α → Nat) : List α → Option α
  | [] => none
  | x :: t => match leastBy key t with
    | none => some x
    | some y => if key x ≤ key y then some x else some y

/-- Numbers without repeats, in order of first occurrence. -/
def distinct : List Nat → List Nat
  | [] => []
  | x :: t => x :: (distinct t).filter (· != x)

/-- Insert a number into a rising list without repeats. -/
def insNat (x : Nat) : List Nat → List Nat
  | [] => [x]
  | y :: t => if x < y then x :: y :: t else if x = y then y :: t else y :: insNat x t

/-- The first `some` that a function gives along a list. -/
def firstSome {α β : Type} (f : α → Option β) : List α → Option β
  | [] => none
  | x :: t => match f x with
    | some y => some y
    | none => firstSome f t

/-- The lowest number from `k` on, within `n` tries, that a test accepts. -/
def lowest (p : Nat → Bool) (k : Nat) : Nat → Option Nat
  | 0 => none
  | n + 1 => if p k then some k else lowest p (k + 1) n

end Sys2Proof.Machine
end

