-- ==== Sys2Proof/Machine/Float.lean ====
section
/-! DEFINITION. Float.lean: number formats (R105), exact values and their rounding (R110, R111, R115), and the float operations
(R116, R120 to R127). A finite value is an integer times a power of two; `st` marks that the true magnitude lies strictly
between m and m + 1 units of 2^e. -/

namespace Sys2Proof.Machine

open Sys2Proof

/-- How a format codes infinities and NaNs (R105). -/
inductive Special | ieee | e4m3 | none
deriving DecidableEq, Repr

/-- A floating-point format (R105): exponent bits, mantissa bits M, bias, special codes, canonical NaN. -/
structure FFmt where
  eb : Nat
  mb : Nat
  bias : Nat
  sp : Special
  nan : Nat
deriving DecidableEq, Repr

def f32 : FFmt := ⟨8, 23, 127, .ieee, 0x7FC00000⟩
def f16 : FFmt := ⟨5, 10, 15, .ieee, 0x7E00⟩
def bf16 : FFmt := ⟨8, 7, 127, .ieee, 0x7FC0⟩
def e4m3 : FFmt := ⟨4, 3, 7, .e4m3, 0x7F⟩
def e5m2 : FFmt := ⟨5, 2, 15, .ieee, 0x7E⟩
def e3m2 : FFmt := ⟨3, 2, 3, .none, 0⟩
def e2m3 : FFmt := ⟨2, 3, 1, .none, 0⟩
def e2m1 : FFmt := ⟨2, 1, 1, .none, 0⟩

/-- The exponent of the least significant bit of a subnormal. -/
def FFmt.emin (f : FFmt) : Int := 1 - (f.bias : Int) - f.mb
/-- The largest exponent field of a finite value. -/
def FFmt.emax (f : FFmt) : Nat := if f.sp == .ieee then 2 ^ f.eb - 2 else 2 ^ f.eb - 1
/-- The mantissa field of the largest finite value. -/
def FFmt.mmax (f : FFmt) : Nat := if f.sp == .e4m3 then 2 ^ f.mb - 2 else 2 ^ f.mb - 1
/-- The code of the largest finite value, less its sign. -/
def FFmt.big (f : FFmt) : Nat := f.emax * 2 ^ f.mb + f.mmax
/-- The code of infinity, less its sign. -/
def FFmt.infCode (f : FFmt) : Nat := (2 ^ f.eb - 1) * 2 ^ f.mb
/-- The sign bit. -/
def FFmt.sign (f : FFmt) (neg : Bool) : Nat := b2n neg * 2 ^ (f.eb + f.mb)

/-- An exact value. -/
inductive FX
  | nan
  | inf (neg : Bool)
  | fin (neg : Bool) (m : Nat) (e : Int) (st : Bool)
deriving DecidableEq, Repr

/-- Reads a code (R105). -/
def FFmt.read (f : FFmt) (v : Nat) : FX :=
  let s := bit v (f.eb + f.mb)
  let x := fld v f.mb f.eb
  let m := fld v 0 f.mb
  if f.sp == .ieee && x == 2 ^ f.eb - 1 then (if m = 0 then .inf s else .nan)
  else if f.sp == .e4m3 && x == 15 && m == 7 then .nan
  else if x = 0 then .fin s m f.emin false
  else .fin s (2 ^ f.mb + m) ((x : Int) - f.bias - f.mb) false

/-- Rounds the magnitude m · 2^e to the precision of a format, exponent unbounded above, with the subnormal spacing below (R110):
the mantissa and its exponent. -/
def FFmt.round (f : FFmt) (rm : RMode) (neg : Bool) (m : Nat) (e : Int) (st : Bool) : Nat × Int :=
  let m := if st then 4 * m + 1 else m
  let e := if st then e - 2 else e
  let q : Int := max (e + (Nat.log2 m : Int) - f.mb) f.emin
  if q ≤ e then (m * 2 ^ (e - q).toNat, q)
  else
    let d := (q - e).toNat
    let hi := m / 2 ^ d
    let rem := m % 2 ^ d
    let up := match rm with
      | .rn => decide (2 ^ d < 2 * rem) || (decide (2 * rem = 2 ^ d) && decide (hi % 2 = 1))
      | .rz => false
      | .rd => neg && decide (rem ≠ 0)
      | .ru => !neg && decide (rem ≠ 0)
    (if up then hi + 1 else hi, q)

/-- The code of a rounded magnitude; none if it exceeds the largest finite value. -/
def FFmt.code (f : FFmt) (r : Nat × Int) : Option Nat :=
  let m := if r.1 = 2 ^ (f.mb + 1) then 2 ^ f.mb else r.1
  let q : Int := if r.1 = 2 ^ (f.mb + 1) then r.2 + 1 else r.2
  if m < 2 ^ f.mb then some m
  else
    let x := q - f.emin + 1
    let c := x.toNat * 2 ^ f.mb + (m - 2 ^ f.mb)
    if x.toNat ≤ f.emax ∧ c ≤ f.big then some c else none

/-- The overflow of R110. -/
def FFmt.over (f : FFmt) (rm : RMode) (neg : Bool) : Nat :=
  match rm, neg with
  | .rn, _ => f.infCode
  | .rz, _ => f.big
  | .rd, false => f.big
  | .rd, true => f.infCode
  | .ru, false => f.infCode
  | .ru, true => f.big

/-- An exact value rounded into binary32, binary16 or BF16 under a mode, with SAT (R110, R112, R114). -/
def FFmt.put (f : FFmt) (rm : RMode) (sat : Bool) : FX → Nat
  | .nan => f.nan
  | .inf neg => f.sign neg + (if sat then f.big else f.infCode)
  | .fin neg m e st =>
    if m = 0 && !st then f.sign neg
    else match f.code (f.round rm neg m e st) with
      | some c => f.sign neg + c
      | none => f.sign neg + (let c := f.over rm neg; if sat && c == f.infCode then f.big else c)

/-- A value beyond a narrow target's range (R115). -/
def FFmt.beyond (f : FFmt) (sat neg : Bool) : Nat :=
  match f.sp with
  | .ieee => f.sign neg + (if sat then f.big else f.infCode)
  | .e4m3 => if sat then f.sign neg + f.big else f.nan
  | .none => f.sign neg + f.big

/-- Conversion into a narrow format under .rn (R115). -/
def FFmt.pack (f : FFmt) (sat : Bool) : FX → Nat
  | .nan => f.nan
  | .inf neg => f.beyond sat neg
  | .fin neg m e st =>
    if m = 0 && !st then f.sign neg
    else match f.code (f.round .rn neg m e st) with
      | some c => f.sign neg + c
      | none => f.beyond sat neg

/-- Stochastic rounding of a value into a narrow format with 16 random bits (R111). -/
def FFmt.packRs (f : FFmt) (sat : Bool) (r : Nat) : FX → Nat
  | .nan => f.nan
  | .inf neg => f.beyond sat neg
  | .fin neg m e _ =>
    if m = 0 then f.sign neg
    else
      let (t, q) := f.round .rz neg m e false
      let frac := if e < q then m % 2 ^ (q - e).toNat * 2 ^ 16 / 2 ^ (q - e).toNat else 0
      match f.code (if 2 ^ 16 ≤ frac + r then t + 1 else t, q) with
      | some c => f.sign neg + c
      | none => f.beyond sat neg

/-! ### Exact arithmetic -/

/-- A signed integer times 2^e as an exact value; zero takes the given sign. -/
def fxInt (zneg : Bool) (v : Int) (e : Int) : FX :=
  if v = 0 then .fin zneg 0 0 false else .fin (decide (v < 0)) v.natAbs e false

/-- The signed integer of a magnitude in units of 2^u, for u not above its exponent. -/
def scaled (neg : Bool) (m : Nat) (e u : Int) : Int :=
  let v : Int := (m : Int) * 2 ^ (e - u).toNat
  if neg then -v else v

/-- Addition; the sign of an exact zero sum of unlike signs is minus under .rd (R120). -/
def fxAdd (rm : RMode) : FX → FX → FX
  | .nan, _ => .nan
  | _, .nan => .nan
  | .inf a, .inf b => if a = b then .inf a else .nan
  | .inf a, .fin _ _ _ _ => .inf a
  | .fin _ _ _ _, .inf b => .inf b
  | .fin a m e _, .fin b n k _ =>
    if m = 0 ∧ n = 0 then .fin (if a = b then a else rm == .rd) 0 0 false
    else
      let u := if m = 0 then k else if n = 0 then e else min e k
      fxInt (rm == .rd) ((if m = 0 then 0 else scaled a m e u) + (if n = 0 then 0 else scaled b n k u)) u

def fxNeg : FX → FX
  | .nan => .nan
  | .inf a => .inf (!a)
  | .fin a m e st => .fin (!a) m e st

def fxMul : FX → FX → FX
  | .nan, _ => .nan
  | _, .nan => .nan
  | .inf a, .inf b => .inf (a != b)
  | .inf a, .fin b m _ _ => if m = 0 then .nan else .inf (a != b)
  | .fin a m _ _, .inf b => if m = 0 then .nan else .inf (a != b)
  | .fin a m e _, .fin b n k _ => .fin (a != b) (m * n) (e + k) false

/-- Division, to at least 30 bits with the rest marked. -/
def fxDiv : FX → FX → FX
  | .nan, _ => .nan
  | _, .nan => .nan
  | .inf _, .inf _ => .nan
  | .inf a, .fin b _ _ _ => .inf (a != b)
  | .fin a _ _ _, .inf b => .fin (a != b) 0 0 false
  | .fin a m e _, .fin b n k _ =>
    if n = 0 then (if m = 0 then .nan else .inf (a != b))
    else if m = 0 then .fin (a != b) 0 0 false
    else
      let sh := 30 + Nat.log2 n
      .fin (a != b) (m * 2 ^ sh / n) (e - k - sh) (m * 2 ^ sh % n != 0)

/-- Floor of the square root, from bit `k` down. -/
def isqrtFrom (n r : Nat) : Nat → Nat
  | 0 => if (r + 1) * (r + 1) ≤ n then r + 1 else r
  | k + 1 => isqrtFrom n (if (r + 2 ^ (k + 1)) * (r + 2 ^ (k + 1)) ≤ n then r + 2 ^ (k + 1) else r) k
def isqrt (n : Nat) : Nat := isqrtFrom n 0 (Nat.log2 n / 2 + 1)

def fxSqrt : FX → FX
  | .nan => .nan
  | .inf a => if a then .nan else .inf false
  | .fin a m e _ =>
    if m = 0 then .fin a 0 0 false
    else if a then .nan
    else
      let odd := e % 2 = 1
      let v := (if odd then 2 * m else m) * 2 ^ 60
      let r := isqrt v
      .fin false r ((if odd then e - 1 else e) / 2 - 30) (r * r != v)

/-! ### 2^x and log2 x in fixed point -/

/-- Fixed-point precision, and ln 2 at it, rounded down. -/
def fxP : Nat := 400
def fxLn2 : Nat := 1789879222497203190815761498240779176894896805856420935579692301363062920687047601279850318367644315849030039181347319086

/-- Terms of the exponential series, from term number `k` on. -/
def expTerms (y t : Nat) : Nat → Nat → Nat
  | _, 0 => 0
  | k, n + 1 => t + expTerms y (t * y / 2 ^ fxP / (k + 1)) (k + 1) n

/-- 2^f for f in [0, 1), in fixed point. -/
def exp2Frac (f : Nat) : Nat := expTerms (f * fxLn2 / 2 ^ fxP) (2 ^ fxP) 0 100

/-- Odd powers of w divided by their exponents. -/
def atanhTerms (w2 t : Nat) : Nat → Nat → Nat
  | _, 0 => 0
  | k, n + 1 => t / (2 * k + 1) + atanhTerms w2 (t * w2 / 2 ^ fxP) (k + 1) n

/-- log2 z for z in [1, 2), both in fixed point. -/
def log2Frac (z : Nat) : Nat :=
  let w := (z - 2 ^ fxP) * 2 ^ fxP / (z + 2 ^ fxP)
  2 * atanhTerms (w * w / 2 ^ fxP) w 0 130 * 2 ^ fxP / fxLn2

/-- 2^x (R127). Exponents past any format's range are held at 2^±4096. -/
def fxExp2 : FX → FX
  | .nan => .nan
  | .inf a => if a then .fin false 0 0 false else .inf false
  | .fin a m e _ =>
    if m = 0 then .fin false 1 0 false
    else if 20 < e + Nat.log2 m then .fin false 1 (if a then -4096 else 4096) (!a)
    else
      let v : Int := if 0 ≤ e then (m : Int) * 2 ^ e.toNat * 2 ^ fxP else (m : Int) * 2 ^ fxP / 2 ^ (-e).toNat
      let x : Int := if a then -v else v
      let n := x / (2 ^ fxP : Int)
      let f := (x % (2 ^ fxP : Int)).toNat
      if f = 0 then .fin false 1 n false
      else .fin false (exp2Frac f / 2 ^ 40) (n - (fxP : Int) + 40) true

/-- log2 x (R127). -/
def fxLog2 : FX → FX
  | .nan => .nan
  | .inf a => if a then .nan else .inf false
  | .fin a m e _ =>
    if m = 0 then .inf true
    else if a then .nan
    else
      let k := Nat.log2 m
      let n : Int := e + k
      if m = 2 ^ k then fxInt false n 0
      else
        let l : Nat := log2Frac (m * 2 ^ fxP / 2 ^ k) / 2 ^ 20
        let v : Int := n * 2 ^ (fxP - 20) + l
        if v < 0 then .fin true (-v - 1).toNat (20 - (fxP : Int)) true else .fin false v.toNat (20 - (fxP : Int)) true

/-- 1 / √x to 40 bits and more, rounded down (R127). -/
def fxRsqrt : FX → FX
  | .nan => .nan
  | .inf a => if a then .nan else .fin false 0 0 false
  | .fin a m e _ =>
    if m = 0 then .inf a
    else if a then .nan
    else
      let odd := e % 2 = 1
      let v := if odd then 2 * m else m
      let h := (if odd then e - 1 else e) / 2
      .fin false (isqrt (2 ^ 160 / v)) (-80 - h) false

/-! ### binary32 operations of the float engine -/

/-- A binary32 source, flushed if subnormal and the flush bit is set (R113). -/
def src32 (flush : Bool) (a : Word) : FX :=
  match f32.read a.toNat with
  | .fin neg m e st => if flush && decide (m < 2 ^ 23) then .fin neg 0 0 false else .fin neg m e st
  | x => x

/-- A binary32 result, flushed if subnormal and the flush bit is set (R113), then SAT is in `put`. -/
def out32 (flush : Bool) (rm : RMode) (sat : Bool) (x : FX) : Word :=
  let r := f32.put rm sat x
  BitVec.ofNat 32 (if flush && fld r 23 8 == 0 then fld r 31 1 * 2 ^ 31 else r)

def fAdd (flush : Bool) (rm : RMode) (sat : Bool) (a b : Word) : Word := out32 flush rm sat (fxAdd rm (src32 flush a) (src32 flush b))
def fSub (flush : Bool) (rm : RMode) (sat : Bool) (a b : Word) : Word := out32 flush rm sat (fxAdd rm (src32 flush a) (fxNeg (src32 flush b)))
def fMul (flush : Bool) (rm : RMode) (sat : Bool) (a b : Word) : Word := out32 flush rm sat (fxMul (src32 flush a) (src32 flush b))
def fFma (flush : Bool) (rm : RMode) (sat : Bool) (a b c : Word) : Word :=
  out32 flush rm sat (fxAdd rm (fxMul (src32 flush a) (src32 flush b)) (src32 flush c))
def fDiv (flush : Bool) (rm : RMode) (sat : Bool) (a b : Word) : Word := out32 flush rm sat (fxDiv (src32 flush a) (src32 flush b))
def fSqrt (flush : Bool) (rm : RMode) (sat : Bool) (a : Word) : Word := out32 flush rm sat (fxSqrt (src32 flush a))
def fEx2 (flush : Bool) (rm : RMode) (sat : Bool) (a : Word) : Word := out32 flush rm sat (fxExp2 (src32 flush a))
def fLg2 (flush : Bool) (rm : RMode) (sat : Bool) (a : Word) : Word := out32 flush rm sat (fxLog2 (src32 flush a))
def fRcp (flush sat : Bool) (a : Word) : Word := out32 flush .rz sat (fxDiv (.fin false 1 0 false) (src32 flush a))
def fRsq (flush sat : Bool) (a : Word) : Word := out32 flush .rz sat (fxRsqrt (src32 flush a))

/-- A binary32 value as an integer key that orders numbers with −0 below +0; for NaN of no meaning. -/
def key32 (x : Word) : Int := if x.msb then -(fld x.toNat 0 31 : Int) - 1 else (fld x.toNat 0 31 : Int)
def isNan32 (x : Word) : Bool := decide (0x7F800000 < fld x.toNat 0 31)
/-- A source as its code after flushing. -/
def flushed32 (flush : Bool) (a : Word) : Word := if flush && fld a.toNat 23 8 == 0 then BitVec.ofNat 32 (fld a.toNat 31 1 * 2 ^ 31) else a

/-- fmin and fmax (R121). -/
def fMinMax (mx flush prop : Bool) (a b : Word) : Word :=
  let x := flushed32 flush a
  let y := flushed32 flush b
  if isNan32 x || isNan32 y then
    (if prop || (isNan32 x && isNan32 y) then 0x7FC00000 else if isNan32 x then y else x)
  else if mx then (if key32 x ≤ key32 y then y else x) else (if key32 x ≤ key32 y then x else y)

def fAbs (a : Word) : Word := if isNan32 a then 0x7FC00000 else a &&& 0x7FFFFFFF
def fNeg (a : Word) : Word := if isNan32 a then 0x7FC00000 else a ^^^ 0x80000000

/-! ### Packed forms (R122) -/

def pkFmt : PkT → FFmt
  | .f16 => f16
  | .bf16 => bf16

/-- An operation applied to both elements. -/
def pk2 (t : PkT) (rm : RMode) (sat : Bool) (f : FX → FX → FX → FX) (a b c : Word) : Word :=
  let el := fun (k : Nat) => (pkFmt t).put rm sat
    (f ((pkFmt t).read (fld a.toNat (16 * k) 16)) ((pkFmt t).read (fld b.toNat (16 * k) 16)) ((pkFmt t).read (fld c.toNat (16 * k) 16)))
  BitVec.ofNat 32 (el 0 + el 1 * 2 ^ 16)

/-! ### Compare and convert (R123 to R126) -/

/-- Numbers compared: −1, 0 or 1; none if unordered. -/
def fxCmp (x y : FX) : Option Int :=
  match x, y with
  | .nan, _ => none
  | _, .nan => none
  | .inf a, .inf b => some (if a = b then 0 else if a then -1 else 1)
  | .inf a, .fin _ _ _ _ => some (if a then -1 else 1)
  | .fin _ _ _ _, .inf b => some (if b then 1 else -1)
  | .fin a m e _, .fin b n k _ =>
    let u := min e k
    let d := scaled a m e u - scaled b n k u
    some (if d < 0 then -1 else if d = 0 then 0 else 1)

/-- A source of fcmp: flushed binary32, or bits [15:0] (R123). -/
def cmpSrc (flush : Bool) (t : CmT) (a : Word) : FX :=
  match t with
  | .f32 => src32 flush a
  | .f16 => f16.read (fld a.toNat 0 16)
  | .bf16 => bf16.read (fld a.toNat 0 16)

def fCmp (flush : Bool) (cmp : FCmp) (t : CmT) (a b : Word) : Word :=
  let r := fxCmp (cmpSrc flush t a) (cmpSrc flush t b)
  b2w (match cmp with
    | .eq => r == some 0
    | .ne => r != some 0
    | .lt => r == some (-1)
    | .le => r == some (-1) || r == some 0
    | .gt => r == some 1
    | .ge => r == some 1 || r == some 0
    | .nan => r == none
    | .num => r != none)

/-- An exact value rounded to an integer under a mode and clamped (R124). -/
def toInt (rm : RMode) (lo hi : Int) : FX → Int
  | .nan => 0
  | .inf a => if a then lo else hi
  | .fin a m e _ =>
    let v : Int :=
      if 0 ≤ e then (if a then -((m : Int) * 2 ^ (min e.toNat 64)) else (m : Int) * 2 ^ (min e.toNat 64))
      else
        let d := (-e).toNat
        let h := m / 2 ^ d
        let r := m % 2 ^ d
        let up := match rm with
          | .rn => decide (2 ^ d < 2 * r) || (decide (2 * r = 2 ^ d) && decide (h % 2 = 1))
          | .rz => false
          | .rd => a && decide (r ≠ 0)
          | .ru => !a && decide (r ≠ 0)
        let n : Int := if up then h + 1 else h
        if a then -n else n
    if v < lo then lo else if hi < v then hi else v

def fCvt (flush : Bool) (rm : RMode) (k : CvKind) (a : Word) : Word :=
  match k with
  | .i32f32 => BitVec.ofInt 32 (toInt rm (-2 ^ 31) (2 ^ 31 - 1) (src32 flush a))
  | .n32f32 => BitVec.ofInt 32 (toInt rm 0 (2 ^ 32 - 1) (src32 flush a))
  | .f32i32 => BitVec.ofNat 32 (f32.put rm false (fxInt false a.toInt 0))
  | .f32n32 => BitVec.ofNat 32 (f32.put rm false (fxInt false (a.toNat : Int) 0))

def narFmt : NarT → FFmt
  | .f16 => f16 | .bf16 => bf16 | .e4m3 => e4m3 | .e5m2 => e5m2 | .e3m2 => e3m2 | .e2m3 => e2m3 | .e2m1 => e2m1

/-- The width of an element in a word (R108, R125). -/
def narWidth : NarT → Nat
  | .f16 | .bf16 => 16
  | .e4m3 | .e5m2 | .e3m2 | .e2m3 => 8
  | .e2m1 => 4

/-- Bits of an element that hold its code. -/
def narBits (t : NarT) : Nat := 1 + (narFmt t).eb + (narFmt t).mb

def fPack (flush : Bool) (t : NarT) (sat rs : Bool) (a b c : Word) : Word :=
  let el := fun (x : FX) (k : Nat) =>
    if rs then (narFmt t).packRs sat (fld c.toNat (16 * k) 16) x else (narFmt t).pack sat x
  BitVec.ofNat 32 (el (src32 flush a) 0 + el (src32 flush b) 1 * 2 ^ narWidth t)

/-- A value times 2^k. -/
def fxScale (k : Int) : FX → FX
  | .nan => .nan
  | .inf a => .inf a
  | .fin a m e st => .fin a m (e + k) st

def fUnpk (flush : Bool) (t : NarT) (sc : Bool) (a b c : Word) : Word :=
  let w := narWidth t
  let n := b.toNat % (32 / w)
  let x := (narFmt t).read (fld a.toNat (w * n) (narBits t))
  let s := fld c.toNat 0 8
  let y := if sc then (if s = 255 then .nan else fxScale ((s : Int) - 127) x) else x
  out32 flush .rn false y

/-! ### The random generator (R128, R129) -/

/-- The rounds of R128 that are left. -/
def rndRounds (a b k : Nat) : Nat → Nat
  | 0 => a
  | n + 1 =>
    let p := a * 0xD2511F53
    rndRounds ((p / 2 ^ 32 % 2 ^ 32) ^^^ b ^^^ k) (p % 2 ^ 32) ((k + 0x9E3779B9) % 2 ^ 32) n

/-- RND(seed, stream, counter). -/
def rnd32 (seed stream counter : Nat) : Nat := rndRounds counter stream seed 10

def fRnd (o : ROut) (seed stream counter : Word) : Word :=
  let raw := rnd32 seed.toNat stream.toNat counter.toNat
  BitVec.ofNat 32 (match o with
    | .raw => raw
    | .co => f32.put .rn false (fxInt false ((raw / 2 ^ 8 : Nat) : Int) (-24))
    | .oc => f32.put .rn false (fxInt false ((raw / 2 ^ 8 + 1 : Nat) : Int) (-24)))

end Sys2Proof.Machine
end

