-- ==== Sys2Proof/WellFormed.lean ====
section
/-! DEFINITION. WellFormed.lean: which operand codes may stand in which position, which settings of a word are listed,
and the class and guard of each word. -/

namespace Sys2Proof

/-- SZ values that a store takes (R134). -/
def Sz.isStore : Sz → Bool
  | .b8 | .b16 | .b32 | .b64 => true
  | .i8 | .i16 => false

/-- The 64-bit types of the atomics (R134). -/
def Ty.is64 : Ty → Bool
  | .b64 | .i64 | .n64 => true
  | .b32 | .i32 | .n32 | .f32 => false

/-- The types that each atomic function allows (R142). -/
def AFn.allows : AFn → Ty → Bool
  | .add, t | .min, t | .max, t => t == .i32 || t == .n32 || t == .i64 || t == .n64
  | .and, t | .or, t | .xor, t | .exch, t => t == .b32 || t == .b64
  | .cas, t => t == .b32
  | .fadd, t => t == .f32

/-- The four operand positions of a word. -/
inductive Pos | D | A | B | C
deriving DecidableEq, Repr, Inhabited

/-- What may stand in an operand position (R14, R47, R94, R95, R190). -/
inductive Kind
  | dst32 | dst64 | lane32 | lane64 | psncD | link | linkx
  | src32 | src64 | srcP | unused0 | unused224
deriving DecidableEq, Repr, Inhabited

/-- One operand of a word as it stands. -/
structure OpUse where
  pos : Pos
  kind : Kind
  code : Code
  tie : Bool
deriving DecidableEq, Repr, Inhabited

/-- A lane register code, v0 to v127. -/
def Code.isLane (c : Code) : Bool := decide (c.toNat < 128)
/-- A team scalar code, s0 to s31. -/
def Code.isScalar (c : Code) : Bool := decide (128 ≤ c.toNat) && decide (c.toNat < 160)
/-- A predicate code, p0 to p63. -/
def Code.isPred (c : Code) : Bool := decide (160 ≤ c.toNat) && decide (c.toNat < 224)

def Code.even (c : Code) : Bool := decide (c.toNat % 2 = 0)

def Kind.isSource : Kind → Bool
  | .src32 | .src64 | .srcP => true
  | .dst32 | .dst64 | .lane32 | .lane64 | .psncD | .link | .linkx | .unused0 | .unused224 => false

/-- 64-bit positions. -/
def Kind.wide : Kind → Bool
  | .dst64 | .lane64 | .link | .linkx | .src64 => true
  | .dst32 | .lane32 | .psncD | .src32 | .srcP | .unused0 | .unused224 => false

/-- The codes that may stand in a position of each kind. -/
def Kind.admits (k : Kind) (c : Code) : Bool :=
  match k with
  | .dst32 => decide (c.toNat ≤ 224)
  | .dst64 => ((c.isLane || c.isScalar) && c.even) || c == 224
  | .lane32 => c.isLane
  | .lane64 => c.isLane && c.even
  | .psncD => c.isLane || c.isPred
  | .link => (c.isLane && c.even) || c == 255
  | .linkx => (c.isLane && c.even) || c == 224
  | .src32 => decide (c.toNat < 254)
  | .src64 => ((c.isLane || c.isScalar) && c.even) || c == 224 || c == 244 || c == 246 || c == 248
  | .srcP => c.isLane || c.isScalar
  | .unused0 => c == 0
  | .unused224 => c == 224

/-- An operand is allowed in its position, and its trap-if-empty bit stands only on a lane register that is read (R49). -/
def OpUse.ok (u : OpUse) : Bool :=
  u.kind.admits u.code && (!u.tie || (u.kind.isSource && u.code.isLane))

/-- The lane registers that an operand names, one or a pair; none where its code is no lane register or is not read as one. -/
def OpUse.laneRegs (u : OpUse) : List Nat :=
  if u.kind == .unused0 || u.kind == .unused224 || !u.code.isLane then []
  else if u.kind.wide then [u.code.toNat, u.code.toNat + 1] else [u.code.toNat]

/-- The operands of a word with the kind of each position (the tables R81, R119, R133, R190, R195, R223, R275, R292, R312,
R360, R377, R411, R438, R472). An operation or event has none. -/
def Instr.uses : Instr → List OpUse
  | .add _ _ _ d a b => [⟨.D, .dst32, d, false⟩, ⟨.A, .src32, a.code, a.tie⟩, ⟨.B, .src32, b.code, b.tie⟩]
  | .sub _ _ _ d a b => [⟨.D, .dst32, d, false⟩, ⟨.A, .src32, a.code, a.tie⟩, ⟨.B, .src32, b.code, b.tie⟩]
  | .mul _ _ _ d a b => [⟨.D, .dst32, d, false⟩, ⟨.A, .src32, a.code, a.tie⟩, ⟨.B, .src32, b.code, b.tie⟩]
  | .mulh _ _ d a b => [⟨.D, .dst32, d, false⟩, ⟨.A, .src32, a.code, a.tie⟩, ⟨.B, .src32, b.code, b.tie⟩]
  | .mad _ _ _ d a b c => [⟨.D, .dst32, d, false⟩, ⟨.A, .src32, a.code, a.tie⟩, ⟨.B, .src32, b.code, b.tie⟩, ⟨.C, .src32, c.code, c.tie⟩]
  | .min _ _ d a b => [⟨.D, .dst32, d, false⟩, ⟨.A, .src32, a.code, a.tie⟩, ⟨.B, .src32, b.code, b.tie⟩]
  | .max _ _ d a b => [⟨.D, .dst32, d, false⟩, ⟨.A, .src32, a.code, a.tie⟩, ⟨.B, .src32, b.code, b.tie⟩]
  | .abs _ _ d a => [⟨.D, .dst32, d, false⟩, ⟨.A, .src32, a.code, a.tie⟩]
  | .neg _ _ d a => [⟨.D, .dst32, d, false⟩, ⟨.A, .src32, a.code, a.tie⟩]
  | .and _ d a b => [⟨.D, .dst32, d, false⟩, ⟨.A, .src32, a.code, a.tie⟩, ⟨.B, .src32, b.code, b.tie⟩]
  | .or _ d a b => [⟨.D, .dst32, d, false⟩, ⟨.A, .src32, a.code, a.tie⟩, ⟨.B, .src32, b.code, b.tie⟩]
  | .xor _ d a b => [⟨.D, .dst32, d, false⟩, ⟨.A, .src32, a.code, a.tie⟩, ⟨.B, .src32, b.code, b.tie⟩]
  | .not _ d a => [⟨.D, .dst32, d, false⟩, ⟨.A, .src32, a.code, a.tie⟩]
  | .shl _ d a b => [⟨.D, .dst32, d, false⟩, ⟨.A, .src32, a.code, a.tie⟩, ⟨.B, .src32, b.code, b.tie⟩]
  | .shr _ _ d a b => [⟨.D, .dst32, d, false⟩, ⟨.A, .src32, a.code, a.tie⟩, ⟨.B, .src32, b.code, b.tie⟩]
  | .rot _ d a b => [⟨.D, .dst32, d, false⟩, ⟨.A, .src32, a.code, a.tie⟩, ⟨.B, .src32, b.code, b.tie⟩]
  | .popc _ d a => [⟨.D, .dst32, d, false⟩, ⟨.A, .src32, a.code, a.tie⟩]
  | .clz _ d a => [⟨.D, .dst32, d, false⟩, ⟨.A, .src32, a.code, a.tie⟩]
  | .brev _ d a => [⟨.D, .dst32, d, false⟩, ⟨.A, .src32, a.code, a.tie⟩]
  | .bfe _ _ d a b => [⟨.D, .dst32, d, false⟩, ⟨.A, .src32, a.code, a.tie⟩, ⟨.B, .src32, b.code, b.tie⟩]
  | .bfi _ d a b c => [⟨.D, .dst32, d, false⟩, ⟨.A, .src32, a.code, a.tie⟩, ⟨.B, .src32, b.code, b.tie⟩, ⟨.C, .src32, c.code, c.tie⟩]
  | .bperm _ d a b c => [⟨.D, .dst32, d, false⟩, ⟨.A, .src32, a.code, a.tie⟩, ⟨.B, .src32, b.code, b.tie⟩, ⟨.C, .src32, c.code, c.tie⟩]
  | .icmp _ w _ _ d a b => [⟨.D, .dst32, d, false⟩, ⟨.A, (if w then .src64 else .src32), a.code, a.tie⟩, ⟨.B, (if w then .src64 else .src32), b.code, b.tie⟩]
  | .pand _ _ _ d a b => [⟨.D, .dst32, d, false⟩, ⟨.A, .src32, a.code, a.tie⟩, ⟨.B, .src32, b.code, b.tie⟩]
  | .por _ _ _ d a b => [⟨.D, .dst32, d, false⟩, ⟨.A, .src32, a.code, a.tie⟩, ⟨.B, .src32, b.code, b.tie⟩]
  | .pxor _ _ _ d a b => [⟨.D, .dst32, d, false⟩, ⟨.A, .src32, a.code, a.tie⟩, ⟨.B, .src32, b.code, b.tie⟩]
  | .pnot _ d a => [⟨.D, .dst32, d, false⟩, ⟨.A, .src32, a.code, a.tie⟩]
  | .mov _ w d a => [⟨.D, (if w then .dst64 else .dst32), d, false⟩, ⟨.A, (if w then .src64 else .src32), a.code, a.tie⟩]
  | .sel _ w d a b c => [⟨.D, (if w then .dst64 else .dst32), d, false⟩, ⟨.A, (if w then .src64 else .src32), a.code, a.tie⟩, ⟨.B, (if w then .src64 else .src32), b.code, b.tie⟩, ⟨.C, .src32, c.code, c.tie⟩]
  | .movx _ w d a => [⟨.D, (if w then .dst64 else .dst32), d, false⟩, ⟨.A, .src32, a.code, a.tie⟩]
  | .movxw _ w a b => [⟨.A, .src32, a.code, a.tie⟩, ⟨.B, (if w then .src64 else .src32), b.code, b.tie⟩]
  | .mkempty _ w d => [⟨.D, (if w then .lane64 else .lane32), d, false⟩]
  | .add64 _ _ _ d a b => [⟨.D, .dst64, d, false⟩, ⟨.A, .src64, a.code, a.tie⟩, ⟨.B, .src64, b.code, b.tie⟩]
  | .sub64 _ _ _ d a b => [⟨.D, .dst64, d, false⟩, ⟨.A, .src64, a.code, a.tie⟩, ⟨.B, .src64, b.code, b.tie⟩]
  | .lea _ _ _ d a b => [⟨.D, .dst64, d, false⟩, ⟨.A, .src64, a.code, a.tie⟩, ⟨.B, .src32, b.code, b.tie⟩]
  | .gmask _ m d a => [⟨.D, .dst32, d, false⟩, ⟨.A, (if m = .slot then .unused0 else .src32), a.code, a.tie⟩]
  | .shfl _ w _ d a b => [⟨.D, (if w then .dst64 else .dst32), d, false⟩, ⟨.A, (if w then .src64 else .src32), a.code, a.tie⟩, ⟨.B, .src32, b.code, b.tie⟩]
  | .addi _ d a _ => [⟨.D, .dst32, d, false⟩, ⟨.A, .src32, a, false⟩]
  | .movi _ d _ => [⟨.D, .dst32, d, false⟩]
  | .bra _ d _ => [⟨.D, .link, d, false⟩]
  | .brx _ slot d a b => [⟨.D, .linkx, d, false⟩, ⟨.A, .src64, a.code, a.tie⟩, ⟨.B, (if slot then .src32 else .unused0), b.code, b.tie⟩]
  | .exit _ => []
  | .trap _ a => [⟨.A, .src32, a.code, a.tie⟩]
  | .baton _ _ d a => [⟨.D, .dst32, d, false⟩, ⟨.A, .src32, a.code, a.tie⟩]
  | .fadd _ _ _ d a b => [⟨.D, .dst32, d, false⟩, ⟨.A, .src32, a.code, a.tie⟩, ⟨.B, .src32, b.code, b.tie⟩]
  | .fsub _ _ _ d a b => [⟨.D, .dst32, d, false⟩, ⟨.A, .src32, a.code, a.tie⟩, ⟨.B, .src32, b.code, b.tie⟩]
  | .fmul _ _ _ d a b => [⟨.D, .dst32, d, false⟩, ⟨.A, .src32, a.code, a.tie⟩, ⟨.B, .src32, b.code, b.tie⟩]
  | .ffma _ _ _ d a b c => [⟨.D, .dst32, d, false⟩, ⟨.A, .src32, a.code, a.tie⟩, ⟨.B, .src32, b.code, b.tie⟩, ⟨.C, .src32, c.code, c.tie⟩]
  | .fdiv _ _ _ d a b => [⟨.D, .dst32, d, false⟩, ⟨.A, .src32, a.code, a.tie⟩, ⟨.B, .src32, b.code, b.tie⟩]
  | .fsqrt _ _ _ d a => [⟨.D, .dst32, d, false⟩, ⟨.A, .src32, a.code, a.tie⟩]
  | .fmin _ _ d a b => [⟨.D, .dst32, d, false⟩, ⟨.A, .src32, a.code, a.tie⟩, ⟨.B, .src32, b.code, b.tie⟩]
  | .fmax _ _ d a b => [⟨.D, .dst32, d, false⟩, ⟨.A, .src32, a.code, a.tie⟩, ⟨.B, .src32, b.code, b.tie⟩]
  | .fabs _ d a => [⟨.D, .dst32, d, false⟩, ⟨.A, .src32, a.code, a.tie⟩]
  | .fneg _ d a => [⟨.D, .dst32, d, false⟩, ⟨.A, .src32, a.code, a.tie⟩]
  | .fadd2 _ _ _ _ d a b => [⟨.D, .dst32, d, false⟩, ⟨.A, .src32, a.code, a.tie⟩, ⟨.B, .src32, b.code, b.tie⟩]
  | .fmul2 _ _ _ _ d a b => [⟨.D, .dst32, d, false⟩, ⟨.A, .src32, a.code, a.tie⟩, ⟨.B, .src32, b.code, b.tie⟩]
  | .ffma2 _ _ _ _ d a b c => [⟨.D, .dst32, d, false⟩, ⟨.A, .src32, a.code, a.tie⟩, ⟨.B, .src32, b.code, b.tie⟩, ⟨.C, .src32, c.code, c.tie⟩]
  | .fcmp _ _ _ d a b => [⟨.D, .dst32, d, false⟩, ⟨.A, .src32, a.code, a.tie⟩, ⟨.B, .src32, b.code, b.tie⟩]
  | .fcvt _ _ _ d a => [⟨.D, .dst32, d, false⟩, ⟨.A, .src32, a.code, a.tie⟩]
  | .fpack _ _ _ rs d a b c => [⟨.D, .dst32, d, false⟩, ⟨.A, .src32, a.code, a.tie⟩, ⟨.B, .src32, b.code, b.tie⟩, ⟨.C, (if rs then .src32 else .unused0), c.code, c.tie⟩]
  | .funpk _ _ sc d a b c => [⟨.D, .dst32, d, false⟩, ⟨.A, .src32, a.code, a.tie⟩, ⟨.B, .src32, b.code, b.tie⟩, ⟨.C, (if sc then .src32 else .unused0), c.code, c.tie⟩]
  | .fex2 _ _ _ d a => [⟨.D, .dst32, d, false⟩, ⟨.A, .src32, a.code, a.tie⟩]
  | .flg2 _ _ _ d a => [⟨.D, .dst32, d, false⟩, ⟨.A, .src32, a.code, a.tie⟩]
  | .frcp _ _ d a => [⟨.D, .dst32, d, false⟩, ⟨.A, .src32, a.code, a.tie⟩]
  | .frsq _ _ d a => [⟨.D, .dst32, d, false⟩, ⟨.A, .src32, a.code, a.tie⟩]
  | .rnd _ _ d a b c => [⟨.D, .dst32, d, false⟩, ⟨.A, .src32, a.code, a.tie⟩, ⟨.B, .src32, b.code, b.tie⟩, ⟨.C, .src32, c.code, c.tie⟩]
  | .ld _ _ sz d a _ => [⟨.D, (if sz = .b64 then .lane64 else .lane32), d, false⟩, ⟨.A, .src64, a.code, a.tie⟩]
  | .st _ _ sz a b _ => [⟨.A, .src64, a.code, a.tie⟩, ⟨.B, (if sz = .b64 then .src64 else .src32), b.code, b.tie⟩]
  | .pld _ sz d a _ => [⟨.D, (if sz = .b64 then .lane64 else .lane32), d, false⟩, ⟨.A, .src32, a.code, a.tie⟩]
  | .pst _ sz a b _ => [⟨.A, .src32, a.code, a.tie⟩, ⟨.B, (if sz = .b64 then .src64 else .src32), b.code, b.tie⟩]
  | .ldp _ _ a b => [⟨.A, .src64, a.code, a.tie⟩, ⟨.B, .src32, b.code, b.tie⟩]
  | .rmw _ fn ty d a b _ => [⟨.D, (if ty.is64 then .lane64 else .lane32), d, false⟩, ⟨.A, .src64, a.code, a.tie⟩, ⟨.B, (if ty.is64 || fn == .cas then .src64 else .src32), b.code, b.tie⟩]
  | .prmw _ fn ty d a b _ => [⟨.D, (if ty.is64 then .lane64 else .lane32), d, false⟩, ⟨.A, .src32, a.code, a.tie⟩, ⟨.B, (if ty.is64 || fn == .cas then .src64 else .src32), b.code, b.tie⟩]
  | .red _ _ ty a b _ => [⟨.A, .src64, a.code, a.tie⟩, ⟨.B, (if ty.is64 then .src64 else .src32), b.code, b.tie⟩]
  | .fence _ _ => []
  | .fenceLd _ => []
  | .bank _ _ a b => [⟨.A, .src32, a.code, a.tie⟩, ⟨.B, .src32, b.code, b.tie⟩]
  | .bankq _ d a => [⟨.D, .dst32, d, false⟩, ⟨.A, .src32, a.code, a.tie⟩]
  | .lease _ _ => []
  | .pref _ _ a _ => [⟨.A, .src64, a.code, a.tie⟩]
  | .qpush _ a b => [⟨.A, .src64, a.code, a.tie⟩, ⟨.B, .src32, b.code, b.tie⟩]
  | .qpop _ d a => [⟨.D, .lane64, d, false⟩, ⟨.A, .src64, a.code, a.tie⟩]
  | .psnt _ w d a => [⟨.D, .dst32, d, false⟩, ⟨.A, (if w then .src64 else .src32), a.code, a.tie⟩]
  | .psnc _ w d => [⟨.D, (if w then .lane64 else .psncD), d, false⟩]
  | .xlq _ _ _ d a => [⟨.D, .lane64, d, false⟩, ⟨.A, .src64, a.code, a.tie⟩]
  | .tagr _ d a => [⟨.D, .lane32, d, false⟩, ⟨.A, .src64, a.code, a.tie⟩]
  | .tagw _ a b => [⟨.A, .src64, a.code, a.tie⟩, ⟨.B, .src32, b.code, b.tie⟩]
  | .copy _ _ _ _ _ d a => [⟨.D, .lane32, d, false⟩, ⟨.A, .srcP, a, false⟩]
  | .fill _ _ _ _ d a b => [⟨.D, .lane32, d, false⟩, ⟨.A, .srcP, a, false⟩, ⟨.B, .src32, b, false⟩]
  | .gath _ _ _ _ _ d a => [⟨.D, .lane32, d, false⟩, ⟨.A, .srcP, a, false⟩]
  | .scat _ _ _ _ _ d a => [⟨.D, .lane32, d, false⟩, ⟨.A, .srcP, a, false⟩]
  | .copy2d _ _ _ _ _ d a => [⟨.D, .lane32, d, false⟩, ⟨.A, .srcP, a, false⟩]
  | .publish _ d a b => [⟨.D, .lane32, d, false⟩, ⟨.A, .srcP, a, false⟩, ⟨.B, .src32, b, false⟩]
  | .smerge _ _ d a => [⟨.D, .lane32, d, false⟩, ⟨.A, .srcP, a, false⟩]
  | .shadow _ d a b => [⟨.D, .lane32, d, false⟩, ⟨.A, .srcP, a, false⟩, ⟨.B, .src32, b, false⟩]
  | .shadowClose _ d a b => [⟨.D, .lane32, d, false⟩, ⟨.A, .srcP, a, false⟩, ⟨.B, .src32, b, false⟩]
  | .cpq _ occ d a b => [⟨.D, .lane32, d, false⟩, ⟨.A, .srcP, a, false⟩, ⟨.B, (if occ then .unused224 else .src32), b, false⟩]
  | .push _ _ w a b => [⟨.A, .src32, a.code, a.tie⟩, ⟨.B, (if w then .src64 else .src32), b.code, b.tie⟩]
  | .pop _ w d a => [⟨.D, (if w then .lane64 else .lane32), d, false⟩, ⟨.A, .src32, a.code, a.tie⟩]
  | .poll _ d a => [⟨.D, .lane64, d, false⟩, ⟨.A, .src32, a.code, a.tie⟩]
  | .stamp _ d a b => [⟨.D, .lane32, d, false⟩, ⟨.A, .src32, a.code, a.tie⟩, ⟨.B, .src32, b.code, b.tie⟩]
  | .rput _ a b c => [⟨.A, .src32, a.code, a.tie⟩, ⟨.B, .src32, b.code, b.tie⟩, ⟨.C, .src32, c.code, c.tie⟩]
  | .rtake _ d a => [⟨.D, .lane32, d, false⟩, ⟨.A, .src32, a.code, a.tie⟩]
  | .arrive _ a b => [⟨.A, .src32, a.code, a.tie⟩, ⟨.B, .src32, b.code, b.tie⟩]
  | .await _ d a b => [⟨.D, .lane32, d, false⟩, ⟨.A, .src32, a.code, a.tie⟩, ⟨.B, .src32, b.code, b.tie⟩]
  | .expect _ a b => [⟨.A, .src32, a.code, a.tie⟩, ⟨.B, .src32, b.code, b.tie⟩]
  | .cwr _ a b => [⟨.A, .src64, a.code, a.tie⟩, ⟨.B, .src32, b.code, b.tie⟩]
  | .waitw _ a b => [⟨.A, .src32, a.code, a.tie⟩, ⟨.B, .src32, b.code, b.tie⟩]
  | .phcfgCreate _ d a b => [⟨.D, .lane32, d, false⟩, ⟨.A, .srcP, a, false⟩, ⟨.B, .src32, b, false⟩]
  | .phcfgDestroy _ d a b => [⟨.D, .lane32, d, false⟩, ⟨.A, .srcP, a, false⟩, ⟨.B, .src32, b, false⟩]
  | .phq _ d a b => [⟨.D, .lane32, d, false⟩, ⟨.A, .srcP, a, false⟩, ⟨.B, .src32, b, false⟩]
  | .post _ _ _ gx d a b => [⟨.D, .lane32, d, false⟩, ⟨.A, .srcP, a, false⟩, ⟨.B, (if gx then .src32 else .unused224), b, false⟩]
  | .accept _ a b => [⟨.A, .src32, a.code, a.tie⟩, ⟨.B, .src32, b.code, b.tie⟩]
  | .pshare _ _ _ d a => [⟨.D, .lane32, d, false⟩, ⟨.A, .srcP, a, false⟩]
  | .opclass _ d a b => [⟨.D, .lane32, d, false⟩, ⟨.A, .srcP, a, false⟩, ⟨.B, .src32, b, false⟩]
  | .cwait _ all d a b => [⟨.D, .lane32, d, false⟩, ⟨.A, .srcP, a, false⟩, ⟨.B, (if all then .unused224 else .src32), b, false⟩]
  | .bleft _ d => [⟨.D, .dst32, d, false⟩]
  | .preempt _ d a b => [⟨.D, .lane32, d, false⟩, ⟨.A, .srcP, a, false⟩, ⟨.B, .src32, b, false⟩]
  | .preemptResume _ d a b => [⟨.D, .lane32, d, false⟩, ⟨.A, .srcP, a, false⟩, ⟨.B, .src32, b, false⟩]
  | .pquery _ d a => [⟨.D, .lane32, d, false⟩, ⟨.A, .srcP, a, false⟩]
  | .mmul _ _ _ _ d a => [⟨.D, .lane32, d, false⟩, ⟨.A, .srcP, a, false⟩]
  | .bfill _ _ _ d a => [⟨.D, .lane32, d, false⟩, ⟨.A, .srcP, a, false⟩]
  | .azero _ d a => [⟨.D, .lane32, d, false⟩, ⟨.A, .srcP, a, false⟩]
  | .aread _ _ _ _ _ d a => [⟨.D, .lane32, d, false⟩, ⟨.A, .srcP, a, false⟩]
  | .aepi _ _ _ d a => [⟨.D, .lane32, d, false⟩, ⟨.A, .srcP, a, false⟩]
  | .rqt _ _ d a => [⟨.D, .lane32, d, false⟩, ⟨.A, .srcP, a, false⟩]
  | .mattn _ _ _ _ d a => [⟨.D, .lane32, d, false⟩, ⟨.A, .srcP, a, false⟩]
  | .aalloc _ d a b => [⟨.D, .lane32, d, false⟩, ⟨.A, .srcP, a, false⟩, ⟨.B, .src32, b, false⟩]
  | .mstat _ d a => [⟨.D, .lane32, d, false⟩, ⟨.A, .srcP, a, false⟩]
  | .topk _ _ _ d a => [⟨.D, .lane32, d, false⟩, ⟨.A, .srcP, a, false⟩]
  | .selm _ _ _ d a => [⟨.D, .lane32, d, false⟩, ⟨.A, .srcP, a, false⟩]
  | .sdraw _ _ _ _ _ d a b => [⟨.D, .lane32, d, false⟩, ⟨.A, .srcP, a, false⟩, ⟨.B, .src32, b, false⟩]
  | .hook _ d a => [⟨.D, .lane32, d, false⟩, ⟨.A, .srcP, a, false⟩]
  | .hist _ _ _ d a => [⟨.D, .lane32, d, false⟩, ⟨.A, .srcP, a, false⟩]
  | .fork _ d a => [⟨.D, .lane32, d, false⟩, ⟨.A, .srcP, a, false⟩]
  | .seal _ d a b => [⟨.D, .lane32, d, false⟩, ⟨.A, .srcP, a, false⟩, ⟨.B, .src32, b, false⟩]
  | .shred _ d a b => [⟨.D, .lane32, d, false⟩, ⟨.A, .srcP, a, false⟩, ⟨.B, .src32, b, false⟩]
  | .abrt _ _ a => [⟨.A, .src32, a.code, a.tie⟩]
  | .frq _ which d => [⟨.D, (if which = .atF then .dst32 else .dst64), d, false⟩]
  | .tsq _ d => [⟨.D, .dst32, d, false⟩]
  | .decl _ d a => [⟨.D, .lane32, d, false⟩, ⟨.A, .srcP, a, false⟩]
  | .edges _ d => [⟨.D, .dst32, d, false⟩]
  | .verq _ d a => [⟨.D, .lane32, d, false⟩, ⟨.A, .srcP, a, false⟩]
  | .dtload _ _ _ d a => [⟨.D, .lane32, d, false⟩, ⟨.A, .srcP, a, false⟩]
  | .dtnode _ d a => [⟨.D, .lane32, d, false⟩, ⟨.A, .srcP, a, false⟩]
  | .dtclr _ d a b => [⟨.D, .lane32, d, false⟩, ⟨.A, .srcP, a, false⟩, ⟨.B, .src32, b, false⟩]
  | .dtmask _ d a => [⟨.D, .lane32, d, false⟩, ⟨.A, .srcP, a, false⟩]
  | .dtpos _ d a => [⟨.D, .lane32, d, false⟩, ⟨.A, .srcP, a, false⟩]
  | .dtacc _ _ d a => [⟨.D, .lane32, d, false⟩, ⟨.A, .srcP, a, false⟩]
  | .redact _ d a => [⟨.D, .lane32, d, false⟩, ⟨.A, .srcP, a, false⟩]
  | .kvx _ _ d a b c => [⟨.D, .lane64, d, false⟩, ⟨.A, .src64, a.code, a.tie⟩, ⟨.B, .src32, b.code, b.tie⟩, ⟨.C, .src32, c.code, c.tie⟩]
  | .kvfork _ d a => [⟨.D, .lane32, d, false⟩, ⟨.A, .srcP, a, false⟩]
  | .kvapp _ d a => [⟨.D, .lane32, d, false⟩, ⟨.A, .srcP, a, false⟩]
  | .kvalloc _ d a => [⟨.D, .lane32, d, false⟩, ⟨.A, .srcP, a, false⟩]
  | .kvallocInit _ d a => [⟨.D, .lane32, d, false⟩, ⟨.A, .srcP, a, false⟩]
  | .kvfree _ d a => [⟨.D, .lane32, d, false⟩, ⟨.A, .srcP, a, false⟩]
  | .pcatt _ d a => [⟨.D, .lane32, d, false⟩, ⟨.A, .srcP, a, false⟩]
  | .pcattIns _ d a => [⟨.D, .lane32, d, false⟩, ⟨.A, .srcP, a, false⟩]
  | .pcevict _ d a => [⟨.D, .lane32, d, false⟩, ⟨.A, .srcP, a, false⟩]
  | .bltabCreate _ d a => [⟨.D, .lane32, d, false⟩, ⟨.A, .srcP, a, false⟩]
  | .bltabDestroy _ d a => [⟨.D, .lane32, d, false⟩, ⟨.A, .srcP, a, false⟩]
  | .bltabRead _ d a => [⟨.D, .lane32, d, false⟩, ⟨.A, .srcP, a, false⟩]
  | .kvsurvGet _ d a => [⟨.D, .lane32, d, false⟩, ⟨.A, .srcP, a, false⟩]
  | .kvsurvClr _ d a => [⟨.D, .lane32, d, false⟩, ⟨.A, .srcP, a, false⟩]
  | .kvsurvSet _ d a => [⟨.D, .lane32, d, false⟩, ⟨.A, .srcP, a, false⟩]
  | .fld _ sz d a _ => [⟨.D, (if sz = .b64 then .lane64 else .lane32), d, false⟩, ⟨.A, .src64, a.code, a.tie⟩]
  | .fst _ sz a b _ => [⟨.A, .src64, a.code, a.tie⟩, ⟨.B, (if sz = .b64 then .src64 else .src32), b.code, b.tie⟩]
  | .frmw _ fop w d a b _ => [⟨.D, (if w then .lane64 else .lane32), d, false⟩, ⟨.A, .src64, a.code, a.tie⟩, ⟨.B, (if w || fop == .cas then .src64 else .src32), b.code, b.tie⟩]
  | .fstm _ d a => [⟨.D, .lane32, d, false⟩, ⟨.A, .srcP, a, false⟩]
  | .fldr _ d a => [⟨.D, .lane32, d, false⟩, ⟨.A, .srcP, a, false⟩]
  | .fexpGrant _ d a b => [⟨.D, .lane32, d, false⟩, ⟨.A, .srcP, a, false⟩, ⟨.B, .src32, b, false⟩]
  | .fexpRevoke _ d a b => [⟨.D, .lane32, d, false⟩, ⟨.A, .srcP, a, false⟩, ⟨.B, .src32, b, false⟩]
  | .fexpGroup _ d a b => [⟨.D, .lane32, d, false⟩, ⟨.A, .srcP, a, false⟩, ⟨.B, .src32, b, false⟩]
  | .fexpQuery _ d a b => [⟨.D, .lane32, d, false⟩, ⟨.A, .srcP, a, false⟩, ⟨.B, .src32, b, false⟩]
  | .bkpt _ a => [⟨.A, .src32, a.code, a.tie⟩]
  | .trc _ a b => [⟨.A, .src32, a.code, a.tie⟩, ⟨.B, .src32, b.code, b.tie⟩]
  | .ctrr _ m d a => [⟨.D, .lane64, d, false⟩, ⟨.A, (if m = .latch then .unused0 else .src32), a.code, a.tie⟩]
  | .wpset _ d a b => [⟨.D, .lane32, d, false⟩, ⟨.A, .srcP, a, false⟩, ⟨.B, .src32, b, false⟩]
  | .errq _ d a => [⟨.D, .lane32, d, false⟩, ⟨.A, .srcP, a, false⟩]
  | .pwrq _ d a => [⟨.D, .lane32, d, false⟩, ⟨.A, .srcP, a, false⟩]
  | .featq _ d a => [⟨.D, .dst32, d, false⟩, ⟨.A, .src32, a.code, a.tie⟩]
  | .idq _ d a => [⟨.D, .lane32, d, false⟩, ⟨.A, .srcP, a, false⟩]
  | .contextFault _ => []
  | .fabricResponse _ _ => []
  | .groupFormation _ _ => []
  | .waitRelease _ _ => []
  | .trapEntry _ _ => []
  | .commandAcceptance _ => []
  | .engineStep _ => []
  | .commandCompletion _ => []
  | .deadLetterPost _ => []
  | .lateDelivery _ => []
  | .irrevocableStepResume _ => []
  | .globalWritePerform _ => []
  | .leaseExpiry _ _ => []
  | .bankSwitchComplete _ _ => []
  | .fencePass _ _ => []
  | .frameService _ _ => []
  | .serviceEnd _ _ => []
  | .publicationPerform _ => []
  | .heldPartialMerge _ => []
  | .partialResend _ => []
  | .phActServed _ => []
  | .courierFill _ => []
  | .spillModeEntry _ _ _ => []
  | .spillMove _ _ _ => []
  | .deadlock _ => []
  | .recordTake => []
  | .teamStart _ => []
  | .startOrderBlock _ => []
  | .teamEnd _ => []
  | .gridRetire _ => []
  | .shareRecompute => []
  | .switchBegin _ => []
  | .switchComplete _ => []
  | .budgetOverrun _ => []
  | .preemption _ => []
  | .saveComplete _ => []
  | .teamResume _ => []
  | .holdRelease _ => []
  | .taskCommit _ => []
  | .versionFold _ => []
  | .taskRelaunch _ => []
  | .frontierUpdate _ _ => []
  | .parkTakeUp _ => []
  | .versionSpaceAbort _ => []
  | .ingressRequest _ _ => []
  | .requestAbsent _ => []
  | .peerRouteChange _ _ _ _ => []
  | .foldNotice _ _ => []
  | .discardNotice _ _ => []
  | .retagNotice _ _ _ => []
  | .postbagWrite => []
  | .counterClear _ _ => []
  | .halt _ _ => []
  | .resume _ _ => []
  | .step _ _ => []
  | .debugRead _ _ => []
  | .debugWrite _ _ => []
  | .readpc _ _ => []
  | .wset _ _ _ => []
  | .query _ _ => []
  | .grant _ _ => []
  | .revoke _ _ => []
  | .claim _ => []
  | .handover _ _ => []
  | .take _ => []
  | .read _ _ _ _ => []
  | .write _ _ _ => []
  | .idkey _ => []
  | .attest _ _ => []
  | .reset _ => []
  | .masterDetach _ => []
  | .registerWrite _ _ _ => []
  | .sqctlWrite _ _ _ => []
  | .sqtailDoorbell _ _ _ => []
  | .partitionTableWrite _ _ _ => []
  | .feataccWrite _ _ _ => []
  | .classWrite _ _ => []
  | .create _ _ => []
  | .destroy _ _ => []
  | .kill _ _ => []
  | .restart _ _ => []
  | .shootdown _ _ => []
  | .preqPreempt _ _ => []
  | .preqResume _ _ => []
  | .bootgo _ _ => []
  | .pbctlWrite _ _ => []
  | .pbgetWrite _ _ => []
  | .thermal _ _ => []
  | .softError _ _ _ => []
  | .masterAttach _ => []
  | .temperatureFall _ _ => []

/-- The further settings that a word may not have (R50, R81, R119, R134, R142, R196, R411). -/
def Instr.listed : Instr → Bool
  | .add _ _ _ _ _ _ => true
  | .sub _ _ _ _ _ _ => true
  | .mul _ _ _ _ _ _ => true
  | .mulh _ _ _ _ _ => true
  | .mad _ _ _ _ _ _ _ => true
  | .min _ _ _ _ _ => true
  | .max _ _ _ _ _ => true
  | .abs _ _ _ _ => true
  | .neg _ _ _ _ => true
  | .and _ _ _ _ => true
  | .or _ _ _ _ => true
  | .xor _ _ _ _ => true
  | .not _ _ _ => true
  | .shl _ _ _ _ => true
  | .shr _ _ _ _ _ => true
  | .rot _ _ _ _ => true
  | .popc _ _ _ => true
  | .clz _ _ _ => true
  | .brev _ _ _ => true
  | .bfe _ _ _ _ _ => true
  | .bfi _ _ _ _ _ => true
  | .bperm _ _ _ _ _ => true
  | .icmp _ _ _ _ _ _ _ => true
  | .pand _ _ _ _ _ _ => true
  | .por _ _ _ _ _ _ => true
  | .pxor _ _ _ _ _ _ => true
  | .pnot _ _ _ => true
  | .mov _ _ _ _ => true
  | .sel _ _ _ _ _ _ => true
  | .movx _ _ _ _ => true
  | .movxw _ _ _ _ => true
  | .mkempty _ _ _ => true
  | .add64 _ _ _ _ _ _ => true
  | .sub64 _ _ _ _ _ _ => true
  | .lea _ _ _ _ _ _ => true
  | .gmask _ _ _ _ => true
  | .shfl _ _ _ _ _ _ => true
  | .addi _ _ _ _ => true
  | .movi _ _ _ => true
  | .bra _ _ _ => true
  | .brx _ _ _ _ _ => true
  | .exit _ => true
  | .trap _ _ => true
  | .baton _ _ _ _ => true
  | .fadd _ _ _ _ _ _ => true
  | .fsub _ _ _ _ _ _ => true
  | .fmul _ _ _ _ _ _ => true
  | .ffma _ _ _ _ _ _ _ => true
  | .fdiv _ _ _ _ _ _ => true
  | .fsqrt _ _ _ _ _ => true
  | .fmin _ _ _ _ _ => true
  | .fmax _ _ _ _ _ => true
  | .fabs _ _ _ => true
  | .fneg _ _ _ => true
  | .fadd2 _ _ _ _ _ _ _ => true
  | .fmul2 _ _ _ _ _ _ _ => true
  | .ffma2 _ _ _ _ _ _ _ _ => true
  | .fcmp _ _ _ _ _ _ => true
  | .fcvt _ _ _ _ _ => true
  | .fpack _ t _ rs _ _ _ _ => !(rs && t == .f16)
  | .funpk _ t sc _ _ _ _ => !(sc && (t == .f16 || t == .bf16))
  | .fex2 _ _ _ _ _ => true
  | .flg2 _ _ _ _ _ => true
  | .frcp _ _ _ _ => true
  | .frsq _ _ _ _ => true
  | .rnd _ _ _ _ _ _ => true
  | .ld _ _ _ _ _ _ => true
  | .st _ _ sz _ _ _ => sz.isStore
  | .pld _ _ _ _ _ => true
  | .pst _ sz _ _ _ => sz.isStore
  | .ldp _ pt _ _ => decide (pt.toNat < 24)
  | .rmw _ fn ty _ _ _ _ => fn.allows ty
  | .prmw _ fn ty _ _ _ _ => fn.allows ty
  | .red _ fn ty _ _ _ => fn.allows ty && fn != .exch && fn != .cas
  | .fence _ _ => true
  | .fenceLd _ => true
  | .bank _ _ _ _ => true
  | .bankq _ _ _ => true
  | .lease _ _ => true
  | .pref _ _ _ _ => true
  | .qpush _ _ _ => true
  | .qpop _ _ _ => true
  | .psnt _ _ _ _ => true
  | .psnc _ _ _ => true
  | .xlq _ _ _ _ _ => true
  | .tagr _ _ _ => true
  | .tagw _ _ _ => true
  | .copy _ _ sig dp _ _ _ => (!sig || dp)
  | .fill _ _ sig dp _ _ _ => (!sig || dp)
  | .gath _ _ sig dp _ _ _ => (!sig || dp)
  | .scat _ _ sig dp _ _ _ => (!sig || dp)
  | .copy2d _ _ sig dp _ _ _ => (!sig || dp)
  | .publish _ _ _ _ => true
  | .smerge _ _ _ _ => true
  | .shadow _ _ _ _ => true
  | .shadowClose _ _ _ _ => true
  | .cpq _ _ _ _ _ => true
  | .push _ _ _ _ _ => true
  | .pop _ _ _ _ => true
  | .poll _ _ _ => true
  | .stamp _ _ _ _ => true
  | .rput _ _ _ _ => true
  | .rtake _ _ _ => true
  | .arrive _ _ _ => true
  | .await _ _ _ _ => true
  | .expect _ _ _ => true
  | .cwr _ _ _ => true
  | .waitw _ _ _ => true
  | .phcfgCreate _ _ _ _ => true
  | .phcfgDestroy _ _ _ _ => true
  | .phq _ _ _ _ => true
  | .post _ _ _ _ _ _ _ => true
  | .accept _ _ _ => true
  | .pshare _ _ _ _ _ => true
  | .opclass _ _ _ _ => true
  | .cwait _ _ _ _ _ => true
  | .bleft _ _ => true
  | .preempt _ _ _ _ => true
  | .preemptResume _ _ _ _ => true
  | .pquery _ _ _ => true
  | .mmul _ _ _ _ _ _ => true
  | .bfill _ _ _ _ _ => true
  | .azero _ _ _ => true
  | .aread _ _ _ _ _ _ _ => true
  | .aepi _ _ _ _ _ => true
  | .rqt _ _ _ _ => true
  | .mattn _ _ _ _ _ _ => true
  | .aalloc _ _ _ _ => true
  | .mstat _ _ _ => true
  | .topk _ _ _ _ _ => true
  | .selm _ _ _ _ _ => true
  | .sdraw _ _ _ _ _ _ _ _ => true
  | .hook _ _ _ => true
  | .hist _ _ _ _ _ => true
  | .fork _ _ _ => true
  | .seal _ _ _ _ => true
  | .shred _ _ _ _ => true
  | .abrt _ _ _ => true
  | .frq _ _ _ => true
  | .tsq _ _ => true
  | .decl _ _ _ => true
  | .edges _ _ => true
  | .verq _ _ _ => true
  | .dtload _ _ _ _ _ => true
  | .dtnode _ _ _ => true
  | .dtclr _ _ _ _ => true
  | .dtmask _ _ _ => true
  | .dtpos _ _ _ => true
  | .dtacc _ _ _ _ => true
  | .redact _ _ _ => true
  | .kvx _ _ _ _ _ _ => true
  | .kvfork _ _ _ => true
  | .kvapp _ _ _ => true
  | .kvalloc _ _ _ => true
  | .kvallocInit _ _ _ => true
  | .kvfree _ _ _ => true
  | .pcatt _ _ _ => true
  | .pcattIns _ _ _ => true
  | .pcevict _ _ _ => true
  | .bltabCreate _ _ _ => true
  | .bltabDestroy _ _ _ => true
  | .bltabRead _ _ _ => true
  | .kvsurvGet _ _ _ => true
  | .kvsurvClr _ _ _ => true
  | .kvsurvSet _ _ _ => true
  | .fld _ _ _ _ _ => true
  | .fst _ sz _ _ _ => sz.isStore
  | .frmw _ fop w _ _ _ _ => !(w && (fop == .cas || fop == .fadd))
  | .fstm _ _ _ => true
  | .fldr _ _ _ => true
  | .fexpGrant _ _ _ _ => true
  | .fexpRevoke _ _ _ _ => true
  | .fexpGroup _ _ _ _ => true
  | .fexpQuery _ _ _ _ => true
  | .bkpt _ _ => true
  | .trc _ _ _ => true
  | .ctrr _ _ _ _ => true
  | .wpset _ _ _ _ => true
  | .errq _ _ _ => true
  | .pwrq _ _ _ => true
  | .featq _ _ _ => true
  | .idq _ _ _ => true
  | .contextFault _ => true
  | .fabricResponse _ _ => true
  | .groupFormation _ _ => true
  | .waitRelease _ _ => true
  | .trapEntry _ _ => true
  | .commandAcceptance _ => true
  | .engineStep _ => true
  | .commandCompletion _ => true
  | .deadLetterPost _ => true
  | .lateDelivery _ => true
  | .irrevocableStepResume _ => true
  | .globalWritePerform _ => true
  | .leaseExpiry _ _ => true
  | .bankSwitchComplete _ _ => true
  | .fencePass _ _ => true
  | .frameService _ _ => true
  | .serviceEnd _ _ => true
  | .publicationPerform _ => true
  | .heldPartialMerge _ => true
  | .partialResend _ => true
  | .phActServed _ => true
  | .courierFill _ => true
  | .spillModeEntry _ _ _ => true
  | .spillMove _ _ _ => true
  | .deadlock _ => true
  | .recordTake => true
  | .teamStart _ => true
  | .startOrderBlock _ => true
  | .teamEnd _ => true
  | .gridRetire _ => true
  | .shareRecompute => true
  | .switchBegin _ => true
  | .switchComplete _ => true
  | .budgetOverrun _ => true
  | .preemption _ => true
  | .saveComplete _ => true
  | .teamResume _ => true
  | .holdRelease _ => true
  | .taskCommit _ => true
  | .versionFold _ => true
  | .taskRelaunch _ => true
  | .frontierUpdate _ _ => true
  | .parkTakeUp _ => true
  | .versionSpaceAbort _ => true
  | .ingressRequest _ _ => true
  | .requestAbsent _ => true
  | .peerRouteChange _ _ _ _ => true
  | .foldNotice _ _ => true
  | .discardNotice _ _ => true
  | .retagNotice _ _ _ => true
  | .postbagWrite => true
  | .counterClear _ _ => true
  | .halt _ _ => true
  | .resume _ _ => true
  | .step _ _ => true
  | .debugRead _ _ => true
  | .debugWrite _ _ => true
  | .readpc _ _ => true
  | .wset _ _ _ => true
  | .query _ _ => true
  | .grant _ _ => true
  | .revoke _ _ => true
  | .claim _ => true
  | .handover _ _ => true
  | .take _ => true
  | .read _ _ _ _ => true
  | .write _ _ _ => true
  | .idkey _ => true
  | .attest _ _ => true
  | .reset _ => true
  | .masterDetach _ => true
  | .registerWrite _ _ _ => true
  | .sqctlWrite _ _ _ => true
  | .sqtailDoorbell _ _ _ => true
  | .partitionTableWrite _ _ _ => true
  | .feataccWrite _ _ _ => true
  | .classWrite _ _ => true
  | .create _ _ => true
  | .destroy _ _ => true
  | .kill _ _ => true
  | .restart _ _ => true
  | .shootdown _ _ => true
  | .preqPreempt _ _ => true
  | .preqResume _ _ => true
  | .bootgo _ _ => true
  | .pbctlWrite _ _ => true
  | .pbgetWrite _ _ => true
  | .thermal _ _ => true
  | .softError _ _ _ => true
  | .masterAttach _ => true
  | .temperatureFall _ _ => true

/-- The guard of a word (R45); an event has none. -/
def Instr.guard : Instr → Option Guard
  | .add g _ _ _ _ _ => some g
  | .sub g _ _ _ _ _ => some g
  | .mul g _ _ _ _ _ => some g
  | .mulh g _ _ _ _ => some g
  | .mad g _ _ _ _ _ _ => some g
  | .min g _ _ _ _ => some g
  | .max g _ _ _ _ => some g
  | .abs g _ _ _ => some g
  | .neg g _ _ _ => some g
  | .and g _ _ _ => some g
  | .or g _ _ _ => some g
  | .xor g _ _ _ => some g
  | .not g _ _ => some g
  | .shl g _ _ _ => some g
  | .shr g _ _ _ _ => some g
  | .rot g _ _ _ => some g
  | .popc g _ _ => some g
  | .clz g _ _ => some g
  | .brev g _ _ => some g
  | .bfe g _ _ _ _ => some g
  | .bfi g _ _ _ _ => some g
  | .bperm g _ _ _ _ => some g
  | .icmp g _ _ _ _ _ _ => some g
  | .pand g _ _ _ _ _ => some g
  | .por g _ _ _ _ _ => some g
  | .pxor g _ _ _ _ _ => some g
  | .pnot g _ _ => some g
  | .mov g _ _ _ => some g
  | .sel g _ _ _ _ _ => some g
  | .movx g _ _ _ => some g
  | .movxw g _ _ _ => some g
  | .mkempty g _ _ => some g
  | .add64 g _ _ _ _ _ => some g
  | .sub64 g _ _ _ _ _ => some g
  | .lea g _ _ _ _ _ => some g
  | .gmask g _ _ _ => some g
  | .shfl g _ _ _ _ _ => some g
  | .addi g _ _ _ => some g
  | .movi g _ _ => some g
  | .bra g _ _ => some g
  | .brx g _ _ _ _ => some g
  | .exit g => some g
  | .trap g _ => some g
  | .baton g _ _ _ => some g
  | .fadd g _ _ _ _ _ => some g
  | .fsub g _ _ _ _ _ => some g
  | .fmul g _ _ _ _ _ => some g
  | .ffma g _ _ _ _ _ _ => some g
  | .fdiv g _ _ _ _ _ => some g
  | .fsqrt g _ _ _ _ => some g
  | .fmin g _ _ _ _ => some g
  | .fmax g _ _ _ _ => some g
  | .fabs g _ _ => some g
  | .fneg g _ _ => some g
  | .fadd2 g _ _ _ _ _ _ => some g
  | .fmul2 g _ _ _ _ _ _ => some g
  | .ffma2 g _ _ _ _ _ _ _ => some g
  | .fcmp g _ _ _ _ _ => some g
  | .fcvt g _ _ _ _ => some g
  | .fpack g _ _ _ _ _ _ _ => some g
  | .funpk g _ _ _ _ _ _ => some g
  | .fex2 g _ _ _ _ => some g
  | .flg2 g _ _ _ _ => some g
  | .frcp g _ _ _ => some g
  | .frsq g _ _ _ => some g
  | .rnd g _ _ _ _ _ => some g
  | .ld g _ _ _ _ _ => some g
  | .st g _ _ _ _ _ => some g
  | .pld g _ _ _ _ => some g
  | .pst g _ _ _ _ => some g
  | .ldp g _ _ _ => some g
  | .rmw g _ _ _ _ _ _ => some g
  | .prmw g _ _ _ _ _ _ => some g
  | .red g _ _ _ _ _ => some g
  | .fence g _ => some g
  | .fenceLd g => some g
  | .bank g _ _ _ => some g
  | .bankq g _ _ => some g
  | .lease g _ => some g
  | .pref g _ _ _ => some g
  | .qpush g _ _ => some g
  | .qpop g _ _ => some g
  | .psnt g _ _ _ => some g
  | .psnc g _ _ => some g
  | .xlq g _ _ _ _ => some g
  | .tagr g _ _ => some g
  | .tagw g _ _ => some g
  | .copy g _ _ _ _ _ _ => some g
  | .fill g _ _ _ _ _ _ => some g
  | .gath g _ _ _ _ _ _ => some g
  | .scat g _ _ _ _ _ _ => some g
  | .copy2d g _ _ _ _ _ _ => some g
  | .publish g _ _ _ => some g
  | .smerge g _ _ _ => some g
  | .shadow g _ _ _ => some g
  | .shadowClose g _ _ _ => some g
  | .cpq g _ _ _ _ => some g
  | .push g _ _ _ _ => some g
  | .pop g _ _ _ => some g
  | .poll g _ _ => some g
  | .stamp g _ _ _ => some g
  | .rput g _ _ _ => some g
  | .rtake g _ _ => some g
  | .arrive g _ _ => some g
  | .await g _ _ _ => some g
  | .expect g _ _ => some g
  | .cwr g _ _ => some g
  | .waitw g _ _ => some g
  | .phcfgCreate g _ _ _ => some g
  | .phcfgDestroy g _ _ _ => some g
  | .phq g _ _ _ => some g
  | .post g _ _ _ _ _ _ => some g
  | .accept g _ _ => some g
  | .pshare g _ _ _ _ => some g
  | .opclass g _ _ _ => some g
  | .cwait g _ _ _ _ => some g
  | .bleft g _ => some g
  | .preempt g _ _ _ => some g
  | .preemptResume g _ _ _ => some g
  | .pquery g _ _ => some g
  | .mmul g _ _ _ _ _ => some g
  | .bfill g _ _ _ _ => some g
  | .azero g _ _ => some g
  | .aread g _ _ _ _ _ _ => some g
  | .aepi g _ _ _ _ => some g
  | .rqt g _ _ _ => some g
  | .mattn g _ _ _ _ _ => some g
  | .aalloc g _ _ _ => some g
  | .mstat g _ _ => some g
  | .topk g _ _ _ _ => some g
  | .selm g _ _ _ _ => some g
  | .sdraw g _ _ _ _ _ _ _ => some g
  | .hook g _ _ => some g
  | .hist g _ _ _ _ => some g
  | .fork g _ _ => some g
  | .seal g _ _ _ => some g
  | .shred g _ _ _ => some g
  | .abrt g _ _ => some g
  | .frq g _ _ => some g
  | .tsq g _ => some g
  | .decl g _ _ => some g
  | .edges g _ => some g
  | .verq g _ _ => some g
  | .dtload g _ _ _ _ => some g
  | .dtnode g _ _ => some g
  | .dtclr g _ _ _ => some g
  | .dtmask g _ _ => some g
  | .dtpos g _ _ => some g
  | .dtacc g _ _ _ => some g
  | .redact g _ _ => some g
  | .kvx g _ _ _ _ _ => some g
  | .kvfork g _ _ => some g
  | .kvapp g _ _ => some g
  | .kvalloc g _ _ => some g
  | .kvallocInit g _ _ => some g
  | .kvfree g _ _ => some g
  | .pcatt g _ _ => some g
  | .pcattIns g _ _ => some g
  | .pcevict g _ _ => some g
  | .bltabCreate g _ _ => some g
  | .bltabDestroy g _ _ => some g
  | .bltabRead g _ _ => some g
  | .kvsurvGet g _ _ => some g
  | .kvsurvClr g _ _ => some g
  | .kvsurvSet g _ _ => some g
  | .fld g _ _ _ _ => some g
  | .fst g _ _ _ _ => some g
  | .frmw g _ _ _ _ _ _ => some g
  | .fstm g _ _ => some g
  | .fldr g _ _ => some g
  | .fexpGrant g _ _ _ => some g
  | .fexpRevoke g _ _ _ => some g
  | .fexpGroup g _ _ _ => some g
  | .fexpQuery g _ _ _ => some g
  | .bkpt g _ => some g
  | .trc g _ _ => some g
  | .ctrr g _ _ _ => some g
  | .wpset g _ _ _ => some g
  | .errq g _ _ => some g
  | .pwrq g _ _ => some g
  | .featq g _ _ => some g
  | .idq g _ _ => some g
  | .contextFault _ => none
  | .fabricResponse _ _ => none
  | .groupFormation _ _ => none
  | .waitRelease _ _ => none
  | .trapEntry _ _ => none
  | .commandAcceptance _ => none
  | .engineStep _ => none
  | .commandCompletion _ => none
  | .deadLetterPost _ => none
  | .lateDelivery _ => none
  | .irrevocableStepResume _ => none
  | .globalWritePerform _ => none
  | .leaseExpiry _ _ => none
  | .bankSwitchComplete _ _ => none
  | .fencePass _ _ => none
  | .frameService _ _ => none
  | .serviceEnd _ _ => none
  | .publicationPerform _ => none
  | .heldPartialMerge _ => none
  | .partialResend _ => none
  | .phActServed _ => none
  | .courierFill _ => none
  | .spillModeEntry _ _ _ => none
  | .spillMove _ _ _ => none
  | .deadlock _ => none
  | .recordTake => none
  | .teamStart _ => none
  | .startOrderBlock _ => none
  | .teamEnd _ => none
  | .gridRetire _ => none
  | .shareRecompute => none
  | .switchBegin _ => none
  | .switchComplete _ => none
  | .budgetOverrun _ => none
  | .preemption _ => none
  | .saveComplete _ => none
  | .teamResume _ => none
  | .holdRelease _ => none
  | .taskCommit _ => none
  | .versionFold _ => none
  | .taskRelaunch _ => none
  | .frontierUpdate _ _ => none
  | .parkTakeUp _ => none
  | .versionSpaceAbort _ => none
  | .ingressRequest _ _ => none
  | .requestAbsent _ => none
  | .peerRouteChange _ _ _ _ => none
  | .foldNotice _ _ => none
  | .discardNotice _ _ => none
  | .retagNotice _ _ _ => none
  | .postbagWrite => none
  | .counterClear _ _ => none
  | .halt _ _ => none
  | .resume _ _ => none
  | .step _ _ => none
  | .debugRead _ _ => none
  | .debugWrite _ _ => none
  | .readpc _ _ => none
  | .wset _ _ _ => none
  | .query _ _ => none
  | .grant _ _ => none
  | .revoke _ _ => none
  | .claim _ => none
  | .handover _ _ => none
  | .take _ => none
  | .read _ _ _ _ => none
  | .write _ _ _ => none
  | .idkey _ => none
  | .attest _ _ => none
  | .reset _ => none
  | .masterDetach _ => none
  | .registerWrite _ _ _ => none
  | .sqctlWrite _ _ _ => none
  | .sqtailDoorbell _ _ _ => none
  | .partitionTableWrite _ _ _ => none
  | .feataccWrite _ _ _ => none
  | .classWrite _ _ => none
  | .create _ _ => none
  | .destroy _ _ => none
  | .kill _ _ => none
  | .restart _ _ => none
  | .shootdown _ _ => none
  | .preqPreempt _ _ => none
  | .preqResume _ _ => none
  | .bootgo _ _ => none
  | .pbctlWrite _ _ => none
  | .pbgetWrite _ _ => none
  | .thermal _ _ => none
  | .softError _ _ _ => none
  | .masterAttach _ => none
  | .temperatureFall _ _ => none

/-- The class of a word, 0x0 to 0xC (R51 to R53). -/
def Instr.cls : Instr → Option Nat
  | .add _ _ _ _ _ _ => some 0
  | .sub _ _ _ _ _ _ => some 0
  | .mul _ _ _ _ _ _ => some 0
  | .mulh _ _ _ _ _ => some 0
  | .mad _ _ _ _ _ _ _ => some 0
  | .min _ _ _ _ _ => some 0
  | .max _ _ _ _ _ => some 0
  | .abs _ _ _ _ => some 0
  | .neg _ _ _ _ => some 0
  | .and _ _ _ _ => some 0
  | .or _ _ _ _ => some 0
  | .xor _ _ _ _ => some 0
  | .not _ _ _ => some 0
  | .shl _ _ _ _ => some 0
  | .shr _ _ _ _ _ => some 0
  | .rot _ _ _ _ => some 0
  | .popc _ _ _ => some 0
  | .clz _ _ _ => some 0
  | .brev _ _ _ => some 0
  | .bfe _ _ _ _ _ => some 0
  | .bfi _ _ _ _ _ => some 0
  | .bperm _ _ _ _ _ => some 0
  | .icmp _ _ _ _ _ _ _ => some 0
  | .pand _ _ _ _ _ _ => some 0
  | .por _ _ _ _ _ _ => some 0
  | .pxor _ _ _ _ _ _ => some 0
  | .pnot _ _ _ => some 0
  | .mov _ _ _ _ => some 0
  | .sel _ _ _ _ _ _ => some 0
  | .movx _ _ _ _ => some 0
  | .movxw _ _ _ _ => some 0
  | .mkempty _ _ _ => some 0
  | .add64 _ _ _ _ _ _ => some 0
  | .sub64 _ _ _ _ _ _ => some 0
  | .lea _ _ _ _ _ _ => some 0
  | .gmask _ _ _ _ => some 0
  | .shfl _ _ _ _ _ _ => some 0
  | .addi _ _ _ _ => some 0
  | .movi _ _ _ => some 0
  | .bra _ _ _ => some 0
  | .brx _ _ _ _ _ => some 0
  | .exit _ => some 0
  | .trap _ _ => some 0
  | .baton _ _ _ _ => some 0
  | .fadd _ _ _ _ _ _ => some 1
  | .fsub _ _ _ _ _ _ => some 1
  | .fmul _ _ _ _ _ _ => some 1
  | .ffma _ _ _ _ _ _ _ => some 1
  | .fdiv _ _ _ _ _ _ => some 1
  | .fsqrt _ _ _ _ _ => some 1
  | .fmin _ _ _ _ _ => some 1
  | .fmax _ _ _ _ _ => some 1
  | .fabs _ _ _ => some 1
  | .fneg _ _ _ => some 1
  | .fadd2 _ _ _ _ _ _ _ => some 1
  | .fmul2 _ _ _ _ _ _ _ => some 1
  | .ffma2 _ _ _ _ _ _ _ _ => some 1
  | .fcmp _ _ _ _ _ _ => some 1
  | .fcvt _ _ _ _ _ => some 1
  | .fpack _ _ _ _ _ _ _ _ => some 1
  | .funpk _ _ _ _ _ _ _ => some 1
  | .fex2 _ _ _ _ _ => some 1
  | .flg2 _ _ _ _ _ => some 1
  | .frcp _ _ _ _ => some 1
  | .frsq _ _ _ _ => some 1
  | .rnd _ _ _ _ _ _ => some 1
  | .ld _ _ _ _ _ _ => some 2
  | .st _ _ _ _ _ _ => some 2
  | .pld _ _ _ _ _ => some 2
  | .pst _ _ _ _ _ => some 2
  | .ldp _ _ _ _ => some 2
  | .rmw _ _ _ _ _ _ _ => some 2
  | .prmw _ _ _ _ _ _ _ => some 2
  | .red _ _ _ _ _ _ => some 2
  | .fence _ _ => some 2
  | .fenceLd _ => some 2
  | .bank _ _ _ _ => some 2
  | .bankq _ _ _ => some 2
  | .lease _ _ => some 2
  | .pref _ _ _ _ => some 2
  | .qpush _ _ _ => some 2
  | .qpop _ _ _ => some 2
  | .psnt _ _ _ _ => some 3
  | .psnc _ _ _ => some 3
  | .xlq _ _ _ _ _ => some 3
  | .tagr _ _ _ => some 3
  | .tagw _ _ _ => some 3
  | .copy _ _ _ _ _ _ _ => some 4
  | .fill _ _ _ _ _ _ _ => some 4
  | .gath _ _ _ _ _ _ _ => some 4
  | .scat _ _ _ _ _ _ _ => some 4
  | .copy2d _ _ _ _ _ _ _ => some 4
  | .publish _ _ _ _ => some 4
  | .smerge _ _ _ _ => some 4
  | .shadow _ _ _ _ => some 4
  | .shadowClose _ _ _ _ => some 4
  | .cpq _ _ _ _ _ => some 4
  | .push _ _ _ _ _ => some 5
  | .pop _ _ _ _ => some 5
  | .poll _ _ _ => some 5
  | .stamp _ _ _ _ => some 5
  | .rput _ _ _ _ => some 5
  | .rtake _ _ _ => some 5
  | .arrive _ _ _ => some 5
  | .await _ _ _ _ => some 5
  | .expect _ _ _ => some 5
  | .cwr _ _ _ => some 5
  | .waitw _ _ _ => some 5
  | .phcfgCreate _ _ _ _ => some 5
  | .phcfgDestroy _ _ _ _ => some 5
  | .phq _ _ _ _ => some 5
  | .post _ _ _ _ _ _ _ => some 6
  | .accept _ _ _ => some 6
  | .pshare _ _ _ _ _ => some 6
  | .opclass _ _ _ _ => some 6
  | .cwait _ _ _ _ _ => some 6
  | .bleft _ _ => some 6
  | .preempt _ _ _ _ => some 6
  | .preemptResume _ _ _ _ => some 6
  | .pquery _ _ _ => some 6
  | .mmul _ _ _ _ _ _ => some 7
  | .bfill _ _ _ _ _ => some 7
  | .azero _ _ _ => some 7
  | .aread _ _ _ _ _ _ _ => some 7
  | .aepi _ _ _ _ _ => some 7
  | .rqt _ _ _ _ => some 7
  | .mattn _ _ _ _ _ _ => some 7
  | .aalloc _ _ _ _ => some 7
  | .mstat _ _ _ => some 7
  | .topk _ _ _ _ _ => some 8
  | .selm _ _ _ _ _ => some 8
  | .sdraw _ _ _ _ _ _ _ _ => some 8
  | .hook _ _ _ => some 8
  | .hist _ _ _ _ _ => some 8
  | .fork _ _ _ => some 9
  | .seal _ _ _ _ => some 9
  | .shred _ _ _ _ => some 9
  | .abrt _ _ _ => some 9
  | .frq _ _ _ => some 9
  | .tsq _ _ => some 9
  | .decl _ _ _ => some 9
  | .edges _ _ => some 9
  | .verq _ _ _ => some 9
  | .dtload _ _ _ _ _ => some 10
  | .dtnode _ _ _ => some 10
  | .dtclr _ _ _ _ => some 10
  | .dtmask _ _ _ => some 10
  | .dtpos _ _ _ => some 10
  | .dtacc _ _ _ _ => some 10
  | .redact _ _ _ => some 10
  | .kvx _ _ _ _ _ _ => some 10
  | .kvfork _ _ _ => some 10
  | .kvapp _ _ _ => some 10
  | .kvalloc _ _ _ => some 10
  | .kvallocInit _ _ _ => some 10
  | .kvfree _ _ _ => some 10
  | .pcatt _ _ _ => some 10
  | .pcattIns _ _ _ => some 10
  | .pcevict _ _ _ => some 10
  | .bltabCreate _ _ _ => some 10
  | .bltabDestroy _ _ _ => some 10
  | .bltabRead _ _ _ => some 10
  | .kvsurvGet _ _ _ => some 10
  | .kvsurvClr _ _ _ => some 10
  | .kvsurvSet _ _ _ => some 10
  | .fld _ _ _ _ _ => some 11
  | .fst _ _ _ _ _ => some 11
  | .frmw _ _ _ _ _ _ _ => some 11
  | .fstm _ _ _ => some 11
  | .fldr _ _ _ => some 11
  | .fexpGrant _ _ _ _ => some 11
  | .fexpRevoke _ _ _ _ => some 11
  | .fexpGroup _ _ _ _ => some 11
  | .fexpQuery _ _ _ _ => some 11
  | .bkpt _ _ => some 12
  | .trc _ _ _ => some 12
  | .ctrr _ _ _ _ => some 12
  | .wpset _ _ _ _ => some 12
  | .errq _ _ _ => some 12
  | .pwrq _ _ _ => some 12
  | .featq _ _ _ => some 12
  | .idq _ _ _ => some 12
  | .contextFault _ => none
  | .fabricResponse _ _ => none
  | .groupFormation _ _ => none
  | .waitRelease _ _ => none
  | .trapEntry _ _ => none
  | .commandAcceptance _ => none
  | .engineStep _ => none
  | .commandCompletion _ => none
  | .deadLetterPost _ => none
  | .lateDelivery _ => none
  | .irrevocableStepResume _ => none
  | .globalWritePerform _ => none
  | .leaseExpiry _ _ => none
  | .bankSwitchComplete _ _ => none
  | .fencePass _ _ => none
  | .frameService _ _ => none
  | .serviceEnd _ _ => none
  | .publicationPerform _ => none
  | .heldPartialMerge _ => none
  | .partialResend _ => none
  | .phActServed _ => none
  | .courierFill _ => none
  | .spillModeEntry _ _ _ => none
  | .spillMove _ _ _ => none
  | .deadlock _ => none
  | .recordTake => none
  | .teamStart _ => none
  | .startOrderBlock _ => none
  | .teamEnd _ => none
  | .gridRetire _ => none
  | .shareRecompute => none
  | .switchBegin _ => none
  | .switchComplete _ => none
  | .budgetOverrun _ => none
  | .preemption _ => none
  | .saveComplete _ => none
  | .teamResume _ => none
  | .holdRelease _ => none
  | .taskCommit _ => none
  | .versionFold _ => none
  | .taskRelaunch _ => none
  | .frontierUpdate _ _ => none
  | .parkTakeUp _ => none
  | .versionSpaceAbort _ => none
  | .ingressRequest _ _ => none
  | .requestAbsent _ => none
  | .peerRouteChange _ _ _ _ => none
  | .foldNotice _ _ => none
  | .discardNotice _ _ => none
  | .retagNotice _ _ _ => none
  | .postbagWrite => none
  | .counterClear _ _ => none
  | .halt _ _ => none
  | .resume _ _ => none
  | .step _ _ => none
  | .debugRead _ _ => none
  | .debugWrite _ _ => none
  | .readpc _ _ => none
  | .wset _ _ _ => none
  | .query _ _ => none
  | .grant _ _ => none
  | .revoke _ _ => none
  | .claim _ => none
  | .handover _ _ => none
  | .take _ => none
  | .read _ _ _ _ => none
  | .write _ _ _ => none
  | .idkey _ => none
  | .attest _ _ => none
  | .reset _ => none
  | .masterDetach _ => none
  | .registerWrite _ _ _ => none
  | .sqctlWrite _ _ _ => none
  | .sqtailDoorbell _ _ _ => none
  | .partitionTableWrite _ _ _ => none
  | .feataccWrite _ _ _ => none
  | .classWrite _ _ => none
  | .create _ _ => none
  | .destroy _ _ => none
  | .kill _ _ => none
  | .restart _ _ => none
  | .shootdown _ _ => none
  | .preqPreempt _ _ => none
  | .preqResume _ _ => none
  | .bootgo _ _ => none
  | .pbctlWrite _ _ => none
  | .pbgetWrite _ _ => none
  | .thermal _ _ => none
  | .softError _ _ _ => none
  | .masterAttach _ => none
  | .temperatureFall _ _ => none

/-- A word is well formed when every operand code may stand in its position (R47, R49) and every setting is listed (R50).
An event is well formed. -/
def Instr.wf (i : Instr) : Bool := i.uses.all OpUse.ok && i.listed

end Sys2Proof
end

