-- ==== Sys2Proof/Decode.lean ====
section
/-! DEFINITION. Decode.lean: the formats of a 64-bit instruction word (R44), the decoder, total and rejecting by name, and the
encoder, both written from the encoding tables of the chapters. -/

namespace Sys2Proof

/-- Why a word is no instruction (R55). -/
inductive Reject
  | clazz     -- class 0xD, 0xE or 0xF
  | opcode    -- a reserved major opcode
  | function  -- a function that is not listed
  | modifier  -- a modifier, engine-field bit or type that is not listed
  | ebit      -- E not as R46 requires
  | field     -- an unused operand field or trap-if-empty bit that is not zero
  | operand   -- an operand code not allowed in its position, or a setting R50 excludes
deriving DecidableEq, Repr

/-- The four formats (R44). -/
inductive Fmt | R | I | J | P
deriving DecidableEq, Repr

/-- The fields that every format has in common: bits [63:40], B, A, D, E, guard and major opcode (R44). -/
structure Raw where
  hi : BitVec 24
  b : Code
  a : Code
  d : Code
  e : Bool
  g : Guard
  op : BitVec 8
deriving DecidableEq, Repr

/-- Reads the fields of a word (R44). -/
def Raw.unpack (w : DWord) : Raw :=
  { hi := w.extractLsb' 40 24, b := w.extractLsb' 32 8, a := w.extractLsb' 24 8, d := w.extractLsb' 16 8,
    e := w.getLsbD 15, g := ⟨w.getLsbD 14, w.extractLsb' 8 6⟩, op := w.extractLsb' 0 8 }

/-- Lays the fields of a word out (R44). -/
def Raw.pack (r : Raw) : DWord :=
  (r.hi ++ r.b ++ r.a ++ r.d ++ BitVec.ofBool r.e ++ BitVec.ofBool r.g.neg ++ r.g.p ++ r.op).cast (by decide)

/-- Function field of format R, bits [63:56]. -/
def Raw.fn (r : Raw) : BitVec 8 := r.hi.extractLsb' 16 8
/-- Modifier field of format R, bits [55:51]. -/
def Raw.md (r : Raw) : BitVec 5 := r.hi.extractLsb' 11 5
/-- C field of format R, bits [47:40]. -/
def Raw.c (r : Raw) : Code := r.hi.extractLsb' 0 8
/-- Trap-if-empty bits, [48] of A, [49] of B and [50] of C (R49). -/
def Raw.srcA (r : Raw) : Src := ⟨r.a, r.hi.getLsbD 8⟩
def Raw.srcB (r : Raw) : Src := ⟨r.b, r.hi.getLsbD 9⟩
def Raw.srcC (r : Raw) : Src := ⟨r.c, r.hi.getLsbD 10⟩
/-- The immediate of format I, bits [63:32]. -/
def Raw.imm (r : Raw) : Word := (r.hi ++ r.b).cast (by decide)
/-- The offset of format J, bits [63:24]. -/
def Raw.off (r : Raw) : BitVec 40 := (r.hi ++ r.b ++ r.a).cast (by decide)

/-! ### The listed values of the modifier fields -/

def ICmp.bits : ICmp → BitVec 3 | .eq => 0 | .ne => 1 | .lt => 2 | .le => 3 | .gt => 4 | .ge => 5
def ICmp.ofBits (v : BitVec 3) : Option ICmp :=
  match v.toNat with | 0 => some .eq | 1 => some .ne | 2 => some .lt | 3 => some .le | 4 => some .gt | 5 => some .ge | _ => none

def GMode.bits : GMode → BitVec 2 | .ballot => 0 | .slot => 1 | .lid => 2
def GMode.ofBits (v : BitVec 2) : Option GMode :=
  match v.toNat with | 0 => some .ballot | 1 => some .slot | 2 => some .lid | _ => none

def SMode.bits : SMode → BitVec 2 | .idx => 0 | .up => 1 | .down => 2 | .xor => 3
def SMode.ofBits (v : BitVec 2) : Option SMode :=
  match v.toNat with | 0 => some .idx | 1 => some .up | 2 => some .down | _ => some .xor

def RMode.bits : RMode → BitVec 3 | .rn => 0 | .rz => 1 | .rd => 2 | .ru => 3
/-- RM has two bits in most forms and three in fcvt, where 4 to 7 are not listed (R119). -/
def RMode.ofBits {n : Nat} (v : BitVec n) : Option RMode :=
  match v.toNat with | 0 => some .rn | 1 => some .rz | 2 => some .rd | 3 => some .ru | _ => none

def PkT.bits : PkT → BitVec 1 | .f16 => 0 | .bf16 => 1
def PkT.ofBits (v : BitVec 1) : Option PkT := match v.toNat with | 0 => some .f16 | _ => some .bf16

def CmT.bits : CmT → BitVec 2 | .f32 => 0 | .f16 => 1 | .bf16 => 2
def CmT.ofBits (v : BitVec 2) : Option CmT :=
  match v.toNat with | 0 => some .f32 | 1 => some .f16 | 2 => some .bf16 | _ => none

def NarT.bits : NarT → BitVec 3
  | .f16 => 0 | .bf16 => 1 | .e4m3 => 2 | .e5m2 => 3 | .e3m2 => 4 | .e2m3 => 5 | .e2m1 => 6
def NarT.ofBits (v : BitVec 3) : Option NarT :=
  match v.toNat with
  | 0 => some .f16 | 1 => some .bf16 | 2 => some .e4m3 | 3 => some .e5m2 | 4 => some .e3m2 | 5 => some .e2m3
  | 6 => some .e2m1 | _ => none

def FCmp.bits : FCmp → BitVec 3
  | .eq => 0 | .ne => 1 | .lt => 2 | .le => 3 | .gt => 4 | .ge => 5 | .nan => 6 | .num => 7
def FCmp.ofBits (v : BitVec 3) : Option FCmp :=
  match v.toNat with
  | 0 => some .eq | 1 => some .ne | 2 => some .lt | 3 => some .le | 4 => some .gt | 5 => some .ge | 6 => some .nan
  | _ => some .num

def CvKind.bits : CvKind → BitVec 2 | .i32f32 => 0 | .n32f32 => 1 | .f32i32 => 2 | .f32n32 => 3
def CvKind.ofBits (v : BitVec 2) : Option CvKind :=
  match v.toNat with | 0 => some .i32f32 | 1 => some .n32f32 | 2 => some .f32i32 | _ => some .f32n32

def ROut.bits : ROut → BitVec 2 | .raw => 0 | .co => 1 | .oc => 2
def ROut.ofBits (v : BitVec 2) : Option ROut :=
  match v.toNat with | 0 => some .raw | 1 => some .co | 2 => some .oc | _ => none

def Sz.bits : Sz → BitVec 3 | .b8 => 0 | .b16 => 1 | .b32 => 2 | .b64 => 3 | .i8 => 4 | .i16 => 5
def Sz.ofBits (v : BitVec 3) : Option Sz :=
  match v.toNat with
  | 0 => some .b8 | 1 => some .b16 | 2 => some .b32 | 3 => some .b64 | 4 => some .i8 | 5 => some .i16 | _ => none

def Hint.bits : Hint → BitVec 2 | .dflt => 0 | .fresh => 1 | .stream => 2
def Hint.ofBits (v : BitVec 2) : Option Hint :=
  match v.toNat with | 0 => some .dflt | 1 => some .fresh | 2 => some .stream | _ => none

def Ty.bits : Ty → BitVec 3
  | .b32 => 0 | .i32 => 1 | .n32 => 2 | .b64 => 3 | .i64 => 4 | .n64 => 5 | .f32 => 6
def Ty.ofBits (v : BitVec 3) : Option Ty :=
  match v.toNat with
  | 0 => some .b32 | 1 => some .i32 | 2 => some .n32 | 3 => some .b64 | 4 => some .i64 | 5 => some .n64 | 6 => some .f32
  | _ => none

/-- The function codes of R53. -/
def AFn.bits8 : AFn → BitVec 8
  | .add => 0 | .min => 1 | .max => 2 | .and => 3 | .or => 4 | .xor => 5 | .exch => 6 | .cas => 7 | .fadd => 8
def AFn.ofBits (v : BitVec 8) : Option AFn :=
  match v.toNat with
  | 0 => some .add | 1 => some .min | 2 => some .max | 3 => some .and | 4 => some .or | 5 => some .xor
  | 6 => some .exch | 7 => some .cas | 8 => some .fadd | _ => none

def Scope.bits : Scope → BitVec 3 | .team => 0 | .cluster => 1 | .die => 2 | .package => 3 | .fabric => 4
def Scope.ofBits (v : BitVec 3) : Option Scope :=
  match v.toNat with
  | 0 => some .team | 1 => some .cluster | 2 => some .die | 3 => some .package | 4 => some .fabric | _ => none

def BMode.bits : BMode → BitVec 2 | .cache => 0 | .pad => 1 | .fifo => 2
def BMode.ofBits (v : BitVec 2) : Option BMode :=
  match v.toNat with | 0 => some .cache | 1 => some .pad | 2 => some .fifo | _ => none

def LLen.bits : LLen → BitVec 3
  | .l64 => 0 | .l128 => 1 | .l256 => 2 | .l512 => 3 | .l1024 => 4 | .l2048 => 5 | .l4096 => 6
def LLen.ofBits (v : BitVec 3) : Option LLen :=
  match v.toNat with
  | 0 => some .l64 | 1 => some .l128 | 2 => some .l256 | 3 => some .l512 | 4 => some .l1024 | 5 => some .l2048
  | 6 => some .l4096 | _ => none

def Lvl.bits : Lvl → BitVec 2 | .l1 => 0 | .l2 => 1
def Lvl.ofBits (v : BitVec 2) : Option Lvl := match v.toNat with | 0 => some .l1 | 1 => some .l2 | _ => none

def FrOp.bits : FrOp → BitVec 4
  | .add => 0 | .smin => 1 | .smax => 2 | .umin => 3 | .umax => 4 | .and => 5 | .or => 6 | .xor => 7 | .exch => 8
  | .cas => 9 | .fadd => 10
def FrOp.ofBits (v : BitVec 4) : Option FrOp :=
  match v.toNat with
  | 0 => some .add | 1 => some .smin | 2 => some .smax | 3 => some .umin | 4 => some .umax | 5 => some .and
  | 6 => some .or | 7 => some .xor | 8 => some .exch | 9 => some .cas | 10 => some .fadd | _ => none

def FrqSel.bits : FrqSel → BitVec 2 | .pm => 0 | .seq => 1 | .atF => 2
def FrqSel.ofBits (v : BitVec 2) : Option FrqSel :=
  match v.toNat with | 0 => some .pm | 1 => some .seq | 2 => some .atF | _ => none

def CtrMode.bits : CtrMode → BitVec 2 | .live => 0 | .snap => 1 | .latch => 2
def CtrMode.ofBits (v : BitVec 2) : Option CtrMode :=
  match v.toNat with | 0 => some .live | 1 => some .snap | 2 => some .latch | _ => none

/-! ### The checks that every form of a format shares -/

/-- How a form uses the C field: an operand, an immediate offset (R133), or not at all. -/
inductive CUse | opnd | imm | none
deriving DecidableEq, Repr

/-- The last check: the instruction is well formed. -/
def chkWf : Option Instr → Except Reject Instr
  | none => .error .modifier
  | some i => if i.wf then .ok i else .error .operand

/-- Format R: E as R46 requires, no modifier bit outside the form's mask, unused operand fields and trap-if-empty bits zero. -/
def chkR (r : Raw) (late : Bool) (mask : Nat) (ud ua ub : Bool) (uc : CUse) (i : Option Instr) : Except Reject Instr :=
  if r.e != late then .error .ebit
  else if (r.md &&& ~~~(BitVec.ofNat 5 mask)) != 0 then .error .modifier
  else if (!ud && r.d != 0) || (!ua && r.srcA != ⟨0, false⟩) || (!ub && r.srcB != ⟨0, false⟩)
      || (uc == .none && r.c != 0) || (uc != .opnd && r.hi.getLsbD 10) then .error .field
  else chkWf i

/-- Format P: E = 1 (R14, R46), no engine-field bit outside the form's mask and fixed value, B = 224 where the form takes none. -/
def chkP (r : Raw) (mask fix : Nat) (ub : Bool) (i : Option Instr) : Except Reject Instr :=
  if !r.e then .error .ebit
  else if (r.hi &&& ~~~(BitVec.ofNat 24 mask)) != BitVec.ofNat 24 fix then .error .modifier
  else if !ub && r.b != 224 then .error .field
  else chkWf i

/-- Format I: E = 0; the A of movi is 0 (R93). -/
def chkI (r : Raw) (ua : Bool) (i : Option Instr) : Except Reject Instr :=
  if r.e then .error .ebit else if !ua && r.a != 0 then .error .field else chkWf i

/-- Format J: E = 0. -/
def chkJ (r : Raw) (i : Option Instr) : Except Reject Instr :=
  if r.e then .error .ebit else chkWf i

/-! ### Laying fields out -/

/-- One bit at a position of a field of `n` bits. -/
def bitAt (n k : Nat) (b : Bool) : BitVec n := if b then BitVec.ofNat n (2 ^ k) else 0
/-- A value at a position of a field of `n` bits. -/
def fieldAt {m : Nat} (n k : Nat) (v : BitVec m) : BitVec n := BitVec.ofNat n (v.toNat * 2 ^ k)

/-- An operand field that a form does not use. -/
def noSrc : Src := ⟨0, false⟩
/-- The C field as an immediate. -/
def immSrc (v : BitVec 8) : Src := ⟨v, false⟩

def Raw.ofR (op fn : BitVec 8) (md : BitVec 5) (late : Bool) (g : Guard) (d : Code) (a b c : Src) : Raw :=
  { hi := (fn ++ md ++ BitVec.ofBool c.tie ++ BitVec.ofBool b.tie ++ BitVec.ofBool a.tie ++ c.code).cast (by decide),
    b := b.code, a := a.code, d := d, e := late, g := g, op := op }

def Raw.ofP (op : BitVec 8) (ef : BitVec 24) (g : Guard) (d a b : Code) : Raw :=
  { hi := ef, b := b, a := a, d := d, e := true, g := g, op := op }

def Raw.ofI (op : BitVec 8) (g : Guard) (d a : Code) (imm : Word) : Raw :=
  { hi := imm.extractLsb' 8 24, b := imm.extractLsb' 0 8, a := a, d := d, e := false, g := g, op := op }

def Raw.ofJ (op : BitVec 8) (g : Guard) (d : Code) (off : BitVec 40) : Raw :=
  { hi := off.extractLsb' 16 24, b := off.extractLsb' 8 8, a := off.extractLsb' 0 8, d := d, e := false, g := g, op := op }

/-- Reads a format R word by opcode and function (R51 to R53); no row means the function is not listed. -/
def decodeR (r : Raw) : Except Reject Instr :=
  match r.op.toNat, r.fn.toNat with
  | 0x0, 0x0 => chkR r false 3 true true true .none (some (.add r.g (r.md.getLsbD 1) (r.md.getLsbD 0) r.d r.srcA r.srcB))
  | 0x0, 0x1 => chkR r false 3 true true true .none (some (.sub r.g (r.md.getLsbD 1) (r.md.getLsbD 0) r.d r.srcA r.srcB))
  | 0x0, 0x2 => chkR r false 3 true true true .none (some (.mul r.g (r.md.getLsbD 1) (r.md.getLsbD 0) r.d r.srcA r.srcB))
  | 0x0, 0x3 => chkR r false 1 true true true .none (some (.mulh r.g (r.md.getLsbD 0) r.d r.srcA r.srcB))
  | 0x0, 0x4 => chkR r false 3 true true true .opnd (some (.mad r.g (r.md.getLsbD 1) (r.md.getLsbD 0) r.d r.srcA r.srcB r.srcC))
  | 0x0, 0x5 => chkR r false 1 true true true .none (some (.min r.g (r.md.getLsbD 0) r.d r.srcA r.srcB))
  | 0x0, 0x6 => chkR r false 1 true true true .none (some (.max r.g (r.md.getLsbD 0) r.d r.srcA r.srcB))
  | 0x0, 0x7 => chkR r false 2 true true false .none (some (.abs r.g (r.md.getLsbD 1) r.d r.srcA))
  | 0x0, 0x8 => chkR r false 2 true true false .none (some (.neg r.g (r.md.getLsbD 1) r.d r.srcA))
  | 0x1, 0x0 => chkR r false 0 true true true .none (some (.and r.g r.d r.srcA r.srcB))
  | 0x1, 0x1 => chkR r false 0 true true true .none (some (.or r.g r.d r.srcA r.srcB))
  | 0x1, 0x2 => chkR r false 0 true true true .none (some (.xor r.g r.d r.srcA r.srcB))
  | 0x1, 0x3 => chkR r false 0 true true false .none (some (.not r.g r.d r.srcA))
  | 0x1, 0x4 => chkR r false 0 true true true .none (some (.shl r.g r.d r.srcA r.srcB))
  | 0x1, 0x5 => chkR r false 1 true true true .none (some (.shr r.g (r.md.getLsbD 0) r.d r.srcA r.srcB))
  | 0x1, 0x6 => chkR r false 0 true true true .none (some (.rot r.g r.d r.srcA r.srcB))
  | 0x1, 0x7 => chkR r false 0 true true false .none (some (.popc r.g r.d r.srcA))
  | 0x1, 0x8 => chkR r false 0 true true false .none (some (.clz r.g r.d r.srcA))
  | 0x1, 0x9 => chkR r false 0 true true false .none (some (.brev r.g r.d r.srcA))
  | 0x1, 0xa => chkR r false 1 true true true .none (some (.bfe r.g (r.md.getLsbD 0) r.d r.srcA r.srcB))
  | 0x1, 0xb => chkR r false 0 true true true .opnd (some (.bfi r.g r.d r.srcA r.srcB r.srcC))
  | 0x1, 0xc => chkR r false 0 true true true .opnd (some (.bperm r.g r.d r.srcA r.srcB r.srcC))
  | 0x2, 0x0 => chkR r false 31 true true true .none (do let cmp ← ICmp.ofBits (r.md.extractLsb' 0 3); some (.icmp r.g (r.md.getLsbD 4) (r.md.getLsbD 3) cmp r.d r.srcA r.srcB))
  | 0x3, 0x0 => chkR r false 3 true true true .none (some (.pand r.g (r.md.getLsbD 1) (r.md.getLsbD 0) r.d r.srcA r.srcB))
  | 0x3, 0x1 => chkR r false 3 true true true .none (some (.por r.g (r.md.getLsbD 1) (r.md.getLsbD 0) r.d r.srcA r.srcB))
  | 0x3, 0x2 => chkR r false 3 true true true .none (some (.pxor r.g (r.md.getLsbD 1) (r.md.getLsbD 0) r.d r.srcA r.srcB))
  | 0x3, 0x3 => chkR r false 0 true true false .none (some (.pnot r.g r.d r.srcA))
  | 0x4, 0x0 => chkR r false 1 true true false .none (some (.mov r.g (r.md.getLsbD 0) r.d r.srcA))
  | 0x4, 0x1 => chkR r false 1 true true true .opnd (some (.sel r.g (r.md.getLsbD 0) r.d r.srcA r.srcB r.srcC))
  | 0x4, 0x2 => chkR r false 1 true true false .none (some (.movx r.g (r.md.getLsbD 0) r.d r.srcA))
  | 0x4, 0x3 => chkR r false 1 false true true .none (some (.movxw r.g (r.md.getLsbD 0) r.srcA r.srcB))
  | 0x4, 0x4 => chkR r false 1 true false false .none (some (.mkempty r.g (r.md.getLsbD 0) r.d))
  | 0x5, 0x0 => chkR r false 3 true true true .none (some (.add64 r.g (r.md.getLsbD 1) (r.md.getLsbD 0) r.d r.srcA r.srcB))
  | 0x5, 0x1 => chkR r false 3 true true true .none (some (.sub64 r.g (r.md.getLsbD 1) (r.md.getLsbD 0) r.d r.srcA r.srcB))
  | 0x5, 0x2 => chkR r false 15 true true true .none (some (.lea r.g (r.md.getLsbD 3) (r.md.extractLsb' 0 3) r.d r.srcA r.srcB))
  | 0x6, 0x0 => chkR r false 3 true true false .none (do let m ← GMode.ofBits (r.md.extractLsb' 0 2); some (.gmask r.g m r.d r.srcA))
  | 0x6, 0x1 => chkR r false 7 true true true .none (do let m ← SMode.ofBits (r.md.extractLsb' 0 2); some (.shfl r.g (r.md.getLsbD 2) m r.d r.srcA r.srcB))
  | 0xa, 0x0 => chkR r false 1 true true true .none (some (.brx r.g (r.md.getLsbD 0) r.d r.srcA r.srcB))
  | 0xb, 0x0 => chkR r false 0 false false false .none (some (.exit r.g))
  | 0xb, 0x1 => chkR r false 0 false true false .none (some (.trap r.g r.srcA))
  | 0xb, 0x2 => chkR r false 1 true true false .none (some (.baton r.g (r.md.getLsbD 0) r.d r.srcA))
  | 0x10, 0x0 => chkR r false 28 true true true .none (do let rm ← RMode.ofBits (r.md.extractLsb' 2 2); some (.fadd r.g (r.md.getLsbD 4) rm r.d r.srcA r.srcB))
  | 0x10, 0x1 => chkR r false 28 true true true .none (do let rm ← RMode.ofBits (r.md.extractLsb' 2 2); some (.fsub r.g (r.md.getLsbD 4) rm r.d r.srcA r.srcB))
  | 0x10, 0x2 => chkR r false 28 true true true .none (do let rm ← RMode.ofBits (r.md.extractLsb' 2 2); some (.fmul r.g (r.md.getLsbD 4) rm r.d r.srcA r.srcB))
  | 0x10, 0x3 => chkR r false 28 true true true .opnd (do let rm ← RMode.ofBits (r.md.extractLsb' 2 2); some (.ffma r.g (r.md.getLsbD 4) rm r.d r.srcA r.srcB r.srcC))
  | 0x14, 0x4 => chkR r false 28 true true true .none (do let rm ← RMode.ofBits (r.md.extractLsb' 2 2); some (.fdiv r.g (r.md.getLsbD 4) rm r.d r.srcA r.srcB))
  | 0x14, 0x5 => chkR r false 28 true true false .none (do let rm ← RMode.ofBits (r.md.extractLsb' 2 2); some (.fsqrt r.g (r.md.getLsbD 4) rm r.d r.srcA))
  | 0x10, 0x4 => chkR r false 1 true true true .none (some (.fmin r.g (r.md.getLsbD 0) r.d r.srcA r.srcB))
  | 0x10, 0x5 => chkR r false 1 true true true .none (some (.fmax r.g (r.md.getLsbD 0) r.d r.srcA r.srcB))
  | 0x10, 0x6 => chkR r false 0 true true false .none (some (.fabs r.g r.d r.srcA))
  | 0x10, 0x7 => chkR r false 0 true true false .none (some (.fneg r.g r.d r.srcA))
  | 0x11, 0x0 => chkR r false 29 true true true .none (do let rm ← RMode.ofBits (r.md.extractLsb' 2 2); let t ← PkT.ofBits (r.md.extractLsb' 0 1); some (.fadd2 r.g (r.md.getLsbD 4) rm t r.d r.srcA r.srcB))
  | 0x11, 0x1 => chkR r false 29 true true true .none (do let rm ← RMode.ofBits (r.md.extractLsb' 2 2); let t ← PkT.ofBits (r.md.extractLsb' 0 1); some (.fmul2 r.g (r.md.getLsbD 4) rm t r.d r.srcA r.srcB))
  | 0x11, 0x2 => chkR r false 29 true true true .opnd (do let rm ← RMode.ofBits (r.md.extractLsb' 2 2); let t ← PkT.ofBits (r.md.extractLsb' 0 1); some (.ffma2 r.g (r.md.getLsbD 4) rm t r.d r.srcA r.srcB r.srcC))
  | 0x12, 0x0 => chkR r false 31 true true true .none (do let cmp ← FCmp.ofBits (r.md.extractLsb' 2 3); let t ← CmT.ofBits (r.md.extractLsb' 0 2); some (.fcmp r.g cmp t r.d r.srcA r.srcB))
  | 0x13, 0x0 => chkR r false 31 true true false .none (do let rm ← RMode.ofBits (r.md.extractLsb' 2 3); let k ← CvKind.ofBits (r.md.extractLsb' 0 2); some (.fcvt r.g rm k r.d r.srcA))
  | 0x13, 0x1 => chkR r false 31 true true true .opnd (do let t ← NarT.ofBits (r.md.extractLsb' 2 3); some (.fpack r.g t (r.md.getLsbD 1) (r.md.getLsbD 0) r.d r.srcA r.srcB r.srcC))
  | 0x13, 0x2 => chkR r false 30 true true true .opnd (do let t ← NarT.ofBits (r.md.extractLsb' 2 3); some (.funpk r.g t (r.md.getLsbD 1) r.d r.srcA r.srcB r.srcC))
  | 0x14, 0x0 => chkR r false 28 true true false .none (do let rm ← RMode.ofBits (r.md.extractLsb' 2 2); some (.fex2 r.g (r.md.getLsbD 4) rm r.d r.srcA))
  | 0x14, 0x1 => chkR r false 28 true true false .none (do let rm ← RMode.ofBits (r.md.extractLsb' 2 2); some (.flg2 r.g (r.md.getLsbD 4) rm r.d r.srcA))
  | 0x14, 0x2 => chkR r false 16 true true false .none (some (.frcp r.g (r.md.getLsbD 4) r.d r.srcA))
  | 0x14, 0x3 => chkR r false 16 true true false .none (some (.frsq r.g (r.md.getLsbD 4) r.d r.srcA))
  | 0x15, 0x0 => chkR r false 3 true true true .opnd (do let out ← ROut.ofBits (r.md.extractLsb' 0 2); some (.rnd r.g out r.d r.srcA r.srcB r.srcC))
  | 0x20, 0x0 => chkR r true 31 true true false .imm (do let h ← Hint.ofBits (r.md.extractLsb' 3 2); let sz ← Sz.ofBits (r.md.extractLsb' 0 3); some (.ld r.g h sz r.d r.srcA r.c))
  | 0x21, 0x0 => chkR r false 15 false true true .imm (do let sz ← Sz.ofBits (r.md.extractLsb' 0 3); some (.st r.g (r.md.getLsbD 3) sz r.srcA r.srcB r.c))
  | 0x22, 0x0 => chkR r true 7 true true false .imm (do let sz ← Sz.ofBits (r.md.extractLsb' 0 3); some (.pld r.g sz r.d r.srcA r.c))
  | 0x23, 0x0 => chkR r false 7 false true true .imm (do let sz ← Sz.ofBits (r.md.extractLsb' 0 3); some (.pst r.g sz r.srcA r.srcB r.c))
  | 0x24, 0x0 => chkR r false 31 false true true .none (some (.ldp r.g (r.md.extractLsb' 0 5) r.srcA r.srcB))
  | 0x25, _ => chkR r true 7 true true true .imm (do let fn ← AFn.ofBits r.fn; let ty ← Ty.ofBits (r.md.extractLsb' 0 3); some (.rmw r.g fn ty r.d r.srcA r.srcB r.c))
  | 0x26, _ => chkR r true 7 true true true .imm (do let fn ← AFn.ofBits r.fn; let ty ← Ty.ofBits (r.md.extractLsb' 0 3); some (.prmw r.g fn ty r.d r.srcA r.srcB r.c))
  | 0x27, _ => chkR r false 7 false true true .imm (do let fn ← AFn.ofBits r.fn; let ty ← Ty.ofBits (r.md.extractLsb' 0 3); some (.red r.g fn ty r.srcA r.srcB r.c))
  | 0x28, 0x0 => chkR r false 7 false false false .none (do let sc ← Scope.ofBits (r.md.extractLsb' 0 3); some (.fence r.g sc))
  | 0x28, 0x1 => chkR r false 0 false false false .none (some (.fenceLd r.g))
  | 0x29, 0x0 => chkR r false 3 false true true .none (do let m ← BMode.ofBits (r.md.extractLsb' 0 2); some (.bank r.g m r.srcA r.srcB))
  | 0x2a, 0x0 => chkR r false 0 true true false .none (some (.bankq r.g r.d r.srcA))
  | 0x2b, 0x0 => chkR r false 7 false false false .none (do let len ← LLen.ofBits (r.md.extractLsb' 0 3); some (.lease r.g len))
  | 0x2c, 0x0 => chkR r false 24 false true false .imm (do let lvl ← Lvl.ofBits (r.md.extractLsb' 3 2); some (.pref r.g lvl r.srcA r.c))
  | 0x2d, 0x0 => chkR r false 0 false true true .none (some (.qpush r.g r.srcA r.srcB))
  | 0x2e, 0x0 => chkR r true 0 true true false .none (some (.qpop r.g r.d r.srcA))
  | 0x30, 0x0 => chkR r false 1 true true false .none (some (.psnt r.g (r.md.getLsbD 0) r.d r.srcA))
  | 0x31, 0x0 => chkR r false 1 true false false .none (some (.psnc r.g (r.md.getLsbD 0) r.d))
  | 0x32, 0x0 => chkR r true 3 true true false .none (some (.xlq r.g (r.md.getLsbD 1) (r.md.getLsbD 0) r.d r.srcA))
  | 0x33, 0x0 => chkR r true 0 true true false .none (some (.tagr r.g r.d r.srcA))
  | 0x34, 0x0 => chkR r false 0 false true true .none (some (.tagw r.g r.srcA r.srcB))
  | 0x50, 0x0 => chkR r false 3 false true true .none (some (.push r.g (r.md.getLsbD 1) (r.md.getLsbD 0) r.srcA r.srcB))
  | 0x51, 0x0 => chkR r true 1 true true false .none (some (.pop r.g (r.md.getLsbD 0) r.d r.srcA))
  | 0x52, 0x0 => chkR r true 0 true true false .none (some (.poll r.g r.d r.srcA))
  | 0x53, 0x0 => chkR r true 0 true true true .none (some (.stamp r.g r.d r.srcA r.srcB))
  | 0x54, 0x0 => chkR r false 0 false true true .opnd (some (.rput r.g r.srcA r.srcB r.srcC))
  | 0x55, 0x0 => chkR r true 0 true true false .none (some (.rtake r.g r.d r.srcA))
  | 0x56, 0x0 => chkR r false 0 false true true .none (some (.arrive r.g r.srcA r.srcB))
  | 0x57, 0x0 => chkR r true 0 true true true .none (some (.await r.g r.d r.srcA r.srcB))
  | 0x58, 0x0 => chkR r false 0 false true true .none (some (.expect r.g r.srcA r.srcB))
  | 0x59, 0x0 => chkR r false 0 false true true .none (some (.cwr r.g r.srcA r.srcB))
  | 0x5a, 0x0 => chkR r false 0 false true true .none (some (.waitw r.g r.srcA r.srcB))
  | 0x61, 0x0 => chkR r false 0 false true true .none (some (.accept r.g r.srcA r.srcB))
  | 0x65, 0x0 => chkR r false 0 true false false .none (some (.bleft r.g r.d))
  | 0x93, 0x0 => chkR r false 1 false true false .none (some (.abrt r.g (r.md.getLsbD 0) r.srcA))
  | 0x94, 0x0 => chkR r false 3 true false false .none (do let which ← FrqSel.ofBits (r.md.extractLsb' 0 2); some (.frq r.g which r.d))
  | 0x95, 0x0 => chkR r false 0 true false false .none (some (.tsq r.g r.d))
  | 0x97, 0x0 => chkR r false 0 true false false .none (some (.edges r.g r.d))
  | 0xa7, 0x0 => chkR r true 1 true true true .opnd (some (.kvx r.g (r.md.getLsbD 0) r.d r.srcA r.srcB r.srcC))
  | 0xb0, 0x0 => chkR r true 7 true true false .imm (do let sz ← Sz.ofBits (r.md.extractLsb' 0 3); some (.fld r.g sz r.d r.srcA r.c))
  | 0xb1, 0x0 => chkR r false 7 false true true .imm (do let sz ← Sz.ofBits (r.md.extractLsb' 0 3); some (.fst r.g sz r.srcA r.srcB r.c))
  | 0xb2, 0x0 => chkR r true 31 true true true .imm (do let fop ← FrOp.ofBits (r.md.extractLsb' 1 4); some (.frmw r.g fop (r.md.getLsbD 0) r.d r.srcA r.srcB r.c))
  | 0xc0, 0x0 => chkR r false 0 false true false .none (some (.bkpt r.g r.srcA))
  | 0xc1, 0x0 => chkR r false 0 false true true .none (some (.trc r.g r.srcA r.srcB))
  | 0xc2, 0x0 => chkR r true 3 true true false .none (do let m ← CtrMode.ofBits (r.md.extractLsb' 0 2); some (.ctrr r.g m r.d r.srcA))
  | 0xc6, 0x0 => chkR r false 0 true true false .none (some (.featq r.g r.d r.srcA))
  | _, _ => .error .function

/-- Reads a format P word by opcode; forms that share an opcode differ in the low bits of the engine field. -/
def decodeP (r : Raw) : Except Reject Instr :=
  match r.op.toNat with
  | 0x40 => chkP r 23 0 false (some (.copy r.g (r.hi.getLsbD 4) (r.hi.getLsbD 2) (r.hi.getLsbD 1) (r.hi.getLsbD 0) r.d r.a))
  | 0x41 => chkP r 22 0 true (some (.fill r.g (r.hi.getLsbD 4) (r.hi.getLsbD 2) (r.hi.getLsbD 1) r.d r.a r.b))
  | 0x42 => chkP r 23 0 false (some (.gath r.g (r.hi.getLsbD 4) (r.hi.getLsbD 2) (r.hi.getLsbD 1) (r.hi.getLsbD 0) r.d r.a))
  | 0x43 => chkP r 23 0 false (some (.scat r.g (r.hi.getLsbD 4) (r.hi.getLsbD 2) (r.hi.getLsbD 1) (r.hi.getLsbD 0) r.d r.a))
  | 0x44 => chkP r 23 0 false (some (.copy2d r.g (r.hi.getLsbD 4) (r.hi.getLsbD 2) (r.hi.getLsbD 1) (r.hi.getLsbD 0) r.d r.a))
  | 0x45 => chkP r 0 0 true (some (.publish r.g r.d r.a r.b))
  | 0x46 => chkP r 1 0 false (some (.smerge r.g (r.hi.getLsbD 0) r.d r.a))
  | 0x47 =>
    if r.hi = 0 then chkP r 0 0 true (some (.shadow r.g r.d r.a r.b))
    else if r.hi = 1 then chkP r 0 1 true (some (.shadowClose r.g r.d r.a r.b))
    else .error .field
  | 0x48 => chkP r 1 0 true (some (.cpq r.g (r.hi.getLsbD 0) r.d r.a r.b))
  | 0x5b =>
    if r.hi = 0 then chkP r 0 0 true (some (.phcfgCreate r.g r.d r.a r.b))
    else if r.hi = 1 then chkP r 0 1 true (some (.phcfgDestroy r.g r.d r.a r.b))
    else .error .field
  | 0x5c => chkP r 0 0 true (some (.phq r.g r.d r.a r.b))
  | 0x60 => chkP r 7 0 true (some (.post r.g (r.hi.getLsbD 2) (r.hi.getLsbD 1) (r.hi.getLsbD 0) r.d r.a r.b))
  | 0x62 => chkP r 3 0 false (some (.pshare r.g (r.hi.getLsbD 1) (r.hi.getLsbD 0) r.d r.a))
  | 0x63 => chkP r 0 0 true (some (.opclass r.g r.d r.a r.b))
  | 0x64 => chkP r 1 0 true (some (.cwait r.g (r.hi.getLsbD 0) r.d r.a r.b))
  | 0x66 =>
    if r.hi = 0 then chkP r 0 0 true (some (.preempt r.g r.d r.a r.b))
    else if r.hi = 1 then chkP r 0 1 true (some (.preemptResume r.g r.d r.a r.b))
    else .error .field
  | 0x67 => chkP r 0 0 false (some (.pquery r.g r.d r.a))
  | 0x70 => chkP r 7 0 false (some (.mmul r.g (r.hi.getLsbD 2) (r.hi.getLsbD 1) (r.hi.getLsbD 0) r.d r.a))
  | 0x71 => chkP r 3 0 false (some (.bfill r.g (r.hi.getLsbD 1) (r.hi.getLsbD 0) r.d r.a))
  | 0x72 => chkP r 0 0 false (some (.azero r.g r.d r.a))
  | 0x73 => chkP r 31 0 false (do let rm ← RMode.ofBits (r.hi.extractLsb' 0 2); some (.aread r.g (r.hi.getLsbD 4) (r.hi.getLsbD 3) (r.hi.getLsbD 2) rm r.d r.a))
  | 0x74 => chkP r 3 0 false (some (.aepi r.g (r.hi.getLsbD 1) (r.hi.getLsbD 0) r.d r.a))
  | 0x75 => chkP r 1 0 false (some (.rqt r.g (r.hi.getLsbD 0) r.d r.a))
  | 0x76 => chkP r 7 0 false (some (.mattn r.g (r.hi.getLsbD 2) (r.hi.getLsbD 1) (r.hi.getLsbD 0) r.d r.a))
  | 0x77 => chkP r 0 0 true (some (.aalloc r.g r.d r.a r.b))
  | 0x78 => chkP r 0 0 false (some (.mstat r.g r.d r.a))
  | 0x80 => chkP r 3 0 false (some (.topk r.g (r.hi.getLsbD 1) (r.hi.getLsbD 0) r.d r.a))
  | 0x81 => chkP r 3 0 false (some (.selm r.g (r.hi.getLsbD 1) (r.hi.getLsbD 0) r.d r.a))
  | 0x82 => chkP r 15 0 true (some (.sdraw r.g (r.hi.getLsbD 3) (r.hi.getLsbD 2) (r.hi.getLsbD 1) (r.hi.getLsbD 0) r.d r.a r.b))
  | 0x83 => chkP r 0 0 false (some (.hook r.g r.d r.a))
  | 0x84 => chkP r 3 0 false (some (.hist r.g (r.hi.getLsbD 1) (r.hi.getLsbD 0) r.d r.a))
  | 0x90 => chkP r 0 0 false (some (.fork r.g r.d r.a))
  | 0x91 => chkP r 0 0 true (some (.seal r.g r.d r.a r.b))
  | 0x92 => chkP r 0 0 true (some (.shred r.g r.d r.a r.b))
  | 0x96 => chkP r 0 0 false (some (.decl r.g r.d r.a))
  | 0x98 => chkP r 0 0 false (some (.verq r.g r.d r.a))
  | 0xa0 => chkP r 3 0 false (some (.dtload r.g (r.hi.getLsbD 1) (r.hi.getLsbD 0) r.d r.a))
  | 0xa1 => chkP r 0 0 false (some (.dtnode r.g r.d r.a))
  | 0xa2 => chkP r 0 0 true (some (.dtclr r.g r.d r.a r.b))
  | 0xa3 => chkP r 0 0 false (some (.dtmask r.g r.d r.a))
  | 0xa4 => chkP r 0 0 false (some (.dtpos r.g r.d r.a))
  | 0xa5 => chkP r 1 0 false (some (.dtacc r.g (r.hi.getLsbD 0) r.d r.a))
  | 0xa6 => chkP r 0 0 false (some (.redact r.g r.d r.a))
  | 0xa8 => chkP r 0 0 false (some (.kvfork r.g r.d r.a))
  | 0xa9 => chkP r 0 0 false (some (.kvapp r.g r.d r.a))
  | 0xaa =>
    if r.hi = 0 then chkP r 0 0 false (some (.kvalloc r.g r.d r.a))
    else if r.hi = 1 then chkP r 0 1 false (some (.kvallocInit r.g r.d r.a))
    else .error .field
  | 0xab => chkP r 0 0 false (some (.kvfree r.g r.d r.a))
  | 0xac =>
    if r.hi = 0 then chkP r 0 0 false (some (.pcatt r.g r.d r.a))
    else if r.hi = 1 then chkP r 0 1 false (some (.pcattIns r.g r.d r.a))
    else .error .field
  | 0xad => chkP r 0 0 false (some (.pcevict r.g r.d r.a))
  | 0xae =>
    if r.hi = 0 then chkP r 0 0 false (some (.bltabCreate r.g r.d r.a))
    else if r.hi = 1 then chkP r 0 1 false (some (.bltabDestroy r.g r.d r.a))
    else if r.hi = 2 then chkP r 0 2 false (some (.bltabRead r.g r.d r.a))
    else .error .field
  | 0xaf =>
    if r.hi = 0 then chkP r 0 0 false (some (.kvsurvGet r.g r.d r.a))
    else if r.hi = 1 then chkP r 0 1 false (some (.kvsurvClr r.g r.d r.a))
    else if r.hi = 2 then chkP r 0 2 false (some (.kvsurvSet r.g r.d r.a))
    else .error .field
  | 0xb3 => chkP r 0 0 false (some (.fstm r.g r.d r.a))
  | 0xb4 => chkP r 0 0 false (some (.fldr r.g r.d r.a))
  | 0xb5 =>
    if r.hi = 0 then chkP r 0 0 true (some (.fexpGrant r.g r.d r.a r.b))
    else if r.hi = 1 then chkP r 0 1 true (some (.fexpRevoke r.g r.d r.a r.b))
    else if r.hi = 2 then chkP r 0 2 true (some (.fexpGroup r.g r.d r.a r.b))
    else if r.hi = 3 then chkP r 0 3 true (some (.fexpQuery r.g r.d r.a r.b))
    else .error .field
  | 0xc3 => chkP r 0 0 true (some (.wpset r.g r.d r.a r.b))
  | 0xc4 => chkP r 0 0 false (some (.errq r.g r.d r.a))
  | 0xc5 => chkP r 0 0 false (some (.pwrq r.g r.d r.a))
  | 0xc7 => chkP r 0 0 false (some (.idq r.g r.d r.a))
  | _ => .error .field

/-- The format of a major opcode (R51 to R53); none for a reserved opcode. -/
def formatOf (op : Nat) : Option Fmt :=
  if op ∈ [0x0, 0x1, 0x2, 0x3, 0x4, 0x5, 0x6, 0xa, 0xb, 0x10, 0x11, 0x12, 0x13, 0x14, 0x15, 0x20, 0x21, 0x22, 0x23, 0x24, 0x25, 0x26, 0x27, 0x28, 0x29, 0x2a, 0x2b, 0x2c, 0x2d, 0x2e, 0x30, 0x31, 0x32, 0x33, 0x34, 0x50, 0x51, 0x52, 0x53, 0x54, 0x55, 0x56, 0x57, 0x58, 0x59, 0x5a, 0x61, 0x65, 0x93, 0x94, 0x95, 0x97, 0xa7, 0xb0, 0xb1, 0xb2, 0xc0, 0xc1, 0xc2, 0xc6] then some .R
  else if op ∈ [0x40, 0x41, 0x42, 0x43, 0x44, 0x45, 0x46, 0x47, 0x48, 0x5b, 0x5c, 0x60, 0x62, 0x63, 0x64, 0x66, 0x67, 0x70, 0x71, 0x72, 0x73, 0x74, 0x75, 0x76, 0x77, 0x78, 0x80, 0x81, 0x82, 0x83, 0x84, 0x90, 0x91, 0x92, 0x96, 0x98, 0xa0, 0xa1, 0xa2, 0xa3, 0xa4, 0xa5, 0xa6, 0xa8, 0xa9, 0xaa, 0xab, 0xac, 0xad, 0xae, 0xaf, 0xb3, 0xb4, 0xb5, 0xc3, 0xc4, 0xc5, 0xc7] then some .P
  else if op = 0x07 ∨ op = 0x08 then some .I
  else if op = 0x09 then some .J
  else none

/-- Decodes the fields of an instruction word, or rejects them by name; every rejection is one of the encodings of R55 that raise
illegal-clause (classes 0xD to 0xF) or illegal-instruction. -/
def decodeRaw (r : Raw) : Except Reject Instr :=
  if r.op.toNat / 16 ≥ 13 then .error .clazz
  else match formatOf r.op.toNat with
    | none => .error .opcode
    | some .R => decodeR r
    | some .P => decodeP r
    | some .I => if r.op = 0x07 then chkI r true (some (.addi r.g r.d r.a r.imm)) else chkI r false (some (.movi r.g r.d r.imm))
    | some .J => chkJ r (some (.bra r.g r.d r.off))

/-- Decodes a 64-bit instruction word. -/
def decode (w : DWord) : Except Reject Instr := decodeRaw (Raw.unpack w)

/-- The instruction of a row's word, as the host numbers its bits: bit 0 the least significant bit of the first byte.
A word of the KLN-8800 has 64 bits; bits above `nbits` are 0. -/
def decodeTableWord (nbits w : Nat) : Option Instr :=
  match decode (BitVec.ofNat 64 (w % 2 ^ nbits)) with
  | .ok i => some i
  | .error _ => none

/-- The 64-bit word of an instruction, from the encoding tables of the chapters; an event has none. -/
def encodeRaw : Instr → Option Raw
  | .add g sat u d a b => some (Raw.ofR 0x0 0 ((bitAt 5 1 sat) ||| (bitAt 5 0 u)) false g d a b noSrc)
  | .sub g sat u d a b => some (Raw.ofR 0x0 1 ((bitAt 5 1 sat) ||| (bitAt 5 0 u)) false g d a b noSrc)
  | .mul g sat u d a b => some (Raw.ofR 0x0 2 ((bitAt 5 1 sat) ||| (bitAt 5 0 u)) false g d a b noSrc)
  | .mulh g u d a b => some (Raw.ofR 0x0 3 ((bitAt 5 0 u)) false g d a b noSrc)
  | .mad g sat u d a b c => some (Raw.ofR 0x0 4 ((bitAt 5 1 sat) ||| (bitAt 5 0 u)) false g d a b c)
  | .min g u d a b => some (Raw.ofR 0x0 5 ((bitAt 5 0 u)) false g d a b noSrc)
  | .max g u d a b => some (Raw.ofR 0x0 6 ((bitAt 5 0 u)) false g d a b noSrc)
  | .abs g sat d a => some (Raw.ofR 0x0 7 ((bitAt 5 1 sat)) false g d a noSrc noSrc)
  | .neg g sat d a => some (Raw.ofR 0x0 8 ((bitAt 5 1 sat)) false g d a noSrc noSrc)
  | .and g d a b => some (Raw.ofR 0x1 0 (0) false g d a b noSrc)
  | .or g d a b => some (Raw.ofR 0x1 1 (0) false g d a b noSrc)
  | .xor g d a b => some (Raw.ofR 0x1 2 (0) false g d a b noSrc)
  | .not g d a => some (Raw.ofR 0x1 3 (0) false g d a noSrc noSrc)
  | .shl g d a b => some (Raw.ofR 0x1 4 (0) false g d a b noSrc)
  | .shr g sx d a b => some (Raw.ofR 0x1 5 ((bitAt 5 0 sx)) false g d a b noSrc)
  | .rot g d a b => some (Raw.ofR 0x1 6 (0) false g d a b noSrc)
  | .popc g d a => some (Raw.ofR 0x1 7 (0) false g d a noSrc noSrc)
  | .clz g d a => some (Raw.ofR 0x1 8 (0) false g d a noSrc noSrc)
  | .brev g d a => some (Raw.ofR 0x1 9 (0) false g d a noSrc noSrc)
  | .bfe g sx d a b => some (Raw.ofR 0x1 10 ((bitAt 5 0 sx)) false g d a b noSrc)
  | .bfi g d a b c => some (Raw.ofR 0x1 11 (0) false g d a b c)
  | .bperm g d a b c => some (Raw.ofR 0x1 12 (0) false g d a b c)
  | .icmp g w u cmp d a b => some (Raw.ofR 0x2 0 ((bitAt 5 4 w) ||| (bitAt 5 3 u) ||| (fieldAt 5 0 cmp.bits)) false g d a b noSrc)
  | .pand g nb na d a b => some (Raw.ofR 0x3 0 ((bitAt 5 1 nb) ||| (bitAt 5 0 na)) false g d a b noSrc)
  | .por g nb na d a b => some (Raw.ofR 0x3 1 ((bitAt 5 1 nb) ||| (bitAt 5 0 na)) false g d a b noSrc)
  | .pxor g nb na d a b => some (Raw.ofR 0x3 2 ((bitAt 5 1 nb) ||| (bitAt 5 0 na)) false g d a b noSrc)
  | .pnot g d a => some (Raw.ofR 0x3 3 (0) false g d a noSrc noSrc)
  | .mov g w d a => some (Raw.ofR 0x4 0 ((bitAt 5 0 w)) false g d a noSrc noSrc)
  | .sel g w d a b c => some (Raw.ofR 0x4 1 ((bitAt 5 0 w)) false g d a b c)
  | .movx g w d a => some (Raw.ofR 0x4 2 ((bitAt 5 0 w)) false g d a noSrc noSrc)
  | .movxw g w a b => some (Raw.ofR 0x4 3 ((bitAt 5 0 w)) false g 0 a b noSrc)
  | .mkempty g w d => some (Raw.ofR 0x4 4 ((bitAt 5 0 w)) false g d noSrc noSrc noSrc)
  | .add64 g sat u d a b => some (Raw.ofR 0x5 0 ((bitAt 5 1 sat) ||| (bitAt 5 0 u)) false g d a b noSrc)
  | .sub64 g sat u d a b => some (Raw.ofR 0x5 1 ((bitAt 5 1 sat) ||| (bitAt 5 0 u)) false g d a b noSrc)
  | .lea g u sh d a b => some (Raw.ofR 0x5 2 ((bitAt 5 3 u) ||| (fieldAt 5 0 sh)) false g d a b noSrc)
  | .gmask g m d a => some (Raw.ofR 0x6 0 ((fieldAt 5 0 m.bits)) false g d a noSrc noSrc)
  | .shfl g w m d a b => some (Raw.ofR 0x6 1 ((bitAt 5 2 w) ||| (fieldAt 5 0 m.bits)) false g d a b noSrc)
  | .addi g d a imm => some (Raw.ofI 0x7 g d a imm)
  | .movi g d imm => some (Raw.ofI 0x8 g d 0 imm)
  | .bra g d off => some (Raw.ofJ 0x9 g d off)
  | .brx g slot d a b => some (Raw.ofR 0xa 0 ((bitAt 5 0 slot)) false g d a b noSrc)
  | .exit g => some (Raw.ofR 0xb 0 (0) false g 0 noSrc noSrc noSrc)
  | .trap g a => some (Raw.ofR 0xb 1 (0) false g 0 a noSrc noSrc)
  | .baton g tk d a => some (Raw.ofR 0xb 2 ((bitAt 5 0 tk)) false g d a noSrc noSrc)
  | .fadd g sat rm d a b => some (Raw.ofR 0x10 0 ((bitAt 5 4 sat) ||| (fieldAt 5 2 rm.bits)) false g d a b noSrc)
  | .fsub g sat rm d a b => some (Raw.ofR 0x10 1 ((bitAt 5 4 sat) ||| (fieldAt 5 2 rm.bits)) false g d a b noSrc)
  | .fmul g sat rm d a b => some (Raw.ofR 0x10 2 ((bitAt 5 4 sat) ||| (fieldAt 5 2 rm.bits)) false g d a b noSrc)
  | .ffma g sat rm d a b c => some (Raw.ofR 0x10 3 ((bitAt 5 4 sat) ||| (fieldAt 5 2 rm.bits)) false g d a b c)
  | .fdiv g sat rm d a b => some (Raw.ofR 0x14 4 ((bitAt 5 4 sat) ||| (fieldAt 5 2 rm.bits)) false g d a b noSrc)
  | .fsqrt g sat rm d a => some (Raw.ofR 0x14 5 ((bitAt 5 4 sat) ||| (fieldAt 5 2 rm.bits)) false g d a noSrc noSrc)
  | .fmin g prop d a b => some (Raw.ofR 0x10 4 ((bitAt 5 0 prop)) false g d a b noSrc)
  | .fmax g prop d a b => some (Raw.ofR 0x10 5 ((bitAt 5 0 prop)) false g d a b noSrc)
  | .fabs g d a => some (Raw.ofR 0x10 6 (0) false g d a noSrc noSrc)
  | .fneg g d a => some (Raw.ofR 0x10 7 (0) false g d a noSrc noSrc)
  | .fadd2 g sat rm t d a b => some (Raw.ofR 0x11 0 ((bitAt 5 4 sat) ||| (fieldAt 5 2 rm.bits) ||| (fieldAt 5 0 t.bits)) false g d a b noSrc)
  | .fmul2 g sat rm t d a b => some (Raw.ofR 0x11 1 ((bitAt 5 4 sat) ||| (fieldAt 5 2 rm.bits) ||| (fieldAt 5 0 t.bits)) false g d a b noSrc)
  | .ffma2 g sat rm t d a b c => some (Raw.ofR 0x11 2 ((bitAt 5 4 sat) ||| (fieldAt 5 2 rm.bits) ||| (fieldAt 5 0 t.bits)) false g d a b c)
  | .fcmp g cmp t d a b => some (Raw.ofR 0x12 0 ((fieldAt 5 2 cmp.bits) ||| (fieldAt 5 0 t.bits)) false g d a b noSrc)
  | .fcvt g rm k d a => some (Raw.ofR 0x13 0 ((fieldAt 5 2 (rm.bits)) ||| (fieldAt 5 0 k.bits)) false g d a noSrc noSrc)
  | .fpack g t sat rs d a b c => some (Raw.ofR 0x13 1 ((fieldAt 5 2 t.bits) ||| (bitAt 5 1 sat) ||| (bitAt 5 0 rs)) false g d a b c)
  | .funpk g t sc d a b c => some (Raw.ofR 0x13 2 ((fieldAt 5 2 t.bits) ||| (bitAt 5 1 sc)) false g d a b c)
  | .fex2 g sat rm d a => some (Raw.ofR 0x14 0 ((bitAt 5 4 sat) ||| (fieldAt 5 2 rm.bits)) false g d a noSrc noSrc)
  | .flg2 g sat rm d a => some (Raw.ofR 0x14 1 ((bitAt 5 4 sat) ||| (fieldAt 5 2 rm.bits)) false g d a noSrc noSrc)
  | .frcp g sat d a => some (Raw.ofR 0x14 2 ((bitAt 5 4 sat)) false g d a noSrc noSrc)
  | .frsq g sat d a => some (Raw.ofR 0x14 3 ((bitAt 5 4 sat)) false g d a noSrc noSrc)
  | .rnd g out d a b c => some (Raw.ofR 0x15 0 ((fieldAt 5 0 out.bits)) false g d a b c)
  | .ld g h sz d a off => some (Raw.ofR 0x20 0 ((fieldAt 5 3 h.bits) ||| (fieldAt 5 0 sz.bits)) true g d a noSrc (immSrc off))
  | .st g stream sz a b off => some (Raw.ofR 0x21 0 ((bitAt 5 3 stream) ||| (fieldAt 5 0 sz.bits)) false g 0 a b (immSrc off))
  | .pld g sz d a off => some (Raw.ofR 0x22 0 ((fieldAt 5 0 sz.bits)) true g d a noSrc (immSrc off))
  | .pst g sz a b off => some (Raw.ofR 0x23 0 ((fieldAt 5 0 sz.bits)) false g 0 a b (immSrc off))
  | .ldp g pt a b => some (Raw.ofR 0x24 0 ((fieldAt 5 0 pt)) false g 0 a b noSrc)
  | .rmw g fn ty d a b off => some (Raw.ofR 0x25 fn.bits8 ((fieldAt 5 0 ty.bits)) true g d a b (immSrc off))
  | .prmw g fn ty d a b off => some (Raw.ofR 0x26 fn.bits8 ((fieldAt 5 0 ty.bits)) true g d a b (immSrc off))
  | .red g fn ty a b off => some (Raw.ofR 0x27 fn.bits8 ((fieldAt 5 0 ty.bits)) false g 0 a b (immSrc off))
  | .fence g sc => some (Raw.ofR 0x28 0 ((fieldAt 5 0 sc.bits)) false g 0 noSrc noSrc noSrc)
  | .fenceLd g => some (Raw.ofR 0x28 1 (0) false g 0 noSrc noSrc noSrc)
  | .bank g m a b => some (Raw.ofR 0x29 0 ((fieldAt 5 0 m.bits)) false g 0 a b noSrc)
  | .bankq g d a => some (Raw.ofR 0x2a 0 (0) false g d a noSrc noSrc)
  | .lease g len => some (Raw.ofR 0x2b 0 ((fieldAt 5 0 len.bits)) false g 0 noSrc noSrc noSrc)
  | .pref g lvl a off => some (Raw.ofR 0x2c 0 ((fieldAt 5 3 lvl.bits)) false g 0 a noSrc (immSrc off))
  | .qpush g a b => some (Raw.ofR 0x2d 0 (0) false g 0 a b noSrc)
  | .qpop g d a => some (Raw.ofR 0x2e 0 (0) true g d a noSrc noSrc)
  | .psnt g w d a => some (Raw.ofR 0x30 0 ((bitAt 5 0 w)) false g d a noSrc noSrc)
  | .psnc g w d => some (Raw.ofR 0x31 0 ((bitAt 5 0 w)) false g d noSrc noSrc noSrc)
  | .xlq g fill wr d a => some (Raw.ofR 0x32 0 ((bitAt 5 1 fill) ||| (bitAt 5 0 wr)) true g d a noSrc noSrc)
  | .tagr g d a => some (Raw.ofR 0x33 0 (0) true g d a noSrc noSrc)
  | .tagw g a b => some (Raw.ofR 0x34 0 (0) false g 0 a b noSrc)
  | .copy g stream sig dp sp d a => some (Raw.ofP 0x40 ((bitAt 24 4 stream) ||| (bitAt 24 2 sig) ||| (bitAt 24 1 dp) ||| (bitAt 24 0 sp)) g d a 224)
  | .fill g stream sig dp d a b => some (Raw.ofP 0x41 ((bitAt 24 4 stream) ||| (bitAt 24 2 sig) ||| (bitAt 24 1 dp)) g d a b)
  | .gath g stream sig dp sp d a => some (Raw.ofP 0x42 ((bitAt 24 4 stream) ||| (bitAt 24 2 sig) ||| (bitAt 24 1 dp) ||| (bitAt 24 0 sp)) g d a 224)
  | .scat g stream sig dp sp d a => some (Raw.ofP 0x43 ((bitAt 24 4 stream) ||| (bitAt 24 2 sig) ||| (bitAt 24 1 dp) ||| (bitAt 24 0 sp)) g d a 224)
  | .copy2d g stream sig dp sp d a => some (Raw.ofP 0x44 ((bitAt 24 4 stream) ||| (bitAt 24 2 sig) ||| (bitAt 24 1 dp) ||| (bitAt 24 0 sp)) g d a 224)
  | .publish g d a b => some (Raw.ofP 0x45 (0) g d a b)
  | .smerge g ord d a => some (Raw.ofP 0x46 ((bitAt 24 0 ord)) g d a 224)
  | .shadow g d a b => some (Raw.ofP 0x47 (0) g d a b)
  | .shadowClose g d a b => some (Raw.ofP 0x47 (1) g d a b)
  | .cpq g occ d a b => some (Raw.ofP 0x48 ((bitAt 24 0 occ)) g d a b)
  | .push g st w a b => some (Raw.ofR 0x50 0 ((bitAt 5 1 st) ||| (bitAt 5 0 w)) false g 0 a b noSrc)
  | .pop g w d a => some (Raw.ofR 0x51 0 ((bitAt 5 0 w)) true g d a noSrc noSrc)
  | .poll g d a => some (Raw.ofR 0x52 0 (0) true g d a noSrc noSrc)
  | .stamp g d a b => some (Raw.ofR 0x53 0 (0) true g d a b noSrc)
  | .rput g a b c => some (Raw.ofR 0x54 0 (0) false g 0 a b c)
  | .rtake g d a => some (Raw.ofR 0x55 0 (0) true g d a noSrc noSrc)
  | .arrive g a b => some (Raw.ofR 0x56 0 (0) false g 0 a b noSrc)
  | .await g d a b => some (Raw.ofR 0x57 0 (0) true g d a b noSrc)
  | .expect g a b => some (Raw.ofR 0x58 0 (0) false g 0 a b noSrc)
  | .cwr g a b => some (Raw.ofR 0x59 0 (0) false g 0 a b noSrc)
  | .waitw g a b => some (Raw.ofR 0x5a 0 (0) false g 0 a b noSrc)
  | .phcfgCreate g d a b => some (Raw.ofP 0x5b (0) g d a b)
  | .phcfgDestroy g d a b => some (Raw.ofP 0x5b (1) g d a b)
  | .phq g d a b => some (Raw.ofP 0x5c (0) g d a b)
  | .post g pmk par gx d a b => some (Raw.ofP 0x60 ((bitAt 24 2 pmk) ||| (bitAt 24 1 par) ||| (bitAt 24 0 gx)) g d a b)
  | .accept g a b => some (Raw.ofR 0x61 0 (0) false g 0 a b noSrc)
  | .pshare g keepe expert d a => some (Raw.ofP 0x62 ((bitAt 24 1 keepe) ||| (bitAt 24 0 expert)) g d a 224)
  | .opclass g d a b => some (Raw.ofP 0x63 (0) g d a b)
  | .cwait g all d a b => some (Raw.ofP 0x64 ((bitAt 24 0 all)) g d a b)
  | .bleft g d => some (Raw.ofR 0x65 0 (0) false g d noSrc noSrc noSrc)
  | .preempt g d a b => some (Raw.ofP 0x66 (0) g d a b)
  | .preemptResume g d a b => some (Raw.ofP 0x66 (1) g d a b)
  | .pquery g d a => some (Raw.ofP 0x67 (0) g d a 224)
  | .mmul g scb sca acc d a => some (Raw.ofP 0x70 ((bitAt 24 2 scb) ||| (bitAt 24 1 sca) ||| (bitAt 24 0 acc)) g d a 224)
  | .bfill g tr sp d a => some (Raw.ofP 0x71 ((bitAt 24 1 tr) ||| (bitAt 24 0 sp)) g d a 224)
  | .azero g d a => some (Raw.ofP 0x72 (0) g d a 224)
  | .aread g scl dp sat rm d a => some (Raw.ofP 0x73 ((bitAt 24 4 scl) ||| (bitAt 24 3 dp) ||| (bitAt 24 2 sat) ||| (fieldAt 24 0 rm.bits)) g d a 224)
  | .aepi g resc exp d a => some (Raw.ofP 0x74 ((bitAt 24 1 resc) ||| (bitAt 24 0 exp)) g d a 224)
  | .rqt g bd d a => some (Raw.ofP 0x75 ((bitAt 24 0 bd)) g d a 224)
  | .mattn g scb sca acc d a => some (Raw.ofP 0x76 ((bitAt 24 2 scb) ||| (bitAt 24 1 sca) ||| (bitAt 24 0 acc)) g d a 224)
  | .aalloc g d a b => some (Raw.ofP 0x77 (0) g d a b)
  | .mstat g d a => some (Raw.ofP 0x78 (0) g d a 224)
  | .topk g dp sp d a => some (Raw.ofP 0x80 ((bitAt 24 1 dp) ||| (bitAt 24 0 sp)) g d a 224)
  | .selm g dp sp d a => some (Raw.ofP 0x81 ((bitAt 24 1 dp) ||| (bitAt 24 0 sp)) g d a 224)
  | .sdraw g raw greedy dp sp d a b => some (Raw.ofP 0x82 ((bitAt 24 3 raw) ||| (bitAt 24 2 greedy) ||| (bitAt 24 1 dp) ||| (bitAt 24 0 sp)) g d a b)
  | .hook g d a => some (Raw.ofP 0x83 (0) g d a 224)
  | .hist g acc sp d a => some (Raw.ofP 0x84 ((bitAt 24 1 acc) ||| (bitAt 24 0 sp)) g d a 224)
  | .fork g d a => some (Raw.ofP 0x90 (0) g d a 224)
  | .seal g d a b => some (Raw.ofP 0x91 (0) g d a b)
  | .shred g d a b => some (Raw.ofP 0x92 (0) g d a b)
  | .abrt g kl a => some (Raw.ofR 0x93 0 ((bitAt 5 0 kl)) false g 0 a noSrc noSrc)
  | .frq g which d => some (Raw.ofR 0x94 0 ((fieldAt 5 0 which.bits)) false g d noSrc noSrc noSrc)
  | .tsq g d => some (Raw.ofR 0x95 0 (0) false g d noSrc noSrc noSrc)
  | .decl g d a => some (Raw.ofP 0x96 (0) g d a 224)
  | .edges g d => some (Raw.ofR 0x97 0 (0) false g d noSrc noSrc noSrc)
  | .verq g d a => some (Raw.ofP 0x98 (0) g d a 224)
  | .dtload g save sp d a => some (Raw.ofP 0xa0 ((bitAt 24 1 save) ||| (bitAt 24 0 sp)) g d a 224)
  | .dtnode g d a => some (Raw.ofP 0xa1 (0) g d a 224)
  | .dtclr g d a b => some (Raw.ofP 0xa2 (0) g d a b)
  | .dtmask g d a => some (Raw.ofP 0xa3 (0) g d a 224)
  | .dtpos g d a => some (Raw.ofP 0xa4 (0) g d a 224)
  | .dtacc g sp d a => some (Raw.ofP 0xa5 ((bitAt 24 0 sp)) g d a 224)
  | .redact g d a => some (Raw.ofP 0xa6 (0) g d a 224)
  | .kvx g wr d a b c => some (Raw.ofR 0xa7 0 ((bitAt 5 0 wr)) true g d a b c)
  | .kvfork g d a => some (Raw.ofP 0xa8 (0) g d a 224)
  | .kvapp g d a => some (Raw.ofP 0xa9 (0) g d a 224)
  | .kvalloc g d a => some (Raw.ofP 0xaa (0) g d a 224)
  | .kvallocInit g d a => some (Raw.ofP 0xaa (1) g d a 224)
  | .kvfree g d a => some (Raw.ofP 0xab (0) g d a 224)
  | .pcatt g d a => some (Raw.ofP 0xac (0) g d a 224)
  | .pcattIns g d a => some (Raw.ofP 0xac (1) g d a 224)
  | .pcevict g d a => some (Raw.ofP 0xad (0) g d a 224)
  | .bltabCreate g d a => some (Raw.ofP 0xae (0) g d a 224)
  | .bltabDestroy g d a => some (Raw.ofP 0xae (1) g d a 224)
  | .bltabRead g d a => some (Raw.ofP 0xae (2) g d a 224)
  | .kvsurvGet g d a => some (Raw.ofP 0xaf (0) g d a 224)
  | .kvsurvClr g d a => some (Raw.ofP 0xaf (1) g d a 224)
  | .kvsurvSet g d a => some (Raw.ofP 0xaf (2) g d a 224)
  | .fld g sz d a off => some (Raw.ofR 0xb0 0 ((fieldAt 5 0 sz.bits)) true g d a noSrc (immSrc off))
  | .fst g sz a b off => some (Raw.ofR 0xb1 0 ((fieldAt 5 0 sz.bits)) false g 0 a b (immSrc off))
  | .frmw g fop w d a b off => some (Raw.ofR 0xb2 0 ((fieldAt 5 1 fop.bits) ||| (bitAt 5 0 w)) true g d a b (immSrc off))
  | .fstm g d a => some (Raw.ofP 0xb3 (0) g d a 224)
  | .fldr g d a => some (Raw.ofP 0xb4 (0) g d a 224)
  | .fexpGrant g d a b => some (Raw.ofP 0xb5 (0) g d a b)
  | .fexpRevoke g d a b => some (Raw.ofP 0xb5 (1) g d a b)
  | .fexpGroup g d a b => some (Raw.ofP 0xb5 (2) g d a b)
  | .fexpQuery g d a b => some (Raw.ofP 0xb5 (3) g d a b)
  | .bkpt g a => some (Raw.ofR 0xc0 0 (0) false g 0 a noSrc noSrc)
  | .trc g a b => some (Raw.ofR 0xc1 0 (0) false g 0 a b noSrc)
  | .ctrr g m d a => some (Raw.ofR 0xc2 0 ((fieldAt 5 0 m.bits)) true g d a noSrc noSrc)
  | .wpset g d a b => some (Raw.ofP 0xc3 (0) g d a b)
  | .errq g d a => some (Raw.ofP 0xc4 (0) g d a 224)
  | .pwrq g d a => some (Raw.ofP 0xc5 (0) g d a 224)
  | .featq g d a => some (Raw.ofR 0xc6 0 (0) false g d a noSrc noSrc)
  | .idq g d a => some (Raw.ofP 0xc7 (0) g d a 224)
  | .contextFault _ => none
  | .fabricResponse _ _ => none
  | .groupFormation _ _ => none
  | .waitRelease _ _ => none
  | .trapEntry _ _ => none
  | .commandAcceptance _ => none
  | .engineStep _ => none
  | .commandCompletion _ => none
  | .deadLetterPost _ => none
  | .lateDelivery _ => none
  | .irrevocableStepResume _ => none
  | .globalWritePerform _ => none
  | .leaseExpiry _ _ => none
  | .bankSwitchComplete _ _ => none
  | .fencePass _ _ => none
  | .frameService _ _ => none
  | .serviceEnd _ _ => none
  | .publicationPerform _ => none
  | .heldPartialMerge _ => none
  | .partialResend _ => none
  | .phActServed _ => none
  | .courierFill _ => none
  | .spillModeEntry _ _ _ => none
  | .spillMove _ _ _ => none
  | .deadlock _ => none
  | .recordTake => none
  | .teamStart _ => none
  | .startOrderBlock _ => none
  | .teamEnd _ => none
  | .gridRetire _ => none
  | .shareRecompute => none
  | .switchBegin _ => none
  | .switchComplete _ => none
  | .budgetOverrun _ => none
  | .preemption _ => none
  | .saveComplete _ => none
  | .teamResume _ => none
  | .holdRelease _ => none
  | .taskCommit _ => none
  | .versionFold _ => none
  | .taskRelaunch _ => none
  | .frontierUpdate _ _ => none
  | .parkTakeUp _ => none
  | .versionSpaceAbort _ => none
  | .ingressRequest _ _ => none
  | .requestAbsent _ => none
  | .peerRouteChange _ _ _ _ => none
  | .foldNotice _ _ => none
  | .discardNotice _ _ => none
  | .retagNotice _ _ _ => none
  | .postbagWrite => none
  | .counterClear _ _ => none
  | .halt _ _ => none
  | .resume _ _ => none
  | .step _ _ => none
  | .debugRead _ _ => none
  | .debugWrite _ _ => none
  | .readpc _ _ => none
  | .wset _ _ _ => none
  | .query _ _ => none
  | .grant _ _ => none
  | .revoke _ _ => none
  | .claim _ => none
  | .handover _ _ => none
  | .take _ => none
  | .read _ _ _ _ => none
  | .write _ _ _ => none
  | .idkey _ => none
  | .attest _ _ => none
  | .reset _ => none
  | .masterDetach _ => none
  | .registerWrite _ _ _ => none
  | .sqctlWrite _ _ _ => none
  | .sqtailDoorbell _ _ _ => none
  | .partitionTableWrite _ _ _ => none
  | .feataccWrite _ _ _ => none
  | .classWrite _ _ => none
  | .create _ _ => none
  | .destroy _ _ => none
  | .kill _ _ => none
  | .restart _ _ => none
  | .shootdown _ _ => none
  | .preqPreempt _ _ => none
  | .preqResume _ _ => none
  | .bootgo _ _ => none
  | .pbctlWrite _ _ => none
  | .pbgetWrite _ _ => none
  | .thermal _ _ => none
  | .softError _ _ _ => none
  | .masterAttach _ => none
  | .temperatureFall _ _ => none

/-- The word that a well-formed instruction is encoded as; 0 for an event, which has no encoding. -/
def encode (i : Instr) : DWord := match encodeRaw i with
  | some r => r.pack
  | none => 0

end Sys2Proof
end

