-- ==== Sys2Proof/Machine/Operands.lean ====
section
/-! DEFINITION. Operands.lean: reading every operand form (R47, R48), the specials, empties (R20 to R22), and writing D. -/

namespace Sys2Proof.Machine

open Sys2Proof

/-! ### Where things are in the package (R1, R10) -/

def clusterOf (core : Nat) : Nat := core / 4
def dieOf (core : Nat) : Nat := core / 64

/-- Core and resident slot of a team on a core. -/
def Team.place (t : Team) : Option (Nat × Nat) :=
  match t.loc with
  | .resident c k => some (c, k)
  | .saving c k => some (c, k)
  | .saved => none

/-- The scheduler of a lane (R67). -/
def schedOf (slot lid : Nat) : Nat := (lid / 32 + slot) % 4

def State.team (s : State) (tid : Nat) : Option Team := Tab.find tid s.teams
def State.grid (s : State) (lseq : Nat) : Option Grid := Tab.find lseq s.grids
def State.task (s : State) (lseq : Nat) : Option Task := Tab.find lseq s.tasks
def State.core (s : State) (c : Nat) : Core := Tab.get {} c s.cores
def State.cluster (s : State) (c : Nat) : Cluster := Tab.get {} c s.clusters
def State.ctx (s : State) (c : Nat) : Ctx := Tab.get {} c s.ctxs

/-! ### Values -/

/-- A value of one or two registers, each with its poison bit (R20). -/
structure Val where
  lo : Word := 0
  hi : Word := 0
  pl : Bool := false
  ph : Bool := false
deriving DecidableEq, Repr, Inhabited

/-- The 64-bit value of a pair (R3, R47). -/
def Val.d (v : Val) : DWord := v.hi ++ v.lo
/-- An operand is poisoned if a register of it is. -/
def Val.poison (v : Val) : Bool := v.pl || v.ph

/-- A 32-bit value. -/
def Val.w (x : Word) (p : Bool) : Val := { lo := x, pl := p }
/-- A 64-bit value whose two registers carry one poison bit. -/
def Val.dw (x : DWord) (p : Bool) : Val := { lo := x.extractLsb' 0 32, hi := x.extractLsb' 32 32, pl := p, ph := p }

def Lane.reg (l : Lane) (n : Nat) : Reg := nth {} l.regs n

/-- A predicate; p63 reads true (R68). -/
def Lane.pred (l : Lane) (n : Nat) : Pred := if n = 63 then ⟨true, false⟩ else nth {} l.preds n

/-- The carbon of a grid's lanes: its task's, which a seal may have changed, or 0 (R30, R334, R354). -/
def State.carbonOf (s : State) (lseq : Nat) : Nat :=
  match s.task lseq with
  | some t => t.carbon
  | none => 0

/-- The postmark that pmlo and pmhi read (R48). -/
def Grid.postmark (g : Grid) : Nat := if g.lrec.pm then g.lrec.postmark else 0

/-- The value of a special in a 32-bit position (R48). -/
def special (s : State) (t : Team) (g : Grid) (lid : Nat) (l : Lane) (code : Nat) : Word :=
  let core := ((t.place).getD (0, 0)).1
  BitVec.ofNat 32 (match code with
    | 225 => 1
    | 226 => 0xFFFFFFFF
    | 227 => lid
    | 228 => l.rlid
    | 229 => l.role
    | 230 => t.tlin % g.lrec.gdx
    | 231 => t.tlin / g.lrec.gdx % g.lrec.gdy
    | 232 => t.tlin / (g.lrec.gdx * g.lrec.gdy)
    | 233 => t.tlin
    | 234 => g.lrec.gdx
    | 235 => g.lrec.gdy
    | 236 => g.lrec.gdz
    | 237 => 32 * nth 0 g.lrec.lanes32 l.role
    | 238 => core
    | 239 => clusterOf core
    | 240 => dieOf core
    | 241 => g.ctx
    | 242 => g.lrec.part
    | 243 => g.depth
    | 244 => g.postmark
    | 245 => g.postmark / 2 ^ 32
    | 246 => s.now
    | 247 => s.now / 2 ^ 32
    | 248 => g.lrec.params.toNat
    | 249 => g.lrec.params.toNat / 2 ^ 32
    | 250 => t.lseq
    | 251 => s.carbonOf t.lseq
    | 252 => t.padb
    | 253 => s.cyc
    | _ => 0)

/-- The value of a special in a 64-bit position (R47). -/
def special64 (s : State) (g : Grid) (code : Nat) : DWord :=
  BitVec.ofNat 64 (match code with
    | 244 => g.postmark
    | 246 => s.now
    | 248 => g.lrec.params.toNat
    | _ => 0)

/-- Reads an operand code in a 32-bit position (R47). -/
def read32 (s : State) (t : Team) (g : Grid) (lid : Nat) (l : Lane) (code : Nat) : Val :=
  if code < 128 then { lo := (l.reg code).v, pl := (l.reg code).poison }
  else if code < 160 then { lo := nth 0 t.scal (code - 128) }
  else if code < 224 then { lo := b2w (l.pred (code - 160)).v, pl := (l.pred (code - 160)).poison }
  else { lo := special s t g lid l code }

/-- Reads an operand code in a 64-bit position (R47). -/
def read64 (s : State) (t : Team) (g : Grid) (l : Lane) (code : Nat) : Val :=
  if code < 128 then
    { lo := (l.reg code).v, hi := (l.reg (code + 1)).v, pl := (l.reg code).poison, ph := (l.reg (code + 1)).poison }
  else if code < 160 then { lo := nth 0 t.scal (code - 128), hi := nth 0 t.scal (code - 128 + 1) }
  else Val.dw (special64 s g code) false

/-- Reads the operand in a position of a word; a position that is not read gives 0. -/
def readUse (s : State) (t : Team) (g : Grid) (lid : Nat) (l : Lane) (u : Option OpUse) : Val :=
  match u with
  | none => {}
  | some u =>
    if !u.kind.isSource then {}
    else if u.kind.wide then read64 s t g l u.code.toNat
    else read32 s t g lid l u.code.toNat

/-- The use of a position, if the word has one. -/
def useAt (p : Pos) (us : List OpUse) : Option OpUse := firstWith (fun u => u.pos == p) us

/-! ### Empties (R20 to R22) -/

def RegSt.isFull : RegSt → Bool
  | .full => true
  | .pend _ _ | .opn => false

def RegSt.isPend : RegSt → Bool
  | .pend _ _ => true
  | .full | .opn => false

/-- The registers of a source operand that are empty. -/
def emptyRegs (l : Lane) (u : OpUse) : List Nat :=
  if u.kind.isSource then u.laneRegs.filter (fun n => !(l.reg n).st.isFull) else []

/-- The registers of a destination that are owed a delivery (R21). -/
def owedRegs (l : Lane) (u : OpUse) : List Nat :=
  if u.kind.isSource then [] else u.laneRegs.filter (fun n => (l.reg n).st.isPend)

/-- The field number of a position in an info word (R100). -/
def posField : Pos → Nat
  | .D => 1 | .A => 2 | .B => 3 | .C => 4

/-! ### Writing lane registers and predicates -/

/-- A synchronous write of a lane register: full, with value and poison bit (R21). -/
def Lane.setReg (l : Lane) (n : Nat) (v : Word) (p : Bool) : Lane :=
  { l with regs := setAt l.regs n ⟨v, p, .full⟩ }

/-- A write of a predicate; a write of p63 is discarded (R47). -/
def Lane.setPred (l : Lane) (n : Nat) (v p : Bool) : Lane :=
  if n < 63 then { l with preds := setAt l.preds n ⟨v, p⟩ } else l

/-- A register or pair made empty-pending for a producer (R21). -/
def Lane.owe (l : Lane) (n : Nat) (wide : Bool) (pid : Nat) (port : Bool) : Lane :=
  let mark := fun (r : Reg) => { r with st := .pend pid port }
  { l with regs := if wide then modAt mark (modAt mark l.regs n) (n + 1) else modAt mark l.regs n }

/-- Writes a result to D for one lane: a lane register or pair, or a predicate, which takes bit 0; team scalars are written
once for the group (R78) and code 224 discards (R47). -/
def Lane.writeD (l : Lane) (code : Nat) (wide : Bool) (v : Val) : Lane :=
  if code < 128 then
    if wide then (l.setReg code v.lo v.pl).setReg (code + 1) v.hi v.ph else l.setReg code v.lo v.pl
  else if 160 ≤ code ∧ code < 224 then l.setPred (code - 160) (v.lo.getLsbD 0) v.pl
  else l

/-- Whether a code is a team scalar. -/
def isScal (code : Nat) : Bool := decide (128 ≤ code) && decide (code < 160)

/-- A delivery by producer `pid`: it fills a register only while that register is owed it (R21, R102). -/
def Lane.deliver (l : Lane) (n : Nat) (wide : Bool) (pid : Nat) (v : Val) : Lane :=
  let fill := fun (x : Word) (p : Bool) (r : Reg) =>
    match r.st with
    | .pend q _ => if q = pid then ⟨x, p, .full⟩ else r
    | .full | .opn => r
  let rs := modAt (fill v.lo v.pl) l.regs n
  { l with regs := if wide then modAt (fill v.hi v.ph) rs (n + 1) else rs }

end Sys2Proof.Machine
end

