-- ==== Sys2Proof/Machine/Ops.lean ====
section
/-! DEFINITION. Ops.lean: the named operations on teams, lanes and schedulers; dead-letter records; context faults; taking a
trap and returning from one. -/

namespace Sys2Proof.Machine

open Sys2Proof

/-- Ends a meaning: the next state, or the model's one fault if memory that is not there was touched (R475). -/
def finish (s : State) : Host.Outcome State Fault Refusal :=
  match s.bus with
  | none => .next s
  | some pa => .fault (.noMemory pa)

/-! ### Changing one part of the state -/

def State.setTeam (s : State) (tid : Nat) (t : Team) : State := { s with teams := Tab.put tid t s.teams }
def State.modTeam (s : State) (tid : Nat) (f : Team → Team) : State := { s with teams := Tab.upd f tid s.teams }
def State.modLane (s : State) (tid lid : Nat) (f : Lane → Lane) : State :=
  s.modTeam tid (fun t => { t with lanes := modAt f t.lanes lid })
def State.modGrid (s : State) (lseq : Nat) (f : Grid → Grid) : State := { s with grids := Tab.upd f lseq s.grids }
def State.modTask (s : State) (lseq : Nat) (f : Task → Task) : State := { s with tasks := Tab.upd f lseq s.tasks }
def State.modCore (s : State) (c : Nat) (f : Core → Core) : State := { s with cores := Tab.mod {} f c s.cores }
def State.modCluster (s : State) (c : Nat) (f : Cluster → Cluster) : State :=
  { s with clusters := Tab.mod {} f c s.clusters }
def State.modCtx (s : State) (c : Nat) (f : Ctx → Ctx) : State := { s with ctxs := Tab.mod {} f c s.ctxs }
def State.modSched (s : State) (c k : Nat) (f : Sched → Sched) : State :=
  s.modCore c (fun x => { x with scheds := modAt f x.scheds k })
def State.sched (s : State) (c k : Nat) : Sched := nth {} (s.core c).scheds k
def State.lane (s : State) (tid lid : Nat) : Option Lane := (s.team tid).map (fun t => nth {} t.lanes lid)

/-- A fresh number for a flight, command, team, group or waiting act, and the state that has given it out. -/
def State.fresh (s : State) : Nat × State := (s.ids, { s with ids := s.ids + 1 })

/-- A fresh free value (assumption log 2). -/
def State.freeVal (s : State) : BitVec 64 × State := (Config.freeValue s.free, { s with free := s.free + 1 })

/-- The context of a team's grid. -/
def State.ctxOf (s : State) (t : Team) : Nat := ((s.grid t.lseq).map Grid.ctx).getD 0

/-- A word of a context's descriptor (R251). -/
def Ctx.word (c : Ctx) (k : Nat) : Nat := (nth 0 c.desc k).toNat
/-- TVEC (R101, R251). -/
def Ctx.tvec (c : Ctx) : Nat := fld (c.word 2) 0 56
/-- DLQVA (R167). -/
def Ctx.dlqva (c : Ctx) : Nat := fld (c.word 1) 0 56
/-- TAGEN (R167). -/
def Ctx.tagen (c : Ctx) : Bool := bit (c.word 0) 0
/-- The physical address of the root node (R167). -/
def Ctx.root (c : Ctx) : Nat := fld (c.word 0) 15 37 * 2 ^ 15
/-- CTL (R251). -/
def Ctx.ctl (c : Ctx) : Bool := bit (c.word 5) 33

/-! ### Filing lanes (R69) -/

/-- A lane joins the bin of its key, or a free bin, or the spill list. -/
def Sched.file (x : Sched) (tid : Nat) (pc : Addr) (lid cyc : Nat) : Sched :=
  match firstWith (fun b => b.tid == tid && b.pc == pc) x.bins with
  | some _ => { x with bins := x.bins.map (fun b => if b.tid == tid && b.pc == pc then { b with lanes := b.lanes ++ [(lid, cyc)] } else b) }
  | none =>
    if x.bins.length < 32 then { x with bins := x.bins ++ [⟨tid, pc, [(lid, cyc)]⟩] }
    else { x with spill := x.spill ++ [⟨tid, pc, lid, cyc⟩] }

/-- Gives the room of emptied bins to the keys of the oldest spilled lanes, `n` times at most (R69); a lane keeps the cycle at which it was
spilled as that of its filing (assumption log 112). -/
def Sched.refill (x : Sched) : Nat → Sched
  | 0 => x
  | n + 1 =>
    match x.spill, decide (x.bins.length < 32) with
    | sp :: _, true =>
      let mine := x.spill.filter (fun e => e.tid == sp.tid && e.pc == sp.pc)
      Sched.refill { x with
        bins := x.bins ++ [⟨sp.tid, sp.pc, mine.map (fun e => (e.lid, e.cyc))⟩],
        spill := x.spill.filter (fun e => !(e.tid == sp.tid && e.pc == sp.pc)) } n
    | _, _ => x

/-- Takes lanes out of the bins and the spill list. -/
def Sched.unfile (x : Sched) (tid : Nat) (lids : List Nat) : Sched :=
  let bins := (x.bins.map (fun b => if b.tid == tid then { b with lanes := b.lanes.filter (fun e => !lids.contains e.1) } else b)).filter
    (fun b => !b.lanes.isEmpty)
  Sched.refill { x with bins := bins, spill := x.spill.filter (fun e => !(e.tid == tid && lids.contains e.lid)) } 32

/-- Takes lanes out of the active groups; their slots stay empty, and a group without lanes ends (R74). -/
def Sched.ungroup (x : Sched) (tid : Nat) (lids : List Nat) : Sched :=
  { x with groups := (x.groups.map (fun g =>
      if g.tid == tid then { g with lanes := g.lanes.filter (fun e => !lids.contains e.2) } else g)).filter (fun g => !g.lanes.isEmpty) }

/-- A lane may be in a bin or a group: nothing holds it. -/
def Lane.free (l : Lane) : Bool := !l.exited && l.halted.isNone && l.parked.isNone && l.wait.isNone

/-- Core and resident slot of a team whose lanes may issue: resident, not being saved, not waiting for an operating point, not
returned (R266, R267, R271). -/
def Team.running (t : Team) : Option (Nat × Nat) :=
  match t.loc with
  | .resident c k => if t.heldPoint || t.returned ≠ 0 then none else some (c, k)
  | .saving _ _ | .saved => none

/-- Files lanes of a team at their PCs in the current cycle, those that nothing holds. -/
def fileLanes (s : State) (tid : Nat) (lids : List Nat) : State :=
  match s.team tid with
  | none => s
  | some t =>
    match t.running with
    | none => s
    | some (c, k) =>
      (lids.filter (fun lid => (nth {} t.lanes lid).free)).foldl (fun s lid =>
        s.modSched c (schedOf k lid) (fun x => x.file tid (nth {} t.lanes lid).pc lid s.cyc)) s

/-- The BATON bit of a clause header (R37). -/
def hdrBaton (h : DWord) : Bool := h.getLsbD 15

/-- A waiting move of the baton is made once no group of the holder is inside a clause with the BATON bit (R98). -/
def batonCheck (s : State) (tid : Nat) : State :=
  match s.team tid with
  | none => s
  | some t =>
    match t.batonMove, t.place with
    | some heir, some (c, _) =>
      if (s.core c).scheds.any (fun x => x.groups.any (fun g => g.tid == tid && hdrBaton g.hdr)) then s
      else (s.modTeam tid (fun t => { t with holder := false, batonMove := none })).modTeam heir (fun t => { t with holder := true })
    | _, _ => s

/-- Takes the trap-entry groups of a team that have not issued their first word out of a scheduler: they are formed again in their order
(R103). -/
def Sched.dropEntries (x : Sched) (tid : Nat) : Sched := { x with groups := x.groups.filter (fun g => !(g.tid == tid && g.entry)) }

/-- Takes lanes out of every bin, spill list and group of their core; a move of the baton that waited for a group may then be made. Where a
lane leaves the trap-entry group of its trap, those of its team are formed anew, so that they do not stand before it when it comes back
(R76, R103). -/
def unplace (s : State) (tid : Nat) (lids : List Nat) : State :=
  match s.team tid with
  | none => s
  | some t => match t.place with
    | none => s
    | some (c, _) =>
      let drop := fun (q : Sched) => if t.traps.any (fun p => lids.contains p.lid) then q.dropEntries tid else q
      batonCheck (s.modCore c (fun x => { x with scheds := x.scheds.map (fun q => drop ((q.ungroup tid lids).unfile tid lids)) })) tid

/-- The baton pair of a team ends: it ends itself, or is pre-empted (R98). -/
def endPair (s : State) (tid : Nat) : State :=
  { s with teams := s.teams.map (fun e => if e.1 = tid ∨ e.2.partner = some tid then
      (e.1, { e.2 with partner := none, holder := false, batonMove := none }) else e) }

/-! ### Frontiers (R330) -/

/-- Keys compared on the postmark, then on the lseq (R328). -/
def keyLt (a b : Nat × Nat) : Bool := decide (a.1 < b.1) || (a.1 == b.1 && decide (a.2 < b.2))

/-- The lowest of some keys. -/
def leastKey : List (Nat × Nat) → Option (Nat × Nat)
  | [] => none
  | k :: t => match leastKey t with
    | none => some k
    | some m => if keyLt m k then some m else some k

/-- The frontier of a context (R330). -/
def State.frontier (s : State) (ctx : Nat) : Option (Nat × Nat) :=
  leastKey ((s.tasks.filter (fun e => e.2.ctx == ctx && e.2.carbon == 0 && e.2.st != .committed)).map (fun e => (e.2.postmark, e.1))
    ++ (s.carbons.filter (fun c => c.ctx == ctx && c.parent == 0)).map (fun c => (c.postmark, 0)))

/-- The frontier as a core's copy has it (R330). -/
def State.frontCopy (s : State) (core ctx : Nat) : Option (Nat × Nat) :=
  match firstWith (fun f => f.ctx == ctx) (s.core core).front with
  | some f => f.key
  | none => s.frontier ctx

/-- Whether the lanes of a grid on a core stand at the frontier; a plain grid does everywhere (R330). -/
def State.atFront (s : State) (core lseq : Nat) : Bool :=
  match s.task lseq with
  | none => true
  | some t => t.carbon == 0 && s.frontCopy core t.ctx == some (t.postmark, lseq)

/-- Whether an access of a grid is under a postmark or a carbon other than 0: SPEC of R26. -/
def State.isSpec (s : State) (lseq : Nat) : Bool := (s.task lseq).isSome

/-! ### Dead-letter queues (R184 to R189) -/

/-- The first run of `n` consecutive free records at or after the put index (R184). -/
def Dlq.run (q : Dlq) (n : Nat) : Option Nat :=
  (lowest (fun k => (upFrom 0 n).all (fun j => (Tab.find ((k + j) % 4096) q.held).isNone)) q.put 4096).map (· % 4096)

/-- Records of a context that a queue holds. -/
def Dlq.count (q : Dlq) (ctx : Nat) : Nat := (q.held.filter (fun e => e.2.1 == ctx)).length

def State.dlq (s : State) (die : Nat) : Dlq := nth {} s.dlqs die
def State.modDlq (s : State) (die : Nat) (f : Dlq → Dlq) : State := { s with dlqs := modAt f s.dlqs die }

/-- Writes a group of records from an index on. -/
def Dlq.fill (q : Dlq) (ctx k : Nat) : List (BitVec 256) → Dlq
  | [] => q
  | r :: t => Dlq.fill { q with held := Tab.put (k % 4096) (ctx, r) q.held } ctx (k + 1) t

/-- Places a record group if there is room for it and the context is below its limit (R184, R187): its index and the state. -/
def placeRecs (s : State) (die ctx : Nat) (recs : List (BitVec 256)) : Option (Nat × State) :=
  let q := s.dlq die
  if q.count ctx + recs.length ≤ 1024 then
    match q.run recs.length with
    | some k => some (k, s.modDlq die (fun q => { q.fill ctx k recs with put := (k + recs.length) % 4096 }))
    | none => none
  else none

/-- Fields of a record laid out in a number: (bit, value). -/
def recOf (fs : List (Nat × Nat)) : BitVec 256 := BitVec.ofNat 256 (sumOf (fs.map (fun f => f.2 * 2 ^ f.1)))

/-- The index that an info word or a STATE change looks for. -/
def Dlq.setField (q : Dlq) (k lo n v : Nat) : Dlq :=
  { q with held := Tab.upd (fun e => (e.1, BitVec.ofNat 256 (e.2.toNat - fld e.2.toNat lo n * 2 ^ lo + v * 2 ^ lo))) k q.held }

/-! ### Trace records -/

/-- A trace record is posted to the trace unit: 512 are held, and one more is dropped and counted (R446). `always` posts it whether
or not the context's trace is enabled (R427). -/
def postTrace (s : State) (kind ctx : Nat) (always : Bool) (r : BitVec 256) : State :=
  if s.trace.en && bit s.trace.kinds kind && (always || bit s.trace.ctxen ctx) then
    if s.trace.held.length < 512 then { s with trace := { s.trace with held := s.trace.held ++ [r], heldAt := s.trace.heldAt ++ [s.cyc] } }
    else { s with trace := { s.trace with drops := (s.trace.drops + 1) % 2 ^ 32 } }
  else s

/-- The record of a happening to a lane (R445). -/
def laneTrace (s : State) (tid lid kind : Nat) (data info : Nat) : State :=
  match s.team tid with
  | none => s
  | some t =>
    let l := nth {} t.lanes lid
    let (core, rslot) := t.place.getD (0, 0)
    let ctx := s.ctxOf t
    postTrace s kind ctx false (recOf [(192, s.now % 2 ^ 64), (136, l.h.toNat), (132, rslot), (64, data), (32, info), (25, core), (15, lid),
      (9, ctx), (8, b2n (s.isSpec t.lseq)), (4, l.slot.getD 0), (0, kind)])

/-! ### Debug responses and steps (R429, R432) -/

/-- Sends an answer to a master. -/
def answer (s : State) (m : Nat) (bytes : List Byte) : State := { s with answers := s.answers ++ [(m, bytes)] }

/-- A message of the controller: its 32-byte header with its TAG, and its payload (R454). -/
def ctlMessage (type arg tag : Nat) (payload : List Byte) : List Byte :=
  leBytes 32 (recOf [(160, tag % 2 ^ 32), (147, payload.length % 2 ^ 13), (128, type), (0, arg)]).toNat ++ payload

/-- The response to a request that carried a TAG, with its status and payload (R454). -/
def replyTo (s : State) (m tag status : Nat) (payload : List Byte) : State := answer s m (ctlMessage 0x81 status tag payload)

/-- The response to the request that is being served. -/
def reply (s : State) (m status : Nat) (payload : List Byte) : State := replyTo s m s.sys.tag status payload

/-- A debug response's payload with a status and further fields (R429). -/
def debugBody (status : Nat) (fs : List (Nat × Nat)) : List Byte := leBytes 32 (recOf ((184, status) :: fs)).toNat

/-- A debug response to the request that is being served. -/
def debugAnswer (s : State) (m status : Nat) (fs : List (Nat × Nat)) : State := reply s m 0 (debugBody status fs)

/-- The response to the STEP of a lane, which is sent when the step ends (R432). -/
def stepAnswer (s : State) (l : Lane) (status : Nat) (fs : List (Nat × Nat) := []) : State :=
  match l.stepping with
  | none => s
  | some m => replyTo s m l.stepTag 0 (debugBody status fs)

/-- A step of a lane ends: the lane halts again with REASON 5, and the response is sent (R432). -/
def endStep (s : State) (tid lid : Nat) : State :=
  match s.lane tid lid with
  | none => s
  | some l =>
    if l.stepping.isNone then s
    else
      let s := (unplace s tid [lid]).modLane tid lid (fun l => { l with stepping := none })
      if l.exited then stepAnswer s l 2
      else stepAnswer (laneTrace (s.modLane tid lid (fun l => { l with halted := some 5 })) tid lid 3 0 0) l 0

/-! ### Context faults (R459, R460) -/

/-- A context fault strikes: from now on no lane of the context issues; CONTEXT_FAULT tears the context down. Only the first
fault counts (R461). -/
def ctxFault (s : State) (ctx kind detail : Nat) : State :=
  let c := s.ctx ctx
  if c.st == .ready && c.fault.isNone then s.modCtx ctx (fun c => { c with fault := some (kind, detail, s.now) }) else s

/-! ### Traps (R100 to R104) -/

/-- The cause word (R102). -/
def causeWord (code iclass slot : Nat) (hdr spec : Bool) (count : Nat) : Word :=
  BitVec.ofNat 32 (code * 2 ^ 24 + iclass * 2 ^ 20 + slot * 2 ^ 16 + b2n hdr * 2 ^ 15 + b2n spec * 2 ^ 14 + count * 2 ^ 10)

/-- The info word of POISON_CONSUMED (R100). -/
def consumedInfo (field code : Nat) (v : Word) : Word :=
  BitVec.ofNat 32 ((if fld v.toNat 28 4 = 15 then fld v.toNat 0 20 * 2 ^ 12 else 0) + field * 2 ^ 8 + code)

/-- A team is returned (R267): its lanes issue nothing more, no trap is delivered, and TEAM_END ends it. -/
def returnTeam (s : State) (tid why : Nat) : State :=
  match s.team tid with
  | none => s
  | some t =>
    let s := unplace s tid (upFrom 0 t.lanes.length)
    let s := { s with pacts := s.pacts.filter (fun e => e.2.tid != tid) }
    let s := s.modTeam tid (fun t => { t with
      returned := why, traps := [],
      lanes := t.lanes.map (fun l => { l with exited := true, wait := none, parked := none }) })
    (upFrom 0 t.lanes.length).foldl (fun s lid => endStep s tid lid) s

/-- What taking a trap does to the lane: trap registers written, full and unpoisoned, in-trap set, PC at TVEC
(R101, R102); a lane that steps halts there (R432). -/
def Lane.takeTrap (l : Lane) (tvec : Nat) (tr : TrapRec) : Lane :=
  let n := l.regs.length
  let l1 := (((l.setReg (n - 4) (BitVec.ofNat 32 tr.h.toNat) false).setReg (n - 3) (BitVec.ofNat 32 (tr.h.toNat / 2 ^ 32)) false).setReg
    (n - 2) tr.cause false).setReg (n - 1) tr.info false
  { l1 with
    inTrap := true, h := BitVec.ofNat 56 tvec, slot := none, wait := none, parked := none, passing := []
    halted := if l.stepping.isSome then some 5 else l.halted }

/-- TAKING A TRAP, the one exception entry (R101 to R104): a context fault where TVEC is 0 or the lane is in a trap already, the
return of a budgeted team (R267), else the trap registers, in-trap, PC := TVEC, and a place in the team's order of trap-entry
groups, which TRAP_ENTRY forms; a step of the lane ends with it (R432). -/
def deliverTrap (s : State) (tid lid : Nat) (tr : TrapRec) : State :=
  match s.team tid with
  | none => s
  | some t =>
    match s.grid t.lseq with
    | none => s
    | some g =>
      let l := nth {} t.lanes lid
      let code := fld tr.cause.toNat 24 8
      let s := unplace s tid [lid]
      if (s.ctx g.ctx).fault.isSome then s
      else if (s.ctx g.ctx).tvec = 0 then ctxFault s g.ctx 2 code
      else if l.inTrap then ctxFault s g.ctx 3 code
      else if g.lrec.budget ≠ 0 then returnTeam s tid (2 + code)
      else endStep (s.modTeam tid (fun t => { t with
        lanes := modAt (fun l => l.takeTrap (s.ctx g.ctx).tvec tr) t.lanes lid,
        traps := t.traps ++ [⟨s.cyc, tr.h, lid, false⟩] })) tid lid

/-- A lane raises a trap: it leaves its group; a lane of a task that is not at the frontier parks instead (R348). -/
def raiseTrap (s : State) (tid lid : Nat) (tr : TrapRec) : State :=
  match s.team tid with
  | none => s
  | some t =>
    let core := (t.place.getD (0, 0)).1
    if (nth {} t.lanes lid).exited then s
    else if s.atFront core t.lseq then deliverTrap s tid lid tr
    else (unplace s tid [lid]).modLane tid lid (fun l => { l with parked := some (.trap tr), wait := none })

/-- A trap raised at the header of the clause at `h` (R38, R102, R183). -/
def hdrTrap (s : State) (tid lid : Nat) (h : Addr) (code count : Nat) (info : Word) : State :=
  raiseTrap s tid lid ⟨h, causeWord code 0 0 true false count, info⟩

/-- RETURNING FROM A TRAP: a taken brx clears the in-trap bit and goes to its target (R95). -/
def Lane.returnFromTrap (l : Lane) (h : Addr) (slot : Option Nat) : Lane :=
  { l with inTrap := false, h := h, slot := slot }

/-! ### Posting with what follows from it -/

/-- The status word (R17). -/
def statusWord (outcome cls detail : Nat) : Word := BitVec.ofNat 32 (outcome * 2 ^ 28 + cls * 2 ^ 24 + detail % 2 ^ 24)

/-- The FAILED status word that names the first record of the failure (R17, R25). -/
def failedStatus (i : Instr) (k : Nat) : Word := statusWord 15 (i.cls.getD 0) k

/-- Ties a LOAD record to the service pending for its page (R185). -/
def tieRec (s : State) (ctx page die k : Nat) : State :=
  match Tab.find (k % 4096) (s.dlq die).held with
  | none => s
  | some (_, r) =>
    { s with svcs := s.svcs.map (fun v => if v.ctx == ctx && v.page == page then { v with recs := v.recs ++ [(die, k % 4096, r)] } else v) }

/-- What follows when a record group has been placed at index `k` of a die's queue (R185, R187, R188). -/
def applyPost (s : State) (die ctx : Nat) (act : PostAct) (k : Nat) : State :=
  match act with
  | .none => s
  | .loads fids page =>
    let s := { s with flights := s.flights.map (fun e => if fids.contains e.1 then (e.1, { e.2 with stage := .bad }) else e) }
    match page with
    | some p => tieRec s ctx p die k
    | none => s
  | .lanes tid lids h cause code =>
    lids.foldl (fun s lid => raiseTrap s tid lid ⟨h, cause, BitVec.ofNat 32 (k % 2 ^ 24 * 2 ^ 8 + code)⟩) s
  | .fabric fids cause =>
    let s := fids.foldl (fun s fid => match Tab.find fid s.flights with
      | some f => s.modLane f.tid f.lid (fun l => { l with ferr := some (l.ferr.getD (BitVec.ofNat 32 (k % 2 ^ 24 * 2 ^ 8 + cause))) })
      | none => s) s
    { s with flights := s.flights.filter (fun e => !fids.contains e.1) }
  | .cmd cid => { s with cmds := Tab.upd (fun c => { c with st := .ended (failedStatus c.instr k) true }) cid s.cmds }

/-- Posts a record group: placed at once, or waiting for room (R187). The second part is the index when it was placed. -/
def post (s : State) (die ctx : Nat) (recs : List (BitVec 256)) (act : PostAct) : State × Option Nat :=
  match placeRecs s die ctx recs with
  | some (k, s) => (applyPost s die ctx act k, some k)
  | none =>
    let s := s.modDlq die (fun q => { q with waits := (q.waits + 1) % 2 ^ 32 })
    ({ s with ids := s.ids + 1, posts := s.posts ++ [⟨s.ids, die, ctx, recs, act⟩] }, none)

end Sys2Proof.Machine
end

