-- ==== Sys2Proof/Machine/Walk.lean ====
section
/-! DEFINITION. Walk.lean: physical memory (R475), leaves and the walk of a context's table (R168 to R172). -/

namespace Sys2Proof.Machine

open Sys2Proof

/-! ### Physical memory (R475) -/

/-- Whether there is memory at a physical address: what the Forrin port reaches (R454). -/
def hasMem (pa : Nat) : Bool := decide (pa / 2 ^ 41 = 0) && decide (pa % 2 ^ 40 < 192000000000)

/-- Whether a physical address lies in a frame: the last 32,768 bytes of each die's memory lie in none, and no translation reaches
them. -/
def hasFrame (pa : Nat) : Bool := decide (pa / 2 ^ 41 = 0) && decide (pa % 2 ^ 40 / 65536 < 2929687)

/-- Notes an access to physical memory that no frame holds. -/
def touch (s : State) (pa n : Nat) : State :=
  if hasFrame pa && hasFrame (pa + n - 1) then s else { s with bus := some pa }

/-- What stands for the frame of a page that has been evicted, in the lines of its versions: no frame number (R178). -/
def evictedFrame (ctx page : Nat) : Nat := 2 ^ 48 + ctx * 2 ^ 40 + page

/-- The home slice of a byte, 0 to 63 (R11, R475). -/
def sliceOf (pa : Nat) : Nat := pa / 2 ^ 40 % 2 * 32 + Config.sliceHash (pa / 4096) % 32

/-- The die of a physical address. -/
def dieOfPa (pa : Nat) : Nat := pa / 2 ^ 40 % 2

/-- L of R155 for the line of a physical address. -/
def State.leaseMax (s : State) (pa : Nat) : Nat :=
  Nat.max (Tab.get 0 (pa / 512) s.leases) (if s.horizon.isEmpty then 0 else Tab.get 0 (sliceOf pa) s.horizon)

/-- The WCT of a write performed now on the line of a physical address (R154). -/
def State.wctAt (s : State) (pa : Nat) : Nat := Nat.max s.now (s.leaseMax pa) + 1

/-- Largest L over the lines of a range of bytes. -/
def State.leaseMaxOver (s : State) (pa n : Nat) : Nat :=
  maxOf ((upFrom 0 (n / 512 + 2)).map (fun k => if pa / 512 + k ≤ (pa + n - 1) / 512 then s.leaseMax ((pa / 512 + k) * 512) else 0))

/-! ### Leaves (R168 to R172) -/

def leafValid (e : Nat) : Bool := bit e 0
def leafWritable (e : Nat) : Bool := bit e 1
def leafExec (e : Nat) : Bool := bit e 2
def leafVersioned (e : Nat) : Bool := bit e 3
def leafTagged (e : Nat) : Bool := bit e 4
def leafPinned (e : Nat) : Bool := bit e 5
def leafMode (e : Nat) : Nat := fld e 6 2
def leafShadow (e : Nat) : Bool := bit e 8
def leafFabric (e : Nat) : Bool := bit e 9
def leafFrame (e : Nat) : Nat := fld e 16 36

/-- An entry of a node that is a pointer and keeps R170. -/
def goodPointer (e : Nat) : Bool := fld e 1 15 == 0 && !bit e 16 && fld e 52 12 == 0

/-- A leaf that keeps R170 at level 1 or 2; of a FABRIC leaf the MODE is ignored (R410). -/
def goodLeaf (level e : Nat) : Bool :=
  fld e 12 4 == 0 && (leafFabric e || leafMode e != 3) && (level == 2 || (fld e 16 14 == 0 && !bit e 11))

/-- The outcome of a walk: a leaf and whether it maps 1 GiB, or a cause of R182; and an entry's address without memory. -/
structure Walk where
  res : Except Nat (Nat × Bool)
  bus : Option Nat := none
deriving DecidableEq, Repr

/-- One level of the walk (R168, R170). -/
def walkFrom (s : State) (va node level : Nat) : Nat → Walk
  | 0 => ⟨.error 7, none⟩
  | n + 1 =>
    let idx := if level = 0 then fld va 44 12 else if level = 1 then fld va 30 14 else fld va 16 14
    let a := node + 8 * idx
    if !hasFrame a then ⟨.error 7, some a⟩
    else
      let e := Mem.num s.mem a 8
      if !leafValid e then ⟨.error 1, none⟩
      else if bit e 10 then
        if level = 0 || !goodLeaf level e then ⟨.error 7, none⟩ else ⟨.ok (e, level == 1), none⟩
      else if level = 2 || !goodPointer e then ⟨.error 7, none⟩
      else walkFrom s va (leafFrame e * 2 ^ 16) (level + 1) n

/-- The walk of a context's table (R168). -/
def walk (s : State) (ctx va : Nat) : Walk := walkFrom s va (s.ctx ctx).root 0 3

/-- The physical address that a leaf gives (R168). -/
def physOf (leaf va : Nat) (big : Bool) : Nat :=
  leafFrame leaf * 2 ^ 16 + (if big then va % 2 ^ 30 else va % 2 ^ 16)

/-- The ranges (front, back, pages) of a pair slot that use each other's frames now (R209, R210). -/
def Pair.swapped (p : Pair) (now : Nat) : Option (Nat × Nat × Nat) :=
  if now < p.wlast then p.old else if p.live && p.flip then some (p.front, p.back, p.pages) else none

/-- The address through whose leaf an access is translated (R209). -/
def State.mapVa (s : State) (ctx va : Nat) : Nat :=
  (firstSome (fun (p : Pair) =>
    if p.ctx = ctx then match p.swapped s.now with
      | some (f, b, n) =>
        if f ≤ va ∧ va < f + n * 65536 then some (b + (va - f))
        else if b ≤ va ∧ va < b + n * 65536 then some (f + (va - b))
        else none
      | none => none
    else none) s.pairs).getD va

end Sys2Proof.Machine
end

