-- ==== Sys2Proof/Machine/Pool.lean ====
section
/-! DEFINITION. Pool.lean: what the sequence engine keeps of its allocations and copies (R403, R404), and what an abort, a shred, a seal
and a commit do with it (R358). Allocation bits and FREE are not versioned: a change of them reaches the committed data and every
version of the byte. -/

namespace Sys2Proof.Machine

open Sys2Proof

/-- A pointer some bytes on: the address part moves, the top byte stays. -/
def ptrOn (ptr n : Nat) : Nat := fld ptr 56 8 * 2 ^ 56 + (fld ptr 0 56 + n) % 2 ^ 56

/-- Changes a byte of a context's memory, wherever its page is, and every version of it. -/
def rawByte (s : State) (ctx va : Nat) (f : Byte → Byte) : State :=
  match (walk s ctx (s.mapVa ctx (fld va 0 56))).res with
  | .ok (leaf, big) =>
    let pa := physOf leaf (s.mapVa ctx (fld va 0 56)) big
    { s with
      mem := Mem.set s.mem pa (f (Mem.get s.mem pa))
      versions := s.versions.map (fun v => if v.line = pa / 512 then
        { v with cells := v.cells.map (fun e => if e.1 = pa % 512 then (e.1, f e.2) else e) } else v) }
  | .error _ => { s with backing := s.backing.map (fun b => if b.ctx = ctx ∧ b.page = s.mapVa ctx (fld va 0 56) / 2 ^ 16 then
      { b with cells := Mem.set b.cells (va % 2 ^ 16) (f (Mem.get b.cells (va % 2 ^ 16))) } else b) }

/-- A little-endian word of 4 bytes among cells, changed if all its bytes are there. -/
def addCells (cells : List Host.Cell) (off : Nat) (n : Int) : List Host.Cell :=
  match Mem.noted cells off, Mem.noted cells (off + 1), Mem.noted cells (off + 2), Mem.noted cells (off + 3) with
  | some a, some b, some c, some d =>
    ((leBytes 4 (wrap 32 ((leNat [a, b, c, d] : Int) + n))).zip (upFrom off 4)).foldl (fun m e => Mem.note m e.2 e.1) cells
  | _, _, _, _ => cells

/-- Adds to a word of a context's memory, and to every version of it. -/
def rawAdd (s : State) (ctx va : Nat) (n : Int) : State :=
  match (walk s ctx (s.mapVa ctx (fld va 0 56))).res with
  | .ok (leaf, big) =>
    let pa := physOf leaf (s.mapVa ctx (fld va 0 56)) big
    { s with
      mem := Mem.write s.mem pa (leBytes 4 (wrap 32 ((Mem.num s.mem pa 4 : Int) + n)))
      versions := s.versions.map (fun v => if v.line = pa / 512 then { v with cells := addCells v.cells (pa % 512) n } else v) }
  | .error _ => { s with backing := s.backing.map (fun b => if b.ctx = ctx ∧ b.page = s.mapVa ctx (fld va 0 56) / 2 ^ 16 then
      { b with cells := Mem.write b.cells (va % 2 ^ 16) (leBytes 4 (wrap 32 ((Mem.num b.cells (va % 2 ^ 16) 4 : Int) + n))) } else b) }

/-- The ALLOC bit of a block's descriptor (R389). -/
def rawAlloc (s : State) (ctx desc b : Nat) (on : Bool) : State :=
  rawByte s ctx (ptrOn desc (32 * b + 10)) (fun x => if on then x ||| 0x80 else x &&& 0x7F)

/-- A block is free again: ALLOC := 0, FREE rises by 1. -/
def kvGive (s : State) (ctx pool desc b : Nat) : State := rawAdd (rawAlloc s ctx desc b false) ctx (ptrOn pool 48) 1

/-- Frees what some records took, and drops them. -/
def kvFreeing (s : State) (p : KvRec → Bool) : State :=
  let s := (s.kvs.filter p).foldl (fun s r => kvGive s r.ctx r.pool r.desc r.store) s
  { s with kvs := s.kvs.filter (fun r => !p r) }

/-- A task aborts: its allocations, reservations and copies are freed (R404). -/
def kvAbort (s : State) (lseq : Nat) : State := if s.kvs.isEmpty then s else kvFreeing s (fun r => r.task == lseq)

/-- A carbon is shredded: the storage of its copies and allocations is freed (R403). -/
def kvShred (s : State) (ctx num : Nat) : State := if s.kvs.isEmpty then s else kvFreeing s (fun r => r.ctx == ctx && r.carbon == num)

/-- A task commits: nothing that it took is given back any more. -/
def kvCommit (s : State) (lseq : Nat) : State := { s with kvs := s.kvs.filter (fun r => r.task != lseq) }

/-- One record at a seal of carbon k into c: SCARB names c from now on, storage of c that a copy replaces is freed, and the record is
one of c (R403). The storage that a block was allocated with is the block itself, which stays allocated, and so does the record of that. -/
def kvSealOne (ctx k c : Nat) (s : State) (r : KvRec) : State :=
  let s := rawByte s ctx (ptrOn r.desc (32 * r.blk + 13)) (fun x => if x = BitVec.ofNat 8 k then BitVec.ofNat 8 c else x)
  let q := firstWith (fun q => q.ctx == ctx && q.pool == r.pool && q.blk == r.blk && q.carbon == c && some q.store == r.old) s.kvs
  let s := match r.old with
    | some t => if t ≠ r.blk ∧ (c = 0 ∨ q.isSome) then kvGive s ctx r.pool r.desc t else s
    | none => s
  let r' := { r with carbon := c, old := if c = 0 then none else match q with
    | some q => if q.store = r.blk then r.old else q.old
    | none => r.old }
  let gone := q.filter (fun q => q.store != r.blk)
  { s with kvs := (s.kvs.filter (fun x => x != r && some x != gone)) ++ [r'] }

/-- A seal of a carbon into its parent (R358, R403). -/
def kvSeal (s : State) (ctx k c : Nat) : State := (s.kvs.filter (fun r => r.ctx == ctx && r.carbon == k)).foldl (kvSealOne ctx k c) s

end Sys2Proof.Machine
end

