-- ==== Sys2Proof/Machine/Exchange.lean ====
section
/-! DEFINITION. Exchange.lean: the fabric engines' peers and own endpoints (R407), the notices of R418, what they do to the remote versions
held here (R419), and the abandonment of a suspended command's requests (R425). -/

namespace Sys2Proof.Machine

open Sys2Proof

def State.fabDie (s : State) (die : Nat) : FabDie := nth {} s.fab.dies die
def State.modFabDie (s : State) (die : Nat) (f : FabDie → FabDie) : State := { s with fab := { s.fab with dies := modAt f s.fab.dies die } }

/-- The endpoint identifier of a die (R407). -/
def State.epid (s : State) (die : Nat) : Nat := if die = 0 then s.sys.epidA else s.sys.epidB

/-- The die of this package that an endpoint is, the asking die first. -/
def State.ownDie (s : State) (die epid : Nat) : Option Nat :=
  if s.epid die = epid then some die else if s.epid (1 - die) = epid then some (1 - die) else none

/-- A route to an endpoint is up; a die needs none to its own import table (assumption log 84). -/
def State.routeUp (s : State) (die epid : Nat) : Bool :=
  s.epid die == epid || ((Tab.find epid (s.fabDie die).peers).map Prod.fst).getD false

/-- An endpoint is a KLN-8800; so is the die itself. -/
def State.isKln (s : State) (die epid : Nat) : Bool :=
  s.epid die == epid || ((Tab.find epid (s.fabDie die).peers).map Prod.snd).getD false

/-! ### Remote versions (R419) -/

/-- Whether a version is a remote version of a task of an endpoint. -/
def Version.isOf (v : Version) (die src ctx lseq : Nat) : Bool := v.writer == Writer.remote die src ctx lseq

def RemoteTask.is (r : RemoteTask) (die src ctx lseq : Nat) : Bool := r.die == die && r.src == src && r.ctx == ctx && r.lseq == lseq

/-- Kept requests go, with what has been noted of them. -/
def Fabric.dropKept (f : Fabric) (p : Nat × Nat × Export × FabReq → Bool) : Fabric :=
  let gone := (f.kept.filter p).map Prod.fst
  { f with
    kept := f.kept.filter (fun k => !p k)
    begun := f.begun.filter (fun b => !gone.contains b.1)
    keptOuts := f.keptOuts.filter (fun o => !gone.contains o.1) }

/-- Whether a request carries the tag of a task of an endpoint. -/
def reqOf (q : FabReq) (src ctx lseq : Nat) : Bool :=
  q.src == src && ((q.tag.map (fun t => t.ctx == ctx && t.lseq == lseq)).getD false)

/-- A discard: the remote versions of a task are dropped, and its requests that wait here make none any more (assumption log 84). -/
def dropRemote (s : State) (die src ctx lseq : Nat) : State :=
  { s with
    versions := s.versions.filter (fun v => !v.isOf die src ctx lseq)
    fab := { s.fab with remotes := s.fab.remotes.filter (fun r => !r.is die src ctx lseq) }.dropKept (fun k => k.2.1 == die && reqOf k.2.2.2 src ctx lseq) }

/-- The tag of a request of a task whose carbon has been sealed into another. -/
def sealedTag (carbon : Nat) (t : FabTag) : FabTag := { t with carbon := carbon, lineage := t.lineage.drop 1 }

/-- A re-tag: their carbon changes, and that of the task's requests that are to be performed here. -/
def retagRemote (s : State) (die src ctx lseq carbon : Nat) : State :=
  let re := fun (q : FabReq) => if reqOf q src ctx lseq then { q with tag := q.tag.map (sealedTag carbon) } else q
  { s with fab := { s.fab with
    remotes := s.fab.remotes.map (fun r => if r.is die src ctx lseq then { r with carbon := carbon } else r)
    kept := s.fab.kept.map (fun k => if k.2.1 = die then (k.1, k.2.1, k.2.2.1, re k.2.2.2) else k)
    outs := s.fab.outs.map (fun o => if s.ownDie o.2.die o.2.epid = some die then (o.1, { o.2 with req := o.2.req.map re }) else o) } }

/-- The WCT of a fold in a context (R332). -/
def foldWct (s : State) (vs : List Version) (ctx : Nat) : Nat :=
  let l := maxOf (vs.map (fun v => if v.cells.isEmpty then 0 else s.leaseMax (v.line * 512)))
  Nat.max (Nat.max s.now l + 1) (Tab.get {} ctx s.ctxs).cwct

/-- The bytes of a version join the committed data (R331, R338): in memory, or in the saved contents of a page that has been evicted (R178). -/
def foldVersion (s : State) (v : Version) : State :=
  let put := fun (m : List Host.Cell) (base : Nat) => v.cells.foldl (fun m c => Mem.set m (base + c.1) c.2) m
  if v.line / 128 < 2 ^ 48 then { s with mem := put s.mem (v.line * 512) }
  else { s with backing := s.backing.map (fun b =>
    if evictedFrame b.ctx b.page = v.line / 128 then { b with cells := put b.cells (v.line % 128 * 512) } else b) }

/-- A fold: their bytes become committed data. -/
def foldRemote (s : State) (die src ctx lseq : Nat) : State :=
  let vs := s.versions.filter (fun v => v.isOf die src ctx lseq)
  let ws := (distinct (vs.map Version.ctx)).map (fun k => (k, foldWct s (vs.filter (fun v => v.ctx == k)) k))
  let s := vs.foldl foldVersion s
  let s := { s with ctxs := ws.foldl (fun (cs : List (Nat × Ctx)) (w : Nat × Nat) => Tab.upd (fun (c : Ctx) => { c with cwct := w.2 }) w.1 cs) s.ctxs }
  dropRemote s die src ctx lseq

/-! ### Notices (R418) -/

/-- The endpoints that a task wrote: die and endpoint. -/
def State.wroteBy (s : State) (lseq : Nat) : List (Nat × Nat) := (s.fab.wrote.filter (fun w => w.1 == lseq)).map Prod.snd

/-- A task has written an endpoint. -/
def noteWrote (s : State) (lseq die epid : Nat) : State :=
  if s.fab.wrote.contains (lseq, die, epid) then s else { s with fab := { s.fab with wrote := s.fab.wrote ++ [(lseq, die, epid)] } }

def sendNotice (s : State) (n : Notice) : State := { s with fab := { s.fab with notices := s.fab.notices ++ [n] } }

def forgetWrote (s : State) (lseq : Nat) : State := { s with fab := { s.fab with wrote := s.fab.wrote.filter (fun w => w.1 != lseq) } }

/-- Discard notices of a task that aborts, is shredded, or whose context faults (R418, R460). -/
def discardFab (s : State) (ctx lseq : Nat) : State :=
  if s.fab.wrote.isEmpty then s
  else forgetWrote ((s.wroteBy lseq).foldl (fun s w => match s.ownDie w.1 w.2 with
    | some d => dropRemote s d (s.epid w.1) ctx lseq
    | none => sendNotice s (.discard w.1 w.2 ctx lseq)) s) lseq

/-- Re-tag notices of a task that a seal moves. -/
def retagFab (s : State) (ctx lseq carbon : Nat) : State :=
  if s.fab.wrote.isEmpty then s
  else (s.wroteBy lseq).foldl (fun s w => match s.ownDie w.1 w.2 with
    | some d => retagRemote s d (s.epid w.1) ctx lseq carbon
    | none => sendNotice s (.retag w.1 w.2 ctx lseq carbon)) s

/-- Fold notices of a task that commits; those to other packages await their acknowledgement. -/
def foldFab (s : State) (ctx lseq : Nat) : State :=
  if s.fab.wrote.isEmpty then s
  else forgetWrote ((s.wroteBy lseq).foldl (fun s w => match s.ownDie w.1 w.2 with
    | some d => foldRemote s d (s.epid w.1) ctx lseq
    | none =>
      let s := sendNotice s (.fold w.1 w.2 ctx lseq)
      { s with
        ids := s.ids + 1
        fab := { s.fab with outs := Tab.put s.ids { die := w.1, epid := w.2, req := none, sent := s.now, owner := .fold lseq } s.fab.outs } }) s) lseq

/-- Every fold of a task has been acknowledged. -/
def State.foldsDone (s : State) (lseq : Nat) : Bool := s.fab.outs.all (fun o => o.2.owner != .fold lseq)

/-- What a context fault or the end of a context does to the fabric (R408, R425, R460): notices of its tasks, its requests and the responses to
them, its entries with the remote versions written through them, and its groups. A request that a die has admitted is performed (R425), but
not one that waits for a page of the context itself: it is refused as one that comes later (assumption log 84). -/
def tearFab (s : State) (ctx : Nat) : State :=
  let s := (s.tasks.filter (fun t => t.2.ctx == ctx && t.2.st != .committed)).foldl (fun s t => discardFab s ctx t.1) s
  let stays := fun (r : RemoteTask) (n : Nat) => match Tab.find n (s.fabDie r.die).table with
    | some e => e.ctx != ctx
    | none => true
  { s with fab := { s.fab.dropKept (fun k => k.2.2.1.ctx == ctx) with
    outs := s.fab.outs.filter (fun o => match o.2.owner with
      | .lane fid => (Tab.find fid s.flights).any (fun f => f.tags.ctx != ctx)
      | .cmd cid _ _ _ => (Tab.find cid s.cmds).any (fun c => c.tags.ctx != ctx)
      | .fold _ => true)
    replies := s.fab.replies ++ (s.fab.kept.filter (fun k => k.2.2.1.ctx == ctx && k.2.2.2.src != s.epid 0 && k.2.2.2.src != s.epid 1)).map
      (fun k => (k.2.1, k.2.2.2.src, .refused 0x30))
    remotes := (s.fab.remotes.map (fun r => { r with entries := r.entries.filter (stays r) })).filter (fun r => !r.entries.isEmpty)
    dies := s.fab.dies.map (fun d => { d with
      table := d.table.filter (fun e => e.2.ctx != ctx)
      groups := d.groups.filter (fun g => g.2.ctx != ctx) }) } }

/-! ### Requests of a suspended command (R425) -/

/-- The step to which a request of a command belongs. -/
def FabOut.stepOf (cid : Nat) (o : FabOut) : Option Nat :=
  match o.owner with
  | .cmd c k _ _ => if c = cid then some k else none
  | .lane _ | .fold _ => none

/-- A command is suspended: its requests out are given up, and their steps are to run again. -/
def abandon (s : State) (cid : Nat) : State :=
  let steps := s.fab.outs.filterMap (fun o => o.2.stepOf cid)
  if steps.isEmpty then s
  else
    { s with
      fab := { s.fab with outs := s.fab.outs.filter (fun o => (o.2.stepOf cid).isNone) }
      cmds := Tab.upd (fun c => match c.instr with
        | .fstm _ _ _ => { c with data := steps.foldl (fun d k => insNat k d) c.data }
        | .fldr _ _ _ => { c with vals := setAt c.vals 0 0, data := [], bad := [] }
        | _ => c) cid s.cmds }

end Sys2Proof.Machine
end

