-- ==== Sys2Proof/Machine/Watch.lean ====
section
/-! DEFINITION. Watch.lean: the debug engine's shared operations: trace records (R444 to R446), halting and releasing lanes (R431),
watch slots and their firings (R433 to R437), and the slot counters (R448, R449). -/

namespace Sys2Proof.Machine

open Sys2Proof

/-! ### Halting and releasing (R431) -/

/-- A lane halts: it leaves its group and the bins; what it waits for, it goes on waiting for. -/
def haltLane (s : State) (tid lid reason : Nat) (slots : List Nat) : State :=
  match s.lane tid lid with
  | none => s
  | some l =>
    if l.exited || l.halted.isSome then s
    else (unplace s tid [lid]).modLane tid lid (fun l => { l with halted := some reason, passing := l.passing ++ slots })

/-- A lane is filed at its PC unless something holds it or it is to run a trap-entry group. -/
def fileFree (s : State) (tid lid : Nat) : State :=
  match s.team tid with
  | none => s
  | some t => if (nth {} t.lanes lid).free && !t.traps.any (fun p => p.lid == lid) then fileLanes s tid [lid] else s

/-- A halted lane is released: filed at its PC unless it waits or is parked. -/
def releaseLane (s : State) (tid lid : Nat) : State :=
  match s.lane tid lid with
  | none => s
  | some l =>
    if l.halted.isNone then s
    else fileFree (s.modLane tid lid (fun l => { l with halted := none, stepping := none })) tid lid

/-! ### Events and steps (R432, R471) -/

/-- An entry of the event log, sent to every attached master (R471). -/
def logEvent (s : State) (kind ctx fkind detail aux time : Nat) : State :=
  let e := recOf [(192, time % 2 ^ 64), (160, (s.sys.seq + 1) % 2 ^ 32), (128, detail % 2 ^ 32), (64, aux % 2 ^ 64), (16, fkind), (8, ctx), (0, kind)]
  let s := { s with sys := { s.sys with
    seq := s.sys.seq + 1
    log := (if s.sys.log.length < 256 then s.sys.log else s.sys.log.tail) ++ [e] } }
  s.sys.attached.foldl (fun s m => answer s m (ctlMessage 0x80 0 0 (leBytes 32 e.toNat))) s

/-- A lane that waited goes on at a place of its program, which ends a step of it (R228, R238, R432). -/
def goOn (s : State) (tid lid : Nat) (h : Addr) (slot : Option Nat) : State :=
  fileFree (endStep (s.modLane tid lid (fun l => { l with wait := none, h := h, slot := slot, passing := [] })) tid lid) tid lid

/-! ### Watch slots (R433) -/

def State.dbgOf (s : State) (ctx : Nat) : DbgCtx := Tab.get {} ctx s.dbg

/-- Whether a slot matches a lane (R433). -/
def slotMatches (b tlin lid : Nat) : Bool :=
  (bit b 66 || fld b 96 32 == tlin) && decide (fld b 72 10 ≤ lid) && decide (lid ≤ fld b 84 10)

/-- The slots, among numbers `lo` to `hi`, that match a lane and pass a test, in rising order. -/
def firing (s : State) (ctx tlin lid lo hi : Nat) (l : Lane) (p : Nat → Bool) : List (Nat × Nat) :=
  if l.stepping.isSome then []
  else ((s.dbgOf ctx).slots.map (fun e => (e.1, e.2.toNat))).filter (fun e =>
    decide (lo ≤ e.1) && decide (e.1 ≤ hi) && !l.passing.contains e.1 && slotMatches e.2 tlin lid && p e.2)

/-- HIT records of the firing slots that trace (R445). -/
def postHits (s : State) (tid lid data : Nat) (f : List (Nat × Nat)) : State :=
  (f.filter (fun e => bit e.2 65)).foldl (fun s e => laneTrace s tid lid 2 data e.1) s

/-- A lane whose slots have fired stops: it halts, or parks if it is not at the frontier (R437). -/
def stopLane (s : State) (tid lid reason : Nat) (slots : List Nat) : State :=
  match s.team tid with
  | none => s
  | some t =>
    if s.atFront ((t.place.getD (0, 0)).1) t.lseq then haltLane s tid lid reason slots
    else if (nth {} t.lanes lid).exited then s
    else (unplace s tid [lid]).modLane tid lid (fun l => { l with parked := some (.halt reason), passing := l.passing ++ slots })

/-- Code breakpoints for lanes that reach an address (R434): the state, and the lanes that stop before it. -/
def codeFire (s : State) (tid : Nat) (t : Team) (addr : Nat) (lids : List Nat) : State × List Nat :=
  let ctx := s.ctxOf t
  if (s.dbgOf ctx).slots.isEmpty then (s, [])
  else lids.foldl (fun (p : State × List Nat) lid =>
    let f := firing p.1 ctx t.tlin lid 0 7 (nth {} t.lanes lid) (fun b => fld b 0 56 == addr)
    if f.isEmpty then p
    else
      let s := postHits p.1 tid lid 0 f
      if f.any (fun e => bit e.2 64) then (stopLane s tid lid 1 (f.map Prod.fst), p.2 ++ [lid])
      else (s.modLane tid lid (fun l => { l with passing := l.passing ++ f.map Prod.fst }), p.2)) (s, [])

/-- Memory watchpoints for an access of a lane (R435): the slots that fire. -/
def memFiring (s : State) (ctx tlin lid : Nat) (l : Lane) (rd wr : Bool) (va n : Nat) : List (Nat × Nat) :=
  firing s ctx tlin lid 8 11 l (fun b => ((rd && bit b 134) || (wr && bit b 135))
    && decide (va < fld b 0 56 + 2 ^ fld b 128 6) && decide (fld b 0 56 < va + n))

/-- Sync watchpoints for an act of a lane (R436): transitions 0, 1 and 2 of the object (scope, team's tlin or none, number); the
firing slots are noted, and the lane halts once its word is done. -/
def syncFire (s : State) (tid lid scope num : Nat) (objTlin : Option Nat) (trans : List Nat) : State :=
  match s.team tid with
  | none => s
  | some t =>
    let ctx := s.ctxOf t
    if (s.dbgOf ctx).slots.isEmpty || trans.isEmpty then s
    else
      let f := firing s ctx t.tlin lid 12 19 (nth {} t.lanes lid) (fun b =>
        fld b 0 32 == scope * 2 ^ 30 + num && trans.contains (fld b 128 2)
          && (match objTlin with
            | some o => bit b 66 || fld b 96 32 == o
            | none => true))
      let s := postHits s tid lid 0 f
      if f.any (fun e => bit e.2 64) then { s with hits := s.hits ++ [⟨tid, lid, f.map Prod.fst⟩] } else s

/-- Halts the lanes whose sync watchpoints have fired. -/
def settleHits (s : State) : State :=
  if s.hits.isEmpty then s
  else { s.hits.foldl (fun s h => stopLane s h.tid h.lid 3 []) s with hits := [] }

/-! ### Requests that name lanes (R426 to R430) -/

/-- Whether the controller performs a message of a master: not while it is stopped or a reset runs (R466, R470), and not before an earlier
message of the master has been answered, since one master's requests are performed in the order in which they are sent (R428). -/
def State.hears (s : State) (m : Nat) : Bool :=
  s.sys.attached.contains m && !s.sys.stopped && s.sys.resetBy.isNone && !s.sys.writes.any (fun w => w.1 == m)

/-- The team that a request names: the oldest grid of its handle in its context; none once a fault of the context has struck (R461). -/
def reqTeam (s : State) (q : DbgReq) : Option Nat :=
  if (s.ctx q.ctx.toNat).fault.isSome then none else
  (leastBy (fun (e : Nat × Team) => e.2.lseq) (s.teams.filter (fun e =>
    s.ctxOf e.2 == q.ctx.toNat && e.2.lseq % 2 ^ 24 == q.grid.toNat && e.2.tlin == q.team.toNat && e.2.returned == 0))).map Prod.fst

/-- The lanes that a request names: one, or every live one of the team. -/
def reqLanes (s : State) (q : DbgReq) : Option (Nat × List Nat) :=
  match reqTeam s q with
  | none => none
  | some tid => match s.team tid with
    | none => none
    | some t =>
      let live := fun lid => decide (lid < t.lanes.length) && !(nth {} t.lanes lid).exited
      let ls := if q.all then (upFrom 0 t.lanes.length).filter live else [q.lane.toNat].filter live
      if ls.isEmpty then none else some (tid, ls)

/-- Whether a master may send a request that needs rights (R426). -/
def State.mayDebug (s : State) (m : Nat) (q : DbgReq) : Bool := (s.dbgOf q.ctx.toNat).rights && (s.dbgOf q.ctx.toNat).holder == m

/-- SAVED of R429. -/
def savedBit (s : State) (tid : Nat) : Nat × Nat :=
  (170, b2n (match (s.team tid).map Team.loc with
    | some .saved => true
    | _ => false))

/-- A request that names a lane, from the holder of the rights. -/
def onLanes (s : State) (m : Nat) (q : DbgReq) (k : Nat → List Nat → State) : State :=
  if !s.mayDebug m q then debugAnswer s m 1 []
  else match reqLanes s q with
    | none => debugAnswer s m 2 []
    | some (tid, ls) => k tid ls

/-- What WRITE comes to: a status, or the team as changed (R34, R430). -/
def debugPut (t : Team) (lid : Nat) (q : DbgReq) : Except Nat Team :=
  let l := nth {} t.lanes lid
  let code := q.reg.toNat
  let v : Word := q.value.extractLsb' 0 32
  if 222 < code then .error 5
  else if code < 128 then
    if l.regs.length ≤ code then .error 5
    else if (l.reg code).st.isPend then .error 4
    else .ok { t with lanes := modAt (fun l => l.setReg code v q.poison) t.lanes lid, dbg := true }
  else if code < 160 then
    if q.poison then .error 5 else .ok { t with scal := setAt t.scal (code - 128) v, dbg := true }
  else .ok { t with lanes := modAt (fun l => l.setPred (code - 160) (v.getLsbD 0) q.poison) t.lanes lid, dbg := true }

/-- WRITE (R430). A WRITE to an empty-pending register is answered when the cycle ends (`late`): a delivery that reaches the register in the same
cycle comes before it. -/
def writeReq (s : State) (m : Nat) (q : DbgReq) (late : Bool := false) : State :=
  onLanes s m { q with all := false } (fun tid ls =>
    let lid := ls.headD 0
    match s.team tid with
    | none => debugAnswer s m 2 []
    | some t =>
      if (nth {} t.lanes lid).halted.isNone ∧ t.loc ≠ .saved then debugAnswer s m 3 [savedBit s tid]
      else match debugPut t lid q with
        | .error st =>
          if st = 4 ∧ !late then { s with sys := { s.sys with writes := s.sys.writes ++ [(m, s.sys.tag, q)] } }
          else debugAnswer s m st [savedBit s tid]
        | .ok t' => debugAnswer (s.setTeam tid t') m 0 [savedBit s tid])

/-- The WRITEs to empty-pending registers of the cycle that ends (R430). -/
def lateWrites (s : State) : State :=
  if s.sys.writes.isEmpty then s
  else
    let tag := s.sys.tag
    let r := s.sys.writes.foldl (fun s w => writeReq { s with sys := { s.sys with tag := w.2.1 } } w.1 w.2.2 true) { s with sys := { s.sys with writes := [] } }
    { r with sys := { r.sys with tag := tag } }

/-! ### Slot counters (R448, R449) -/

/-- The slots of a task move from RETAINED to DISCARDED, those of the words that are being issued for it with them (R449). -/
def discardSlots (s : State) (lseq : Nat) : State :=
  match s.task lseq with
  | none => s
  | some t =>
    let move := fun (k : Nat) (c : DieCtr) => { c with
      live := modAt (· - nth 0 t.issued k) (modAt (· + nth 0 t.issued k) c.live 1) 0 }
    { s.modTask lseq (fun t => { t with issued := [0, 0] }) with
      ctrs := modAt (move 1) (modAt (move 0) s.ctrs 0) 1
      cores := s.cores.map (fun c => (c.1, { c.2 with scheds := c.2.scheds.map (fun x =>
        if x.issuedFor = some (lseq, t.launch) then { x with wasted := true } else x) })) }

/-- The 13 counters of a die (R448). -/
def State.counters (s : State) (die : Nat) : List Nat :=
  let c := nth {} s.ctrs die
  let total := 256 * (s.cyc - c.since)
  c.live ++ [total - sumOf c.live, total, s.trace.delay, s.trace.drops]

end Sys2Proof.Machine
end

