-- ==== Sys2Proof/Machine/Office.lean ====
section
/-! DEFINITION. Office.lean: the sorting office's shared operations: views and lineages (R339), aborts and shreds (R347, R356),
seals (R354, R355), read signatures (R344), dependences (R336). -/

namespace Sys2Proof.Machine

open Sys2Proof

/-! ### Carbons and views -/

def State.carbon (s : State) (ctx num : Nat) : Option Carbon :=
  firstWith (fun c => c.ctx == ctx && c.num == num) s.carbons

/-- Depth of a carbon: 0 for carbon 0 and for a carbon that is not live (R352). -/
def State.depthOf (s : State) (ctx num : Nat) : Nat := ((s.carbon ctx num).map Carbon.depth).getD 0

/-- Whether `anc` lies strictly above `num` in its lineage; a lineage has at most 8 carbons above 0 (R352). -/
def State.above (s : State) (ctx anc num : Nat) : Nat → Bool
  | 0 => false
  | n + 1 => match s.carbon ctx num with
    | none => false
    | some c => c.parent == anc || s.above ctx anc c.parent n

/-- The lineage of a carbon from itself upwards: (carbon, postmark of the fork of the next lower one), R339. -/
def State.lineage (s : State) (ctx num : Nat) : Nat → List (Nat × Nat)
  | 0 => []
  | n + 1 => match s.carbon ctx num with
    | none => []
    | some c => (c.parent, c.postmark) :: s.lineage ctx c.parent n

/-- Whether a speculative writer of (carbon, postmark, lseq) lies in the view of a task of the same context (R339). -/
def State.inView (s : State) (lseq : Nat) (t : Task) (uc up ul : Nat) : Bool :=
  (uc == t.carbon && !keyLt (t.postmark, lseq) (up, ul))
    || (s.lineage t.ctx t.carbon 8).any (fun e => e.1 == uc && decide (up < e.2))

/-- h of R344: the signature bit of a line number. -/
def sigBit (line : Nat) : Nat :=
  fld line 0 12 ^^^ fld line 12 12 ^^^ fld line 24 12 ^^^ fld line 36 7

/-- A read of a versioned line sets a bit of the reader's signature (R344). -/
def noteRead (s : State) (task : Option (Nat × Nat)) (line : Nat) : State :=
  match task with
  | none => s
  | some (lseq, _) => s.modTask lseq (fun t => { t with sig := insNat (sigBit line) t.sig })

/-! ### Ending teams -/

/-- A team leaves its core for good: its lanes, traps and waits go with it, its pigeonhole objects, its waiting acts and the courier
writes held for it (R247), a baton pair ends (R98), and a debugger's step of a lane of it is answered NO_LANE (R450). -/
def dropTeam (s : State) (tid : Nat) : State :=
  let s := match s.team tid with
    | some t => t.lanes.foldl (fun s l => stepAnswer s l 2) (unplace s tid (upFrom 0 t.lanes.length))
    | none => s
  { s with
    pigeons := s.pigeons.filter (fun p => !(p.scope == 0 && p.owner == tid))
    pacts := s.pacts.filter (fun e => e.2.tid != tid)
    couriers := s.couriers.filter (fun e => e.2.tid != tid)
    teams := Tab.del tid (endPair s tid).teams }

/-- A team is torn down with its task, its carbon or its context: its commands are cancelled and its accesses discarded (R33,
R347). -/
def killTeam (s : State) (tid : Nat) : State :=
  { dropTeam s tid with
    cmds := s.cmds.filter (fun e => e.2.tid != tid)
    flights := s.flights.filter (fun e => e.2.tid != tid) }

/-! ### Aborts and shreds -/

/-- What is left to do in one teardown. -/
inductive Tear
  | abort (lseq : Nat) (ends : Bool)
  | shred (ctx num : Nat)
deriving DecidableEq, Repr

/-- One task aborts (R347): its teams end, its versions, edges and pending acts go; what else must abort or be shredded. -/
def abortOne (s : State) (lseq : Nat) (ends : Bool) : State × List Tear :=
  match s.task lseq with
  | none => (s, [])
  | some t =>
    if t.st == .committed then (s, [])
    else if t.st == .aborted then (s.modTask lseq (fun t => { t with ends := t.ends || ends }), [])
    else
      let s := ((s.teams.filter (fun e => e.2.lseq == lseq)).map Prod.fst).foldl killTeam (discardSlots s lseq)
      let s := s.modTask lseq (fun t => { t with st := .aborted, ends := t.ends || ends, edges := [], acts := [] })
      let s := s.modGrid lseq (fun g => { g with next := g.lrec.gdx * g.lrec.gdy * g.lrec.gdz })
      let s := { s with
        versions := s.versions.filter (fun v => !(v.ctx == t.ctx && v.writer == .task lseq))
        disp := { s.disp with tray := s.disp.tray.filter (fun r => !(r.lrec.pm && r.posterGrid == some lseq)) } }
      (discardFab (kvAbort s lseq) t.ctx lseq,
        (s.tasks.filter (fun e => e.2.ctx == t.ctx && e.2.edges.contains (.task lseq))).map (fun e => .abort e.1 false)
          ++ (s.tasks.filter (fun e => ((s.grid e.1).bind Grid.posterGrid) == some lseq && e.2.st != .committed)).map
            (fun e => .abort e.1 true)
          ++ (s.carbons.filter (fun c => c.ctx == t.ctx && c.owner == some lseq)).map (fun c => .shred c.ctx c.num))

/-- The records that lanes wait to post as tasks of a context, changed (R479). -/
def State.modPosts (s : State) (ctx : Nat) (f : Launch → Launch) : State :=
  { s with teams := s.teams.map (fun (e : Nat × Team) => if s.ctxOf e.2 = ctx then (e.1, { e.2 with lanes := e.2.lanes.map (fun l => match l.wait with
      | some (.outTray x d h slot) => if x.lrec.pm then { l with wait := some (.outTray (f x) d h slot) } else l
      | _ => l) }) else e) }

/-- Such a record is bound to another carbon. -/
def Launch.rebind (x : Launch) (old new : Nat) : Launch := if x.lrec.carbon = old then { x with lrec := { x.lrec with carbon := new } } else x

/-- One carbon is shredded (R356): its tasks and those of its descendants end, records bound to it are discarded (R479). -/
def shredOne (s : State) (ctx num : Nat) : State × List Tear :=
  match s.carbon ctx num with
  | none => (s, [])
  | some _ =>
    let kids := (s.carbons.filter (fun c => c.ctx == ctx && c.parent == num)).map (fun c => Tear.shred ctx c.num)
    let tasks := (s.tasks.filter (fun e => e.2.ctx == ctx && e.2.carbon == num)).map (fun e => Tear.abort e.1 true)
    let s : State := { s with
      grids := s.grids.map (fun e => if (s.tasks.any (fun t => t.1 == e.1 && t.2.ctx == ctx && t.2.carbon == num)) then (e.1, { e.2 with shredded := true }) else e)
      carbons := s.carbons.filter (fun c => !(c.ctx == ctx && c.num == num))
      disp := { s.disp with tray := s.disp.tray.filter (fun r => !(r.lrec.pm && r.ctx == ctx && r.carbon == num)) } }
    (kvShred (s.modPosts ctx (fun x => x.rebind num noCarbon)) ctx num, kids ++ tasks)

/-- Works through a teardown. -/
def tear (s : State) : Nat → List Tear → State
  | 0, _ => s
  | _, [] => s
  | n + 1, .abort l e :: t => let (s, more) := abortOne s l e; tear s n (t ++ more)
  | n + 1, .shred c k :: t => let (s, more) := shredOne s c k; tear s n (t ++ more)

/-- Steps that suffice for a teardown: each task and carbon is torn down once, and names each other one at most once. -/
def tearFuel (s : State) (w : List Tear) : Nat :=
  (s.tasks.length + s.carbons.length + 1) * (s.tasks.length + s.carbons.length + 1) + w.length

def tearAll (s : State) (w : List Tear) : State := tear s (tearFuel s w) w

/-- Aborts tasks; `ends` says that they do not relaunch (R329). -/
def abortTasks (s : State) (ls : List Nat) (ends : Bool) : State := tearAll s (ls.map (fun l => .abort l ends))

/-- The tasks that a write of a versioned line aborts (R345): the writer is a task, or plain for one context, or a Forrin write
for every context. -/
def struckBy (s : State) (ctx : Option Nat) (writer : Option (Nat × Task)) (line : Nat) : List Nat :=
  (s.tasks.filter (fun e =>
    (ctx == none || ctx == some e.2.ctx) && e.2.st != .committed && e.2.st != .aborted
      && e.2.sig.contains (sigBit line)
      && (match writer with
        | none => true
        | some (l, w) => e.1 != l && s.inView e.1 e.2 w.carbon w.postmark l))).map Prod.fst

/-! ### Seals -/

/-- Tasks that a seal makes see a write that they should have seen before (R355): `before` is the state before the seal. -/
def sealStruck (before after : State) (ctx c : Nat) : List Nat :=
  ((after.tasks.filter (fun v => v.2.ctx == ctx && v.2.carbon == c && v.2.st != .committed && v.2.st != .aborted)).filter (fun v =>
    after.versions.any (fun x => x.ctx == ctx && (match x.writer with
      | .task u => u != v.1 && (match after.task u, before.task u, before.task v.1 with
          | some ua, some ub, some vb =>
            ua.carbon == c && v.2.sig.contains (sigBit x.line)
              && after.inView v.1 v.2 ua.carbon ua.postmark u && !before.inView v.1 vb ub.carbon ub.postmark u
          | _, _, _ => false)
      | .remote _ _ _ _ => false)))).map Prod.fst

/-- A seal of carbon k takes effect as one step of the office (R354, R355, R479): its tasks, records and children are its parent's, the
lineages below it are one shorter, and what its tasks have under way goes on under the parent (R358). -/
def applySeal (s : State) (ctx k : Nat) : State :=
  match s.carbon ctx k with
  | none => s
  | some x =>
    let c := x.parent
    let sibs := (s.carbons.filter (fun y => y.ctx == ctx && y.parent == c && y.postmark == x.postmark && y.num != k)).map (fun y => Tear.shred ctx y.num)
    let moved : State := { s with
      tasks := s.tasks.map (fun e => if e.2.ctx == ctx && e.2.carbon == k then (e.1, { e.2 with carbon := c }) else e)
      carbons := (s.carbons.filter (fun y => !(y.ctx == ctx && y.num == k))).map (fun y =>
        if y.ctx == ctx && s.above ctx k y.num 9 then { y with parent := if y.parent = k then c else y.parent, depth := y.depth - 1 } else y)
      cmds := s.cmds.map (fun e => if e.2.tags.ctx == ctx && e.2.tags.carbon == k then (e.1, { e.2 with tags := { e.2.tags with carbon := c } }) else e)
      flights := s.flights.map (fun e => if e.2.tags.ctx == ctx && e.2.tags.carbon == k then (e.1, { e.2 with tags := { e.2.tags with carbon := c } }) else e)
      disp := { s.disp with tray := s.disp.tray.map (fun r => if r.ctx == ctx && r.carbon == k && r.lrec.pm then { r with carbon := c } else r) } }
    let moved := moved.modPosts ctx (fun x => x.rebind k c)
    let struck := sealStruck s moved ctx c
    let told := (s.tasks.filter (fun e => e.2.ctx == ctx && e.2.carbon == k)).foldl (fun s e => retagFab s ctx e.1 c) (kvSeal moved ctx k c)
    abortTasks (tearAll told sibs) struck false

/-- A shred of a carbon takes effect (R356). -/
def applyShred (s : State) (ctx k : Nat) : State := tearAll s [.shred ctx k]

/-! ### Dependences (R336) -/

/-- Whether two ranges of virtual addresses share a byte. -/
def DRange.meets (a b : DRange) : Bool :=
  decide (0 < a.len) && decide (0 < b.len) && decide (a.base < b.base + b.len) && decide (b.base < a.base + a.len)

/-- The dependences of a task, found as it is taken and at each relaunch: the earlier tasks in its view that have not committed, with a write
range that meets a read range (R336). -/
def State.depsOf (s : State) (lseq : Nat) (t : Task) : List Nat :=
  (s.tasks.filter (fun e => e.1 != lseq && e.2.ctx == t.ctx && keyLt (e.2.postmark, e.1) (t.postmark, lseq) && e.2.st != .committed
    && s.inView lseq t e.2.carbon e.2.postmark e.1
    && (e.2.sets.drop 4).any (fun w => (t.sets.take 4).any (fun r => w.meets r)))).map Prod.fst

/-- A dependence holds as long as it has not finished, committed or ended: while it is torn down to be launched again, and while its record
stands displaced in the out-tray. -/
def State.holds (s : State) (lseq : Nat) : Bool :=
  match s.task lseq with
  | some t => t.st != .finished && t.st != .committed
  | none => s.disp.tray.any (fun r => r.lseq == lseq && r.displaced)

/-- A task begins a launch: its dependences are found, and it is held by one of them in HOLD, running otherwise (R329, R336). -/
def State.launched (s : State) (lseq : Nat) (t : Task) : Task :=
  let t := { t with deps := s.depsOf lseq t }
  { t with st := if t.holdm && t.deps.any s.holds then .held else .running }

end Sys2Proof.Machine
end

