-- ==== Sys2Proof/Machine/Mem.lean ====
section
/-! DEFINITION. Mem.lean: translation (R166 to R176), home slices, leases and WCTs (R154 to R157), reads
under a view and versioned writes (R338 to R346), the L1 level (R131, R156). -/

namespace Sys2Proof.Machine

open Sys2Proof

/-- A TLB entry that serves an address (R173). -/
def State.tlbHit (s : State) (cl ctx va : Nat) : Option TlbEnt :=
  firstWith (fun e => e.ctx == ctx && e.page == (if e.big then va / 2 ^ 30 else va / 2 ^ 16)) (s.cluster cl).tlb

/-- Keeps a leaf in a cluster's TLB; the oldest entry goes when 8,192 are held (R173). -/
def tlbKeep (s : State) (cl ctx va leaf : Nat) (big : Bool) : State :=
  s.modCluster cl (fun c =>
    let t := if c.tlb.length < 8192 then c.tlb else c.tlb.tail
    { c with tlb := t ++ [⟨ctx, if big then va / 2 ^ 30 else va / 2 ^ 16, big, BitVec.ofNat 64 leaf⟩] })

/-- Kinds of access of R172. The tags of a load (`ld`) are checked at its read instant, those of the others with the translation. -/
inductive Acc | ld | rd | wr | exe | tagr | tagw
deriving DecidableEq, Repr

def Acc.writes : Acc → Bool
  | .wr | .tagw => true
  | .ld | .rd | .exe | .tagr => false

/-- The tag of the granule of a physical address. -/
def State.tagAt (s : State) (pa : Nat) : BitVec 4 := Tab.get 0 (pa / 32) s.tags

/-- Whether an address lies in the ranges of a pair slot, those of now or those in force until its last WCT. -/
def Pair.covers (p : Pair) (va : Nat) : Bool :=
  let hit := fun (f b n : Nat) => (decide (f ≤ va) && decide (va < f + n * 65536)) || (decide (b ≤ va) && decide (va < b + n * 65536))
  hit p.front p.back p.pages || (match p.old with
    | some (f, b, n) => hit f b n
    | none => false)

/-- The instant at which a lease on an address may expire at the latest: the WCT of a publication under way (R210). -/
def State.leaseCut (s : State) (ctx va e : Nat) : Nat :=
  s.pairs.foldl (fun e p => if p.ctx = ctx ∧ s.now < p.wlast ∧ p.covers va then Nat.min e p.wlast else e) e

/-- What a translation gives. -/
inductive Xl
  | ok (pa leaf : Nat) (big : Bool)
  | fail (cause : Nat) (leaf : Option (Nat × Bool))
deriving DecidableEq, Repr

/-- Whether every granule of an access to a tagged page carries the pointer's tag (R176). -/
def State.tagsOk (s : State) (ctx ptr pa n : Nat) : Bool :=
  !(s.ctx ctx).tagen ||
    (upFrom 0 ((pa % 32 + n + 31) / 32)).all (fun k => (s.tagAt (pa / 32 * 32 + 32 * k)).toNat == fld ptr 60 4)

/-- Checks a leaf for an access (R172, R176); only the fabric engine's forms reach a FABRIC leaf (R410). -/
def leafCheck (s : State) (ctx ptr : Nat) (acc : Acc) (n leaf : Nat) (big : Bool) : Xl :=
  let pa := physOf leaf (fld ptr 0 56) big
  if leafFabric leaf then .fail 2 (some (leaf, big))
  else if acc.writes && !leafWritable leaf then .fail 3 (some (leaf, big))
  else if acc == .exe && !leafExec leaf then .fail 4 (some (leaf, big))
  else if acc == .tagw && !leafTagged leaf then .fail 8 (some (leaf, big))
  else if (acc == .rd || acc == .wr) && leafTagged leaf && !s.tagsOk ctx ptr pa n then .fail 5 (some (leaf, big))
  else .ok pa leaf big

/-- Translates a pointer for an access of `n` bytes by a cluster (R166 to R176). -/
def translate (s : State) (cl ctx ptr : Nat) (acc : Acc) (n : Nat) : Xl × State :=
  let va := fld ptr 0 56
  if fld ptr 56 4 ≠ 0 then (.fail 6 none, s)
  else
    let mva := s.mapVa ctx va
    match s.tlbHit cl ctx mva with
    | some e => (leafCheck s ctx (ptr - va + mva) acc n e.leaf.toNat e.big, s)
    | none =>
      let w := walk s ctx mva
      let s := match w.bus with
        | some a => { s with bus := some a }
        | none => s
      match w.res with
      | .error c => (.fail c none, s)
      | .ok (leaf, big) => (leafCheck s ctx (ptr - va + mva) acc n leaf big, tlbKeep s cl ctx mva leaf big)

/-! ### Frame service requests (R178, R179) -/

/-- The service pending for a page: until SERVICE_END, whatever firmware has done by then. -/
def State.svc (s : State) (ctx page : Nat) : Option Svc := firstWith (fun v => v.ctx == ctx && v.page == page) s.svcs

/-- The page whose leaf translates an address: of a live pair it may be the other one (R209). -/
def State.pageAt (s : State) (ctx ptr : Nat) : Nat := s.mapVa ctx (fld ptr 0 56) / 2 ^ 16

/-- Translates a pointer for an access that waits while service of its page is pending (R179). -/
def translateOr (s : State) (cl ctx ptr : Nat) (acc : Acc) (n : Nat) : Xl × State :=
  if fld ptr 56 4 = 0 && (s.svc ctx (s.pageAt ctx ptr)).isSome then (.fail 1 none, s) else translate s cl ctx ptr acc n

/-- The physical address and leaf in force at the instant at which a translated access takes effect, where its page is one of a shadow pair
(R209); none where the place of its translation stands; or why it fails as R177 gives. A shadow page outside every pair that is not mapped
any more stands too: its access has been translated (R174). -/
def State.frameNow (s : State) (ctx ptr leaf : Nat) (acc : Acc) (n : Nat) : Except Nat (Option (Nat × Nat)) :=
  let va := fld ptr 0 56
  let mine := s.pairs.any (fun p => p.ctx == ctx && p.covers va)
  if s.pairs.isEmpty || !(leafShadow leaf || mine) then .ok none
  else match (walk s ctx (s.mapVa ctx va)).res with
    | .error c => if mine then .error c else .ok none
    | .ok (leaf, big) => match leafCheck s ctx (ptr - va + s.mapVa ctx va) acc n leaf big with
      | .ok pa leaf _ => .ok (some (pa, leaf))
      | .fail c _ => .error c

/-- Requests service of a page, or joins the service pending. -/
def request (s : State) (ctx page die : Nat) : State :=
  match s.svc ctx page with
  | some _ => s
  | none => { s with svcs := s.svcs ++ [⟨ctx, page, die, [], none, none, []⟩] }

/-- The access of a lane at its word asks for service of its page; the page and this execution of the word are noted (R178 step 3). -/
def askPage (s : State) (tid lid ctx page die : Nat) : State :=
  (request s ctx page die).modLane tid lid (fun l => { l with asked := some (page, s.cyc) })

/-! ### The dead-letter window (R186) -/

/-- The offset in a context's window of an address, if it lies there. -/
def State.window (s : State) (ctx va : Nat) : Option Nat :=
  let b := (s.ctx ctx).dlqva
  if b ≠ 0 ∧ b ≤ va ∧ va < b + 262144 then some (va - b) else none

/-- The bytes that a read of the window returns: a record held for the reader's context, or zeros. -/
def State.windowRead (s : State) (ctx off n : Nat) : List Byte :=
  (upFrom off n).map (fun o =>
    match Tab.find (o % 131072 / 32) (s.dlq (o / 131072)).held with
    | some (c, r) => if c = ctx then r.extractLsb' (8 * (o % 32)) 8 else 0
    | none => 0)

/-- A release through the window. -/
def windowRelease (s : State) (ctx off : Nat) : State :=
  s.modDlq (off / 131072) (fun q => match Tab.find (off % 131072 / 32) q.held with
    | some (c, _) => if c = ctx then { q with held := Tab.del (off % 131072 / 32) q.held } else q
    | none => q)

/-! ### Reads at the home slice under a view (R157, R339, R346) -/

/-- The task that an access belongs to, while that launch lives (R347). -/
def State.liveTask (s : State) (tg : Tags) : Option (Nat × Task) :=
  match tg.task with
  | none => none
  | some (l, n) => match s.task l with
    | some t => if t.launch = n ∧ t.st ≠ .aborted then some (l, t) else none
    | none => none

/-- A task's access whose launch is no more: it is discarded (R347). -/
def State.stale (s : State) (tg : Tags) : Bool := tg.task.isSome && (s.liveTask tg).isNone

/-- The versions of a line that a task sees, with their writers' keys. -/
def State.seen (s : State) (lt : Nat × Task) (line : Nat) : List (Nat × Nat × Version) :=
  s.versions.filterMap (fun v =>
    match v.writer with
    | .task u =>
      if v.ctx == lt.2.ctx && v.line == line then
        match s.task u with
        | some ut => if u == lt.1 || s.inView lt.1 lt.2 ut.carbon ut.postmark u then some (ut.postmark, u, v) else none
        | none => none
      else none
    | .remote _ _ _ _ => none)

/-- The latest version in key order, among some, that wrote an offset: its writer and byte. -/
def latestAt (vs : List (Nat × Nat × Version)) (off : Nat) : Option (Nat × Byte) :=
  (vs.foldl (fun (best : Option ((Nat × Nat) × Byte)) v =>
    match Mem.noted v.2.2.cells off with
    | none => best
    | some b => match best with
      | none => some ((v.1, v.2.1), b)
      | some (k, _) => if keyLt k (v.1, v.2.1) then some ((v.1, v.2.1), b) else best) none).map (fun e => (e.1.2, e.2))

/-- One byte read under a view: the byte and the speculative writer it comes from. -/
def State.viewByte (s : State) (lt : Option (Nat × Task)) (versioned : Bool) (pa : Nat) : Byte × Option Nat :=
  match lt, versioned with
  | some lt, true => match latestAt (s.seen lt (pa / 512)) (pa % 512) with
    | some (w, b) => (b, some w)
    | none => (Mem.get s.mem pa, none)
  | _, _ => (Mem.get s.mem pa, none)

/-- What a read of `n` bytes returns, without its effects. -/
def State.viewRead (s : State) (tg : Tags) (versioned : Bool) (pa n : Nat) : List (Byte × Option Nat) :=
  if versioned then (upFrom pa n).map (s.viewByte (s.liveTask tg) true)
  else (Mem.read s.mem pa n).map (fun b => (b, none))

/-- The new edges that a read makes (R346), by writer. -/
def newEdges (lt : Nat × Task) (r : List (Byte × Option Nat)) : List Nat :=
  (distinct (r.filterMap Prod.snd)).filter (fun w => w != lt.1 && !lt.2.edges.contains (.task w))

/-- A read at the home slice: its bytes and effects on signature and edges; or the writer for which it would need a ninth edge (R346). -/
def readOr (s : State) (tg : Tags) (leaf pa n : Nat) : Except Nat (List Byte × State) :=
  let s := touch s pa n
  let versioned := leafVersioned leaf
  let r := s.viewRead tg versioned pa n
  match s.liveTask tg, versioned with
  | some lt, true =>
    let es := newEdges lt r
    if lt.2.edges.length + es.length ≤ 8 then
      let s := (distinct ((upFrom pa n).map (· / 512))).foldl (fun s l => noteRead s tg.task l) s
      .ok (r.map Prod.fst, s.modTask lt.1 (fun t => { t with edges := t.edges ++ es.map Writer.task }))
    else .error (nth 0 es (8 - lt.2.edges.length))
  | _, _ => .ok (r.map Prod.fst, s)

/-- A read at the home slice, none while it would need a ninth edge. -/
def readAt (s : State) (tg : Tags) (leaf pa n : Nat) : Option (List Byte × State) := (readOr s tg leaf pa n).toOption

/-- A read that waits on a writer waits on: the writer has not committed, and its version of a line of the context stands (R346). -/
def State.edgeHeld (s : State) (ctx w : Nat) : Bool := s.versions.any (fun v => v.ctx == ctx && v.writer == .task w)

/-- A read of a task that waits for a ninth edge is counted (R369). -/
def countEdge (s : State) (tg : Tags) : State :=
  match s.liveTask tg with
  | some (l, _) => s.modTask l (fun t => { t with edgeWaits := Nat.min (t.edgeWaits + 1) 0xFFFFFF })
  | none => s

/-! ### Writes at the home slice (R154, R338 to R345) -/

/-- Whether a line holds a speculative version of any writer (R340). -/
def State.specLine (s : State) (pa : Nat) : Bool := s.versions.any (fun v => v.line == pa / 512)

/-- Whether a new version of a line has a place, and whether that is in the overflow area (R341). -/
def State.versionPlace (s : State) (ctx line : Nat) : Option Bool :=
  if (s.versions.filter (fun v => v.line == line && !v.spilled)).length < 3 then some false
  else if (s.versions.filter (fun v => v.ctx == ctx && v.spilled)).length < fld ((s.ctx ctx).word 6) 0 16 * 64 then some true
  else none

/-- The version of a line that a writer has. -/
def State.versionOf (s : State) (ctx line : Nat) (w : Writer) : Option Version :=
  firstWith (fun v => v.ctx == ctx && v.line == line && v.writer == w) s.versions

/-- Writes bytes into the version of a writer, made first if there is none and there is a place for it. -/
def noteVersion (s : State) (ctx launch : Nat) (w : Writer) (pa : Nat) (bytes : List Byte) : Option State :=
  let line := pa / 512
  let put := fun (v : Version) =>
    { v with cells := (bytes.zip (upFrom (pa % 512) bytes.length)).foldl (fun c e => Mem.note c e.2 e.1) v.cells }
  match s.versionOf ctx line w with
  | some _ => some { s with versions := s.versions.map (fun v => if v.ctx == ctx && v.line == line && v.writer == w then put v else v) }
  | none => match s.versionPlace ctx line with
    | none => none
    | some sp => some { s with versions := s.versions ++ [put ⟨ctx, line, w, launch, [], sp⟩] }

/-- Performs a write of bytes within one line: the state and the WCT; none while no version place is free (R342). A write of a
launch that is no more is discarded (R347). -/
def writeLine (s : State) (tg : Tags) (versioned : Bool) (pa : Nat) (bytes : List Byte) : Option (State × Nat) :=
  let s := touch s pa bytes.length
  if s.stale tg then some (s, 0)
  else if !versioned then some ({ s with mem := Mem.write s.mem pa bytes }, s.wctAt pa)
  else match s.liveTask tg with
    | none =>
      let s := abortTasks s (struckBy s (some tg.ctx) none (pa / 512)) false
      some ({ s with mem := Mem.write s.mem pa bytes }, s.wctAt pa)
    | some (l, t) =>
      if (s.versionOf t.ctx (pa / 512) (.task l)).isNone && (s.versionPlace t.ctx (pa / 512)).isNone then none
      else
        let s := abortTasks s (struckBy s (some t.ctx) (some (l, t)) (pa / 512)) false
        if s.stale tg then some (s, 0)
        else (noteVersion s t.ctx t.launch (.task l) pa bytes).map (fun s => (s, s.wctAt pa))

/-- The part of a run of bytes from `pa` that lies in the first line, and the rest. -/
def splitLine (pa : Nat) (bytes : List Byte) : List Byte × List Byte :=
  (bytes.take (512 - pa % 512), bytes.drop (512 - pa % 512))

/-- Performs a write of bytes that may span lines, line by line; the WCT is the largest (R476). -/
def writeSpan (s : State) (tg : Tags) (versioned : Bool) (pa : Nat) (bytes : List Byte) (w : Nat) : Nat → Option (State × Nat)
  | 0 => some (s, w)
  | n + 1 =>
    if bytes.isEmpty then some (s, w)
    else
      let (a, b) := splitLine pa bytes
      match writeLine s tg versioned pa a with
      | none => none
      | some (s, w1) => writeSpan s tg versioned (pa + a.length) b (Nat.max w w1) n

/-- Performs a write at its home slices: the state and the largest WCT. -/
def writeAt (s : State) (tg : Tags) (leaf pa : Nat) (bytes : List Byte) : Option (State × Nat) :=
  writeSpan s tg (leafVersioned leaf) pa bytes 0 (bytes.length + 1)

/-- Sets a granule's tag; a tag of 0 is not listed. -/
def setTag (s : State) (pa : Nat) (t : BitVec 4) : State :=
  { s with tags := if t = 0 then Tab.del (pa / 32) s.tags else Tab.put (pa / 32) t s.tags }

/-! ### The L1 level (R131, R156, R173, R175) -/

/-- The mode of a bank, with a switch to it if one runs (R149). -/
def Cluster.bank (c : Cluster) (k : Nat) : Bank :=
  match Tab.find k c.banks with
  | some b => b
  | none => if k < 48 then ⟨.pad, none⟩ else if k < 56 then ⟨.fifo, none⟩ else ⟨.cache, none⟩

/-- Whether a cluster has a CACHE bank that serves lookups. -/
def Cluster.hasCache (c : Cluster) : Bool := (upFrom 0 64).any (fun k => (c.bank k).mode == .cache && (c.bank k).sw.isNone)

/-- CACHE banks that serve lookups. -/
def Cluster.cacheBanks (c : Cluster) : Nat := ((upFrom 0 64).filter (fun k => (c.bank k).mode == .cache && (c.bank k).sw.isNone)).length

/-- A live copy of the sector of an address (R156): used only while the time is earlier than its expiry minus 4 ns. -/
def copyHit (cs : List Copy) (ctx carbon va now : Nat) : Option Copy :=
  firstWith (fun c => c.ctx == ctx && c.carbon == carbon && c.va == va / 128 && decide (now + 4 < c.exp)) cs

/-- Whether a copy serves an access: a task reads a versioned page through its view, whatever the WCT (R332), so only a copy that holds
the committed data serves it. -/
def State.serves (s : State) (tg : Tags) (c : Copy) : Bool :=
  tg.task.isNone || !leafVersioned c.leaf.toNat || c.data == Mem.read s.mem (c.pa * 128) 128

/-- Whether a copy is no older than what a lane has read of its sector, so that it may serve the lane (R158 point 1). -/
def Lane.mayUse (l : Lane) (c : Copy) : Bool :=
  decide (l.floor ≤ c.filled) && l.seen.all (fun e => e.1 != c.pa || decide (e.2 ≤ c.filled))

/-- The copy that a load of a core hits: in its L1, then in the cluster cache (R131). -/
def State.l1Hit (s : State) (tg : Tags) (tid lid va : Nat) : Option Copy :=
  let l := (s.lane tid lid).getD {}
  let good := fun (c : Copy) => s.serves tg c && l.mayUse c
  let own := copyHit ((s.core tg.core).l1.filter good) tg.ctx tg.carbon va s.now
  match own with
  | some c => some c
  | none =>
    let cl := s.cluster (clusterOf tg.core)
    if cl.cache.isEmpty then none else if cl.hasCache then copyHit (cl.cache.filter good) tg.ctx tg.carbon va s.now else none

/-- What a lane remembers of the sectors that it has read: those of which the core holds a copy that is older than `from_` (R158 point 1). -/
def noteSeen (s : State) (core tid lid pa from_ : Nat) : State :=
  let held := (s.core core).l1 ++ (s.cluster (clusterOf core)).cache
  let old := fun (e : Nat × Nat) => held.any (fun c => c.pa == e.1 && decide (c.filled < e.2))
  match s.lane tid lid with
  | none => s
  | some l => if l.seen.isEmpty && !old (pa / 128, from_) then s
    else s.modLane tid lid (fun l => { l with seen := ((l.seen.filter (fun e => e.1 != pa / 128 || decide (from_ < e.2))) ++ [(pa / 128, from_)]).filter old })

/-- Whether a hit passes the tag check with the tags that the copy brought (R176). -/
def Copy.tagsOk (c : Copy) (tagen : Bool) (ptr n : Nat) : Bool :=
  !tagen || !leafTagged c.leaf.toNat ||
    (upFrom (ptr % 128 / 32) ((ptr % 32 + n + 31) / 32)).all (fun k => (nth 0 c.tags k).toNat == fld ptr 60 4)

/-- Copies of a physical sector are dropped. -/
def dropPa (pa : Nat) (cs : List Copy) : List Copy := cs.filter (fun c => c.pa != pa / 128)

/-- Applies a change of copies to a core's L1 and its cluster's cache. -/
def onCopies (s : State) (core : Nat) (f : List Copy → List Copy) : State :=
  let s := if (s.core core).l1.isEmpty then s else s.modCore core (fun c => { c with l1 := f c.l1 })
  if (s.cluster (clusterOf core)).cache.isEmpty then s else s.modCluster (clusterOf core) (fun c => { c with cache := f c.cache })

/-- A store's bytes are written into the copies of its sector (R131). -/
def storeInto (pa : Nat) (bytes : List Byte) (cs : List Copy) : List Copy :=
  cs.map (fun c => if c.pa = pa / 128 then
    { c with data := (bytes.zip (upFrom (pa % 128) bytes.length)).foldl (fun d e => setAt d e.2 e.1) c.data } else c)

/-- Drops every copy of a physical line of a carbon in a cluster that is held under another address (R175). -/
def dropSynonyms (s : State) (cl ctx carbon va pa : Nat) : State :=
  let keep := fun (c : Copy) => !(c.pa / 4 == pa / 512 && c.carbon == carbon && !(c.ctx == ctx && c.va / 4 == va / 512))
  let s := (upFrom (4 * cl) 4).foldl (fun s k =>
    if (s.core k).l1.all keep then s else s.modCore k (fun c => { c with l1 := c.l1.filter keep })) s
  if (s.cluster cl).cache.all keep then s else s.modCluster cl (fun c => { c with cache := c.cache.filter keep })

/-- Whether two copies are of one physical line of one carbon. -/
def Copy.sameLine (a b : Copy) : Bool := a.pa / 4 == b.pa / 4 && a.carbon == b.carbon

/-- The lines that a cluster holds, each as one copy with the number of the line's latest fill: the entries of its reverse map (R175). -/
def State.heldLines (s : State) (cl : Nat) : List Copy :=
  ((upFrom (4 * cl) 4).foldl (fun cs k => cs ++ (s.core k).l1) [] ++ (s.cluster cl).cache).foldl (fun ls c =>
    if ls.any c.sameLine then ls.map (fun x => if c.sameLine x then { x with filled := Nat.max x.filled c.filled } else x) else ls ++ [c]) []

/-- Makes room in a full reverse map for a line that is not held: the line filled least recently is dropped (R175). -/
def roomInMap (s : State) (cl : Nat) (c : Copy) : State :=
  if (upFrom (4 * cl) 4).foldl (fun n k => n + (s.core k).l1.length) (s.cluster cl).cache.length < 16384 then s
  else
    let ls := s.heldLines cl
    if ls.length < 16384 || ls.any c.sameLine then s
    else match ls with
      | [] => s
      | x :: t =>
        let o := t.foldl (fun o y => if y.filled < o.filled then y else o) x
        (upFrom (4 * cl) 4).foldl (fun s k => s.modCore k (fun e => { e with l1 := e.l1.filter (fun y => !o.sameLine y) }))
          (s.modCluster cl (fun e => { e with cache := e.cache.filter (fun y => !o.sameLine y) }))

/-- A fill: the sector as it stands enters the L1 and, with CACHE banks, the cluster cache, under a lease that the slice records
(R131, R155, R156, R175). The oldest copy goes when a level is full. -/
def fillL1 (s : State) (tg : Tags) (va leaf pa lease : Nat) : State :=
  let cl := clusterOf tg.core
  let s := dropSynonyms (touch s (pa / 128 * 128) 128) cl tg.ctx tg.carbon va pa
  let e := s.leaseCut tg.ctx va (s.now + lease)
  let c : Copy := ⟨tg.ctx, tg.carbon, va / 128, pa / 128, Mem.read s.mem (pa / 128 * 128) 128, e, BitVec.ofNat 64 leaf,
    (upFrom 0 4).map (fun k => s.tagAt (pa / 128 * 128 + 32 * k)), s.ids⟩
  let s := roomInMap { s with ids := s.ids + 1 } cl c
  let put := fun (cap : Nat) (cs : List Copy) =>
    let cs := cs.filter (fun x => !(x.ctx == c.ctx && x.carbon == c.carbon && x.va == c.va))
    (if cs.length < cap then cs else cs.tail) ++ [c]
  let s := s.modCore tg.core (fun x => { x with l1 := put 2048 x.l1 })
  let s := if (s.cluster cl).hasCache then s.modCluster cl (fun x => { x with cache := put (2048 * x.cacheBanks) x.cache }) else s
  { s with leases := Tab.put (pa / 512) (Nat.max e (Tab.get 0 (pa / 512) s.leases)) s.leases }

end Sys2Proof.Machine
end

