-- ==== Sys2Proof/Machine/Holes.lean ====
section
/-! DEFINITION. Holes.lean: the pigeonhole engine's shared operations (R218 to R247): objects and handles, backing, collection points,
waiting acts and their service, courier writes, pad waits, spill mode. -/

namespace Sys2Proof.Machine

open Sys2Proof

/-! ### Objects (R218 to R222) -/

/-- The live pigeonhole of a scope, owner and number. -/
def State.pigeon (s : State) (scope owner num : Nat) : Option Pigeon :=
  firstWith (fun p => p.scope == scope && p.owner == owner && p.num == num) s.pigeons

/-- Whether two pigeonholes are one. -/
def Pigeon.same (p q : Pigeon) : Bool := p.scope == q.scope && p.owner == q.owner && p.num == q.num

/-- A changed pigeonhole takes its place. -/
def State.setPigeon (s : State) (p : Pigeon) : State := { s with pigeons := s.pigeons.map (fun q => if q.same p then p else q) }

/-- COUNT of R222. -/
def Pigeon.count (p : Pigeon) : Nat := if p.kind = 2 then p.slots.length else p.entries.length
/-- FREE of R228. -/
def Pigeon.room (p : Pigeon) : Nat := p.depth - p.count - p.resv
/-- Width of an entry in bytes (R220). -/
def kindWidth (kind : Nat) : Nat := if kind = 1 then 8 else 4
/-- Backing units of 1 KiB (R220). -/
def holeUnits (kind depth : Nat) : Nat := ceilDiv (depth * kindWidth kind) 1024

/-- Numbers of pigeonholes of a scope (R218). -/
def holeNumbers (scope : Nat) : Nat := if scope = 0 then 16 else if scope = 1 then 64 else 512

/-- The cluster that holds a team or cluster pigeonhole, if it is placed. -/
def State.holeCluster (s : State) (p : Pigeon) : Option Nat :=
  if p.scope = 0 then ((s.team p.owner).bind Team.place).map (fun c => clusterOf c.1)
  else if p.scope = 1 then some p.owner else none

/-- Units of a FIFO bank of a cluster that back live pigeonholes. -/
def State.bankUnits (s : State) (cl bank : Nat) : Nat :=
  sumOf (s.pigeons.map (fun p => if s.holeCluster p == some cl then Tab.get 0 bank p.units else 0))

/-- Pigeonholes that a bank of a cluster backs. -/
def State.bankHoles (s : State) (cl bank : Nat) : Nat :=
  (s.pigeons.filter (fun p => s.holeCluster p == some cl && (Tab.find bank p.units).isSome)).length

/-- Places units in the FIFO banks of a cluster that are not switching, the lowest first, given what is used already. -/
def placeUnits (s : State) (cl : Nat) (used : Nat → Nat) : List Nat → Nat → Option (List (Nat × Nat))
  | [], n => if n = 0 then some [] else none
  | b :: t, n =>
    if n = 0 then some []
    else
      let k := (s.cluster cl).bank b
      let room := if k.mode == .fifo && k.sw.isNone then 256 - used b else 0
      if room = 0 then placeUnits s cl used t n
      else (placeUnits s cl used t (n - Nat.min room n)).map (fun r => (b, Nat.min room n) :: r)

/-- Backing for a pigeonhole of a cluster. -/
def holeBacking (s : State) (cl kind depth : Nat) : Option (List (Nat × Nat)) :=
  placeUnits s cl (s.bankUnits cl) (upFrom 0 64) (holeUnits kind depth)

/-- Units of 1 KiB that a slice agent has free for package pigeonholes (R220). -/
def State.agentRoom (s : State) (num : Nat) : Nat :=
  16 - sumOf ((s.pigeons.filter (fun p => p.scope == 2 && p.num % 64 == num % 64)).map (fun p => holeUnits p.kind p.depth))

/-- The owner that a handle of a scope names for a lane: its team, its cluster, or 0 (R219). -/
def handleOwner (scope tid core : Nat) : Nat := if scope = 0 then tid else if scope = 1 then clusterOf core else 0

/-- The live pigeonhole of the lane's context that a handle names, by check 1 of R224. -/
def State.named (s : State) (tid core ctx : Nat) (h : Word) : Option Pigeon :=
  let scope := fld h.toNat 30 2
  let num := fld h.toNat 0 12
  if scope = 3 ∨ fld h.toNat 12 18 ≠ 0 ∨ holeNumbers scope ≤ num then none
  else match s.pigeon scope (handleOwner scope tid core) num with
    | some p => if p.ctx = ctx then some p else none
    | none => none

/-- The tlin of the team that owns a team object. -/
def State.ownerTlin (s : State) (scope owner : Nat) : Option Nat := if scope = 0 ∨ scope = 3 then (s.team owner).map Team.tlin else none

/-! ### Values served to lanes -/

/-- A waiting act that owed a value has been served: the value is on its way to D (R21); the empty flag of a poll is never poisoned (R228). -/
def serveValue (s : State) (n : Nat) (a : PAct) (lo hi : Word) (poison : Bool) : State :=
  { s with
    pacts := Tab.del n s.pacts
    flights := Tab.put n { tid := a.tid, lid := a.lid, tags := ⟨0, 0, 0, none⟩, kind := .done hi lo poison, d := a.d, wide := a.wide, clean := a.kind == .poll,
                           h := a.h, slot := a.slot, cls := 5 } s.flights }

/-- Where a lane goes on after the word of a waiting act. -/
def PAct.next (a : PAct) : Addr × Option Nat :=
  if a.slot < a.count then (a.h, some (a.slot + 1)) else (a.h + BitVec.ofNat 56 (8 * (a.count + 2)), none)

/-- A lane's waiting act has been performed, and the lane goes on. -/
def servePass (s : State) (n : Nat) (a : PAct) : State :=
  goOn { s with pacts := Tab.del n s.pacts } a.tid a.lid a.next.1 a.next.2

/-! ### Collection points (R232 to R235) -/

/-- complete() of R233, at most `n` phases: the point and how many phases completed. -/
def Point.complete (p : Point) : Nat → Point × Nat
  | 0 => (p, 0)
  | n + 1 =>
    if p.arrived < p.expect then (p, 0)
    else
      let r := Point.complete { p with
        arrived := p.arrived - p.expect
        plast := if p.pcur then p.phase else p.plast
        pvalid := p.pvalid || p.pcur
        phase := (p.phase + 1) % 2 ^ 32
        pcur := false, expect := p.dflt, once := false } n
      (r.1, r.2 + 1)

/-- The condition of an await of phase `p`, and what it delivers (R235). -/
def Point.awaited (pt : Point) (p : Nat) : Option (Word × Bool) :=
  let x := (pt.phase + 2 ^ 32 - p) % 2 ^ 32
  if 1 ≤ x ∧ x < 2 ^ 31 then some (BitVec.ofNat 32 pt.phase, pt.pvalid && decide ((pt.plast + 2 ^ 32 - p) % 2 ^ 32 < x)) else none

/-- Awaits whose phase has completed deliver (R235). -/
def serveAwaits (s : State) (tid num : Nat) (pt : Point) : State :=
  (s.pacts.filter (fun e => e.2.scope == 3 && e.2.owner == tid && e.2.num == num)).foldl (fun s e =>
    match e.2.kind with
    | .await p => match pt.awaited p with
      | some (v, x) => serveValue s e.1 e.2 v 0 x
      | none => s
    | _ => s) s

/-- Sets a team's point after an act by a lane, delivers awaits, and fires sync watchpoints: `arr` for an arrival of weight above 0, and the
phase flip for each phase that completes (R235). -/
def pointAct (s : State) (tid num : Nat) (pt : Point) (byTid byLid : Nat) (arr : Bool) : State :=
  let (q, n) := pt.complete (pt.arrived + 1)
  let s := s.modTeam tid (fun t => { t with points := Tab.put num q t.points })
  let s := serveAwaits s tid num q
  syncFire s byTid byLid 3 num (s.ownerTlin 3 tid) ((if arr then [0] else []) ++ (if 0 < n then [1] else []) ++ List.replicate n 2)

/-- arrive of weight `w` at a point of a team, by a lane (R233, R235). -/
def arriveAt (s : State) (tid num w : Nat) (poisoned : Bool) (byTid byLid : Nat) : State :=
  match (s.team tid).bind (fun t => Tab.find num t.points) with
  | none => s
  | some pt =>
    if w = 0 then s
    else pointAct s tid num { pt with arrived := pt.arrived + w, pcur := pt.pcur || poisoned } byTid byLid true

/-! ### Queues and racks (R228 to R231) -/

/-- Whether a waiting act is on a pigeonhole. -/
def PAct.on (p : Pigeon) (a : PAct) : Bool := a.scope == p.scope && a.owner == p.owner && a.num == p.num

def PActKind.isPush : PActKind → Bool
  | .push _ => true
  | _ => false
def PActKind.isTake : PActKind → Bool
  | .pop | .poll | .rtake => true
  | _ => false
def PActKind.isStamp : PActKind → Bool
  | .stamp _ => true
  | _ => false
def PActKind.isPut : PActKind → Bool
  | .rput _ _ => true
  | _ => false

/-- Acts of one sort that wait on a pigeonhole, in order of arrival. -/
def State.waiting (s : State) (p : Pigeon) (sort : PActKind → Bool) : List (Nat × PAct) :=
  s.pacts.filter (fun e => PAct.on p e.2 && sort e.2.kind)

/-- Chunks of a context's overflow pool that are free (R243). -/
def State.chunksFree (s : State) (ctx : Nat) : Nat :=
  fld ((s.ctx ctx).word 3) 5 11 - sumOf ((s.pigeons.filter (fun p => p.ctx == ctx)).map Pigeon.chunks)

/-- Appends an entry to the overflow extension, taking a chunk where one is needed; none where no chunk is free (R242, R243). The
bytes of the pool's range are not written (assumption log 127). -/
def Pigeon.extend (p : Pigeon) (free : Nat) (v : Entry) : Option Pigeon :=
  let need := ceilDiv ((p.spill.length + 1) * kindWidth p.kind) 65536
  if need ≤ p.chunks then some { p with spill := p.spill ++ [v] }
  else if 0 < free then some { p with spill := p.spill ++ [v], chunks := p.chunks + 1 }
  else none

/-- Where an unstamped push goes now: storage, the extension, or nowhere yet (R228, R229, R242). In spill mode with nothing spilled
and no chunk free, a free slot serves it. -/
def Pigeon.pushNow (p : Pigeon) (free : Nat) (v : Entry) : Option Pigeon :=
  if p.spm then match p.extend free v with
    | some q => some q
    | none => if p.spill.isEmpty && decide (0 < p.room) then some { p with entries := p.entries ++ [v] } else none
  else if 0 < p.room then some { p with entries := p.entries ++ [v] } else none

/-- A stamped push (R228): it never waits. With entries spilled, the reserved slot takes the oldest of them, and the new entry stands
behind the others, so that entries leave in push order (R242). -/
def Pigeon.pushStamped (p : Pigeon) (v : Entry) : Pigeon :=
  match p.spill with
  | [] => { p with resv := p.resv - 1, entries := p.entries ++ [v] }
  | x :: t => { p with resv := p.resv - 1, entries := p.entries ++ [x], spill := t ++ [v] }

/-- Sync transitions of R436 for a pigeonhole, as it was and after an act: `sort` 0 a performed push or rput, 1 a take, 2 another act. -/
def holeTrans (sort : Nat) (was p : Pigeon) : List Nat :=
  (if sort = 0 then [0] else [])
    ++ (if p.count + p.resv = p.depth ∧ was.count + was.resv ≠ was.depth then [1] else [])
    ++ (if sort = 1 ∧ p.count = 0 ∧ was.count ≠ 0 then [2] else [])

/-- A pigeonhole after a performed act of a lane. -/
def holeDone (s : State) (p : Pigeon) (sort byTid byLid : Nat) : State :=
  syncFire (s.setPigeon p) byTid byLid p.scope p.num (s.ownerTlin p.scope p.owner)
    (holeTrans sort ((s.pigeon p.scope p.owner p.num).getD p) p)

/-- What an rput meets (R230). -/
inductive RputNow
  | stale
  | beyond
  | put (p : Pigeon)
deriving DecidableEq, Repr

def Pigeon.rputNow (p : Pigeon) (t : Nat) (v : Entry) : RputNow :=
  let dist := (t + 2 ^ 32 - p.headt) % 2 ^ 32
  if 2 ^ 31 ≤ dist then .stale
  else if p.depth ≤ dist then .beyond
  else if (Tab.find (t % p.depth) p.slots).isSome then .stale
  else .put { p with slots := Tab.put (t % p.depth) v p.slots }

/-- The head of a rack taken (R231). -/
def Pigeon.rtakeNow (p : Pigeon) : Option (Entry × Pigeon) :=
  (Tab.find (p.headt % p.depth) p.slots).map (fun v =>
    (v, { p with slots := Tab.del (p.headt % p.depth) p.slots, headt := (p.headt + 1) % 2 ^ 32 }))

/-- What a waiting act comes to if it is served now (R228 to R231). -/
inductive Served
  | no
  | pass (p : Pigeon)                                   -- a push or rput performed
  | stale                                               -- an rput that traps
  | grant (p : Pigeon) (n : Nat)                        -- a stamp granted
  | value (p : Pigeon) (lo hi : Word) (poison : Bool)   -- a take served
deriving DecidableEq, Repr

/-- Whether an act is the first of some. -/
def isFirst (n : Nat) (l : List (Nat × PAct)) : Bool :=
  match l with
  | e :: _ => e.1 == n
  | [] => false

/-- The service of a waiting act in the orders of R226, R229 and R230. -/
def serveOf (s : State) (n : Nat) (a : PAct) (p : Pigeon) : Served :=
  match a.kind with
  | .push v =>
    if isFirst n (s.waiting p PActKind.isPush) then match p.pushNow (s.chunksFree p.ctx) v with
      | some q => .pass q
      | none => .no
    else .no
  | .stamp c =>
    if (s.waiting p PActKind.isPush).isEmpty && isFirst n (s.waiting p PActKind.isStamp) && decide (c ≤ p.room) && !p.spm then
      .grant { p with resv := p.resv + c } c
    else .no
  | .pop | .poll =>
    if isFirst n (s.waiting p PActKind.isTake) then match p.entries with
      | e :: t => .value { p with entries := t } (e.v.extractLsb' 0 32) (if a.kind == .poll then 0 else e.v.extractLsb' 32 32) e.poison
      | [] => if a.kind == .poll && p.spill.isEmpty then .value p 0 1 false else .no
    else .no
  | .rtake =>
    if isFirst n (s.waiting p PActKind.isTake) then match p.rtakeNow with
      | some (e, q) => .value q (e.v.extractLsb' 0 32) 0 e.poison
      | none => .no
    else .no
  | .rput t v =>
    if (s.waiting p PActKind.isPut).any (fun e => decide (e.1 < n) && (match e.2.kind with
        | .rput u w => p.rputNow u w != .beyond
        | _ => false)) then .no
    else match p.rputNow t v with
      | .stale => .stale
      | .beyond => .no
      | .put q => .pass q
  | .await _ => .no

/-- Whether some waiting act of a pigeonhole can be served now: a new act then waits behind it. -/
def State.servable (s : State) (p : Pigeon) (sort : PActKind → Bool) : Bool :=
  (s.waiting p sort).any (fun e => serveOf s e.1 e.2 p != .no)

/-- A waiting act is performed, if it can be (R229). -/
def serveAct (s : State) (n : Nat) : State :=
  match Tab.find n s.pacts with
  | none => s
  | some a => match s.pigeon a.scope a.owner a.num with
    | none => s
    | some p => match serveOf s n a p with
      | .no => s
      | .pass q => servePass (holeDone s q 0 a.tid a.lid) n a
      | .stale =>
        raiseTrap { s with pacts := Tab.del n s.pacts } a.tid a.lid
          ⟨a.h, causeWord 0x64 5 a.slot false false a.count, match a.kind with
            | .rput t _ => BitVec.ofNat 32 t
            | _ => 0⟩
      | .grant q c => serveValue (holeDone s q 2 a.tid a.lid) n a (BitVec.ofNat 32 c) 0 false
      | .value q lo hi x => serveValue (holeDone s q 1 a.tid a.lid) n a lo hi x

/-- Stamp requests that FREE has reached are granted before a push arrives: the oldest first, at most `n` (R229 rule 2). -/
def grantStamps (s : State) (scope owner num : Nat) : Nat → State
  | 0 => s
  | n + 1 => match s.pigeon scope owner num with
    | none => s
    | some p => match s.waiting p PActKind.isStamp with
      | e :: _ => if serveOf s e.1 e.2 p = .no then s else grantStamps (serveAct s e.1) scope owner num n
      | [] => s

/-! ### Spill mode (R242) -/

/-- SPILL_MODE_ENTRY. -/
def spillEntry (s : State) (p : Pigeon) : State :=
  match s.waiting p PActKind.isPush with
  | e :: _ => if p.scope ≤ 1 && p.kind < 2 && !p.spm && decide (e.2.since + 4096 < s.cyc) then s.setPigeon { p with spm := true } else s
  | [] => s

/-- SPILL_MOVE: the oldest spilled entry moves into a free slot; with nothing spilled and no push waiting, spill mode ends and the
chunks are returned. -/
def spillMove (s : State) (p : Pigeon) : State :=
  if !p.spm then s
  else match p.spill with
    | [] => if (s.waiting p PActKind.isPush).isEmpty then s.setPigeon { p with spm := false, chunks := 0 } else s
    | x :: t =>
      if 0 < p.room then
        let q := { p with entries := p.entries ++ [x], spill := t }
        s.setPigeon (if t.isEmpty then { q with spm := false, chunks := 0 } else q)
      else s

/-! ### Courier writes (R237) -/

/-- Whether a register of a lane waits for a courier write. -/
def State.isOpen (s : State) (tid lid reg : Nat) : Bool :=
  match s.team tid with
  | some t => (match t.loc with
      | .resident _ _ => true
      | .saving _ _ | .saved => false) && (nth {} t.lanes lid |>.reg reg).st == .opn
  | none => false

/-- The fill of R237 step 4: value and poison bit, then the point bump by the sender. -/
def courierInto (s : State) (c : Courier) : State :=
  let s := s.modLane c.tid c.lid (fun l => l.setReg c.reg c.v c.poison)
  match c.point with
  | some pt => arriveAt s c.tid pt 1 false c.byTid c.byLid
  | none => s

/-- COURIER_FILL: a held write fills its register if that is empty-open and no earlier one is held for it. -/
def courierFillNow (s : State) (n : Nat) : State :=
  match Tab.find n s.couriers with
  | none => s
  | some c =>
    if s.isOpen c.tid c.lid c.reg && !s.couriers.any (fun e => decide (e.1 < n) && e.2.tid == c.tid && e.2.lid == c.lid && e.2.reg == c.reg) then
      courierInto { s with couriers := Tab.del n s.couriers } c
    else s

/-- The oldest write held for a register fills it at once when it has become empty-open (R88). -/
def fillHeld (s : State) (tid lid reg : Nat) : State :=
  match firstWith (fun (e : Nat × Courier) => e.2.tid == tid && e.2.lid == lid && e.2.reg == reg) s.couriers with
  | some e => courierFillNow s e.1
  | none => s

/-- Courier writes held at a core (R237 step 2). -/
def State.heldAt (s : State) (core : Nat) : Nat :=
  (s.couriers.filter (fun e => match (s.team e.2.tid).bind Team.place with
    | some (c, _) => c == core
    | none => false)).length

/-- A lane has exited: what is held for it is discarded, with the point bump still performed, and what it waits for is withdrawn
(R247). -/
def dropCouriers (s : State) (tid lid : Nat) : State :=
  let mine := s.couriers.filter (fun e => e.2.tid == tid && e.2.lid == lid)
  mine.foldl (fun s e => match e.2.point with
    | some pt => arriveAt s tid pt 1 false e.2.byTid e.2.byLid
    | none => s) { s with couriers := s.couriers.filter (fun e => !(e.2.tid == tid && e.2.lid == lid)) }

/-! ### Waits on pad words (R238) -/

/-- After a pad write: every lane of the team whose word now differs passes. -/
def passWords (s : State) (tid : Nat) : State :=
  match s.team tid with
  | none => s
  | some t =>
    (upFrom 0 t.lanes.length).foldl (fun s lid => match (nth {} t.lanes lid).wait with
      | some (.word off v h slot) => if BitVec.ofNat 32 (Mem.num t.pad off 4) = v then s else goOn s tid lid h slot
      | _ => s) s

/-! ### Team objects -/

/-- The team objects that a configuration block of 256 bytes describes: pigeonholes (number, kind, depth) and points (R221). -/
def configHoles (cfg : List Byte) : List (Nat × Nat × Nat) :=
  (upFrom 0 16).filterMap (fun n =>
    let w := leNat ((cfg.drop (8 * n)).take 8)
    if fld w 0 13 = 0 then none else some (n, fld w 16 2, fld w 0 13))

def configPoints (cfg : List Byte) : List (Nat × Point) :=
  (upFrom 0 24).filterMap (fun n =>
    let c := fld (leNat ((cfg.drop (128 + 4 * n)).take 4)) 0 16
    if c = 0 then none else some (n, { expect := c, dflt := c }))

/-- Whether a configuration block keeps R221. -/
def configGood (cfg : List Byte) : Bool :=
  (upFrom 0 16).all (fun n =>
    let w := leNat ((cfg.drop (8 * n)).take 8)
    fld w 13 3 == 0 && fld w 18 46 == 0 && decide (fld w 16 2 < 3) && decide (fld w 0 13 ≤ 4096))
    && (upFrom 0 24).all (fun n =>
      let w := leNat ((cfg.drop (128 + 4 * n)).take 4)
      fld w 16 16 == 0 && decide (fld w 0 16 ≤ 1024))
    && (cfg.drop 224).all (· == 0)

/-- Backing for the pigeonholes of a team on a cluster: placed in order of number; none if they do not fit (R221). -/
def teamBacking (s : State) (cl : Nat) (holes : List (Nat × Nat × Nat)) (used : Nat → Nat) : Option (List (List (Nat × Nat))) :=
  match holes with
  | [] => some []
  | (_, kind, depth) :: t =>
    match placeUnits s cl used (upFrom 0 64) (holeUnits kind depth) with
    | none => none
    | some us => (teamBacking s cl t (fun b => used b + Tab.get 0 b us)).map (us :: ·)

end Sys2Proof.Machine
end

