-- ==== Sys2Proof/Machine/Issue.lean ====
section
/-! DEFINITION. Issue.lean: how a word runs: fetching a clause (R36 to R40), wait sets (R39), forming groups (R70 to R72), issuing
(R73), the places of R56, and what a word leaves behind (R43, R70, R74, R78, R79). -/

namespace Sys2Proof.Machine

open Sys2Proof

/-! ### Clause headers (R37, R38) -/

def hdrCount (h : DWord) : Nat := fld h.toNat 0 4
def hdrEclass (h : DWord) : Nat := fld h.toNat 4 4
def hdrReform (h : DWord) : Bool := h.getLsbD 8
def hdrYield (h : DWord) : Bool := h.getLsbD 9
def hdrWait (h : DWord) : BitVec 5 := h.extractLsb' 10 5
/-- A header that raises illegal-clause (R38). -/
def hdrBad (h : DWord) : Bool :=
  hdrEclass h == 1 || hdrEclass h == 2 || hdrEclass h == 3 || decide (13 ≤ hdrEclass h) || fld h.toNat 16 16 != 0

/-- The fall-through of a clause (R36). -/
def fallThrough (h : Addr) (hdr : DWord) : Addr := h + BitVec.ofNat 56 (8 * (hdrCount hdr + 2))

/-! ### Records of translation failures (R185) -/

/-- A record of kind LOAD, WRITE or FETCH, or FABRIC (R185, R417). -/
def accRec (kind faddr mask tlin : Nat) (h : Addr) (state role lane cause slot cls opreg ctx : Nat) (spec : Bool) : BitVec 256 :=
  recOf [(192, faddr), (160, mask), (128, tlin), (64, h.toNat), (62, state), (58, role), (48, lane), (40, cause), (36, slot),
    (32, cls), (24, opreg), (16, ctx), (15, b2n spec), (0, kind)]

/-- MASK of a block of 32 lanes from `lane` on. -/
def maskOf (lane : Nat) (lids : List Nat) : Nat := sumOf ((distinct lids).map (fun l => 2 ^ (l - lane)))

/-! ### Fetching (R40, R177) -/

/-- What fetching a clause gives. -/
inductive Fetch
  | ok (hdr : DWord) (words : List DWord)
  | page (p : Nat)                          -- a page to be served
  | edge (w addr : Nat)                     -- a ninth reader edge, on a task, for the word at an address (R346)
  | fail (addr : Nat) (cause count : Nat)
deriving DecidableEq, Repr

/-- What stops the fetch of one word. -/
inductive FetchStop
  | page (p : Nat)
  | edge (w : Nat)
  | fail (cause : Nat)
deriving DecidableEq, Repr

/-- Fetches one 8-byte word: a read of a task's lane under its view, with its signature bit and edges (R339, R344, R346). The
dead-letter window is not executable (assumption log 126). -/
def fetchWord (s : State) (tg : Tags) (addr : Nat) (refused : Option Nat) : Except FetchStop DWord × State :=
  if (s.window tg.ctx addr).isSome then (.error (.fail 4), s) else
  match translateOr s (clusterOf tg.core) tg.ctx addr .exe 8 with
  | (.ok pa leaf _, s) => match readOr s tg leaf pa 8 with
    | .ok (b, s) => (.ok (BitVec.ofNat 64 (leNat b)), s)
    | .error w => (.error (.edge w), s)
  | (.fail c _, s) =>
    let page := s.pageAt tg.ctx addr
    if c = 1 then (if refused = some page ∧ (s.svc tg.ctx page).isNone then (.error (.fail 2), s) else (.error (.page page), s))
    else (.error (.fail c), s)

/-- Fetches `n` slot words from an address on. -/
def fetchWords (s : State) (tg : Tags) (count : Nat) (refused : Option Nat) (addr : Addr) : Nat → List DWord → Fetch × State
  | 0, acc => (.ok 0 acc.reverse, s)
  | n + 1, acc => match fetchWord s tg addr.toNat refused with
    | (.ok w, s) => fetchWords s tg count refused (addr + 8) n (w :: acc)
    | (.error (.page p), s) => (.page p, s)
    | (.error (.edge w), s) => (.edge w addr.toNat, s)
    | (.error (.fail c), s) => (.fail addr.toNat c count, s)

/-- Fetches the clause at `h`: header and slot words together, before the header is checked and the wait set is looked at, an order that
the spec leaves open (R38 to R40, assumption log 109). Lanes that resume at a slot above COUNT, the header having been changed meanwhile,
fetch the words up to theirs. -/
def fetchClause (s : State) (tg : Tags) (h : Addr) (slot : Nat) (refused : Option Nat) : Fetch × State :=
  match fetchWord s tg h.toNat refused with
  | (.error (.page p), s) => (.page p, s)
  | (.error (.edge w), s) => (.edge w h.toNat, s)
  | (.error (.fail c), s) => (.fail h.toNat c 0, s)
  | (.ok hdr, s) => match fetchWords s tg (hdrCount hdr) refused (h + 8) (Nat.max (hdrCount hdr) slot + 1) [] with
    | (.ok _ ws, s) => (.ok hdr ws, s)
    | r => r

/-! ### What a lane has outstanding (R39) -/

/-- An access that still is to be performed at a home slice as a write. -/
def FKind.isWrite : FKind → Bool
  | .st _ | .rmw _ _ | .red _ _ | .qpush | .qpop | .tagw => true
  | .ld _ _ | .win _ _ | .pld _ _ | .tagr | .ldp _ _ | .xlq _ _ | .pref _ | .kvx _ _ _ | .done _ _ _ | .fabLd _ | .fabSt _ | .fabRmw => false

/-- An access whose request is out (R414). -/
def FKind.isFab : FKind → Bool
  | .fabLd _ | .fabSt _ | .fabRmw => true
  | .ld _ _ | .win _ _ | .pld _ _ | .tagr | .ldp _ _ | .xlq _ _ | .pref _ | .kvx _ _ _ | .done _ _ _ | .st _ | .rmw _ _ | .red _ _ | .qpush | .qpop
  | .tagw => false

/-- LOADS (R39). -/
def Lane.loadsDone (l : Lane) : Bool :=
  l.regs.all (fun r => match r.st with
    | .pend _ port => !port
    | .full | .opn => true)

/-- STORES (R39). -/
def State.storesDone (s : State) (tid lid : Nat) : Bool :=
  s.flights.all (fun e => !(e.2.tid == tid && e.2.lid == lid && e.2.kind.isWrite))

/-- ENGINE (R39). -/
def State.engineDone (s : State) (tid lid : Nat) : Bool :=
  s.cmds.all (fun e => !(e.2.tid == tid && e.2.lid == lid && e.2.st == .queued))

/-- Whether every selected condition of a wait set holds for a lane (R39). -/
def State.waitSetHolds (s : State) (core tid lid : Nat) (t : Team) (l : Lane) (bits : BitVec 5) : Bool :=
  (!bits.getLsbD 0 || l.loadsDone)
    && (!bits.getLsbD 1 || s.storesDone tid lid)
    && (!bits.getLsbD 2 || (s.storesDone tid lid && decide (l.wct < s.now)))
    && (!bits.getLsbD 3 || s.engineDone tid lid)
    && (!bits.getLsbD 4 || s.atFront core t.lseq)

/-- The tags of a team's accesses (R30). -/
def State.tagsOf (s : State) (core : Nat) (t : Team) : Tags :=
  { core := core, ctx := s.ctxOf t, carbon := s.carbonOf t.lseq,
    task := (s.task t.lseq).map (fun k => (t.lseq, k.launch)) }

/-! ### Entering a clause (R38 to R40, R71) -/

/-- Lanes go to the wait list. -/
def waitLanes (s : State) (tid : Nat) (lids : List Nat) (w : Wait) : State :=
  lids.foldl (fun s lid => s.modLane tid lid (fun l => { l with wait := some w })) s

/-- A fetch fault: one FETCH record per block of 32 lanes, and the trap at `h` for each of them (R177, R183 to R185). -/
def fetchFault (s : State) (core tid : Nat) (t : Team) (h : Addr) (addr cause count : Nat) (lids : List Nat) : State :=
  (distinct (lids.map (· / 32))).foldl (fun s blk =>
    let mine := lids.filter (fun l => l / 32 == blk)
    let r := accRec 0x12 addr (maskOf (32 * blk) mine) t.tlin h 3 (nth {} t.lanes (mine.headD 0)).role (32 * blk) cause 0 0 0
      (s.ctxOf t) (s.isSpec t.lseq)
    match post s (dieOf core) (s.ctxOf t) [r] (.lanes tid mine h (causeWord 0x41 0 0 true false count) cause) with
    | (s, some _) => s
    | (s, none) => waitLanes s tid mine (.post (s.ids - 1))) s

/-- Puts lanes in an active group of a scheduler at a slot of a clause, at slots 0 and up in rising team-lane index (R71). -/
def joinGroup (s : State) (core k gid tid : Nat) (h : Addr) (hdr : DWord) (words : List DWord) (slot : Nat) (lids : List Nat)
    (entry : Bool) : State :=
  if lids.isEmpty then s
  else
    let g : Group := { gid := gid, tid := tid, h := h, hdr := hdr, words := words, slot := slot,
                       lanes := (upFrom 0 lids.length).zip lids, since := s.cyc, busy := s.cyc, entry := entry, own := entry }
    lids.foldl (fun s lid => s.modLane tid lid (fun l => { l with
        h := h, slot := some slot, refused := if l.slot == some slot then l.refused else none
        passing := if l.slot == some slot then l.passing else []
        counted := if l.slot == some slot then l.counted else [] }))
      (s.modSched core k (fun x => { x with groups := x.groups ++ [g] }))

/-- Lanes whose fetch needs a ninth edge wait on the writer; the read is counted once (R346, R369). -/
def waitFetch (s : State) (core tid : Nat) (t : Team) (lids : List Nat) (u addr : Nat) : State :=
  let s := if lids.any (fun lid => (nth {} t.lanes lid).counted.contains addr) then s else countEdge s (s.tagsOf core t)
  lids.foldl (fun s lid => s.modLane tid lid (fun l => { l with wait := some (.edges u), counted := insNat addr l.counted })) s

/-- A lane that steps has entered its clause, which is the one word of its step (R432). -/
def enterStep (s : State) (tid lid : Nat) (h : Addr) : State :=
  endStep (s.modLane tid lid (fun l => { l with h := h, slot := some 0, refused := none, passing := [], counted := [] })) tid lid

/-- Lanes of a team, in rising order, enter the clause at `h`, or resume inside it at a slot (R40), where a header that has been changed
meanwhile is not checked again (assumption log 109): code breakpoints at the header
(R434), traps of the header, wait sets, and a group of the others. -/
def enterClause (s : State) (core k gid tid : Nat) (h : Addr) (slot : Option Nat) (lids : List Nat) (entry : Bool) : State :=
  match s.team tid with
  | none => s
  | some t =>
    let (s, stopped) := if slot.isNone then codeFire s tid t h.toNat lids else (s, [])
    let lids := lids.filter (fun lid => !stopped.contains lid)
    if lids.isEmpty then s else
    let refused := firstSome (fun lid => (nth {} t.lanes lid).refused) lids
    match fetchClause s (s.tagsOf core t) h (slot.getD 0) refused with
    | (.page p, s) => waitLanes (request s (s.ctxOf t) p (dieOf core)) tid lids (.fetch p)
    | (.edge u a, s) => waitFetch s core tid t lids u a
    | (.fail a c n, s) => fetchFault s core tid t h a c n lids
    | (.ok hdr words, s) =>
      match slot with
      | some j => joinGroup s core k gid tid h hdr words j lids entry
      | none =>
        if hdrBad hdr then lids.foldl (fun s lid => hdrTrap s tid lid h 1 (hdrCount hdr) 0) s
        else
          let ok := lids.filter (fun lid => s.waitSetHolds core tid lid t (nth {} t.lanes lid) (hdrWait hdr))
          let no := lids.filter (fun lid => !ok.contains lid)
          match ok.filter (fun lid => (nth {} t.lanes lid).stepping.isSome) with
          | lid :: _ => enterStep s tid lid h
          | [] => joinGroup (waitLanes s tid no (.wset (hdrWait hdr))) core k gid tid h hdr words 0 ok entry

/-! ### Choosing a bin (R72) -/

/-- How long the oldest lane of a bin has waited. -/
def Bin.age (b : Bin) (cyc : Nat) : Nat := maxOf (b.lanes.map (fun e => cyc - e.2))

/-- The PC of a group's next word (R72). -/
def Group.pc (g : Group) : Addr := g.h + BitVec.ofNat 56 (8 * (g.slot + 1))

/-- The deliveries of a team whose first words have not issued, in their order (R103). -/
def Team.deliveries (t : Team) : List TrapPend := sortBy (fun p => p.cyc * 2 ^ 66 + p.h.toNat * 2 ^ 10 + p.lid) t.traps

/-- A trap-entry group waits to be formed on a scheduler (R72 rule 1): that of the first delivery of its team that has none. One that waits at
TVEC, or that a debugger has halted, keeps those behind it from being formed, which could not issue before it (R103) and would fill the
places of the scheduler (R76). -/
def trapWaiting (s : State) (core k : Nat) : Option (Nat × TrapPend) :=
  firstSome (fun (e : Nat × Team) =>
    match e.2.running with
    | some (c, slot) =>
      if c = core then
        match firstWith (fun p => !(s.sched core (schedOf slot p.lid)).groups.any (fun g =>
            g.tid == e.1 && g.entry && g.lanes.any (fun x => x.2 == p.lid))) e.2.deliveries with
        | some p =>
          if schedOf slot p.lid = k ∧ p.cyc < s.cyc ∧ p.waits = false ∧ (nth {} e.2.lanes p.lid).halted.isNone
              ∧ (nth {} e.2.lanes p.lid).parked.isNone then some (e.1, p) else none
        | none => none
      else none
    | none => none) s.teams

/-- Candidate bins exist (R72 rule 1). -/
def State.anyCandidate (s : State) (core k : Nat) : Bool :=
  !(s.sched core k).bins.isEmpty && decide ((s.sched core k).groups.length < 8) && (trapWaiting s core k).isNone

/-- Whether a bin is held (R72 rule 2). -/
def Sched.heldBin (x : Sched) (cyc : Nat) (b : Bin) : Bool :=
  !(decide (32 ≤ b.lanes.length) || decide (16 < b.age cyc))
    && (x.groups.any (fun g => g.tid == b.tid && decide (g.pc < b.pc)) || x.bins.any (fun c => c.tid == b.tid && decide (c.pc < b.pc)))

/-- Steps (a) to (c) of R72 rule 4. -/
def passStep (cyc : Nat) (bs : List Bin) : List Bin :=
  let a := bs.filter (fun b => decide (32 ≤ b.lanes.length))
  let c := bs.filter (fun b => decide (16 < b.age cyc))
  if !a.isEmpty then a else if !c.isEmpty then c else bs

/-- The partition and resident slot of a team. -/
def State.partOf (s : State) (tid : Nat) : Nat :=
  (((s.team tid).bind (fun t => s.grid t.lseq)).map (fun g => g.lrec.part)).getD 0
def State.slotOf (s : State) (tid : Nat) : Nat := ((((s.team tid).bind Team.place)).map Prod.snd).getD 0

/-- The holder of a baton keeps its partner back (R99). -/
def State.keptBack (s : State) (tid : Nat) (among : List Nat) : Bool :=
  match s.team tid with
  | some t => match t.partner with
    | some p => among.contains p && (((s.team p).map Team.holder).getD false)
    | none => false
  | none => false

/-- The bin that R72 rules 3 to 6 take, with the scheduler's new credits and last-served teams. A starved bin leaves credits and last-served
teams as they are, and of several whose oldest lanes have waited equally long the first of the scheduler's bins is taken (assumption log
112). -/
def chooseBin (s : State) (core k : Nat) : Option (Bin × Sched) :=
  let x := s.sched core k
  match leastBy (fun (b : Bin) => 2 ^ 64 - b.age s.cyc) (x.bins.filter (fun b => decide (2048 ≤ b.age s.cyc))) with
  | some b => some (b, x)
  | none =>
    let taken := passStep s.cyc (x.bins.filter (fun b => !x.heldBin s.cyc b))
    let tids := distinct (taken.map Bin.tid)
    let taken := taken.filter (fun b => !s.keptBack b.tid tids)
    let parts := (upFrom 0 4).filter (fun p => taken.any (fun b => s.partOf b.tid == p))
    let share := fun p => nth 0 s.disp.ptable.shares p
    let credit := parts.foldl (fun c p => modAt (fun v => v + (share p : Int)) c p) x.credit
    let add := sumOf (parts.map share)
    let best := parts.foldl (fun (m : Option Nat) p => match m with
      | none => some p
      | some q => if nth 0 credit q < nth 0 credit p then some p else some q) none
    match best with
    | none => none
    | some p =>
      let credit := modAt (fun v => v - (add : Int)) credit p
      let mine := taken.filter (fun b => s.partOf b.tid == p)
      let slots := sortBy id (distinct (mine.map (fun b => s.slotOf b.tid)))
      let slot := match nth none x.last p with
        | none => slots.headD 0
        | some l => (firstWith (fun v => decide (l < v)) slots).getD (slots.headD 0)
      match leastBy (fun b => b.pc.toNat) (mine.filter (fun b => s.slotOf b.tid == slot)) with
      | none => none
      | some b => some (b, { x with credit := credit, last := setAt x.last p (some slot) })

/-- Forms an issue group from the chosen bin (R71): at most 32 lanes, in rising team-lane index, that stand at one place. -/
def formGroup (s : State) (core k : Nat) : State :=
  if !s.anyCandidate core k || (s.sched core k).formed == s.cyc + 1 then s
  else match chooseBin s core k with
    | none => s
    | some (b, x) =>
      match s.team b.tid with
      | none => s
      | some t =>
        let lids := sortBy id (b.lanes.map Prod.fst)
        let l0 := nth {} t.lanes (lids.headD 0)
        let lids := (lids.filter (fun lid => (nth {} t.lanes lid).h == l0.h && (nth {} t.lanes lid).slot == l0.slot
          && (nth {} t.lanes lid).stepping.isNone)).take 32
        let lids := if l0.stepping.isSome then [(sortBy id (b.lanes.map Prod.fst)).headD 0] else lids
        let s := s.modSched core k (fun _ => { x.unfile b.tid lids with formed := s.cyc + 1 })
        enterClause { s with ids := s.ids + 1 } core k s.ids b.tid l0.h l0.slot lids false

/-- Forms the trap-entry group of the lane whose turn it is (R101, R103); a lane that does not meet the wait set of the clause at
TVEC keeps its place in the order and waits. -/
def formTrapEntry (s : State) (core k : Nat) : State :=
  if (s.sched core k).groups.length ≥ 8 || (s.sched core k).formed == s.cyc + 1 then s
  else match trapWaiting s core k with
    | none => s
    | some (tid, p) =>
      match s.lane tid p.lid with
      | none => s
      | some l =>
        let s := s.modSched core k (fun x => { x with formed := s.cyc + 1 })
        let s := enterClause { s with ids := s.ids + 1 } core k s.ids tid l.h l.slot [p.lid] true
        s.modTeam tid (fun t => { t with traps := t.traps.map (fun q =>
          if q.lid = p.lid then { q with waits := (nth {} t.lanes p.lid).wait.isSome } else q) })

/-! ### The places of R56 -/

/-- A lane of the executing group: its slot in the group, its team-lane index, its state before the word. -/
structure Ent where
  slot : Nat
  lid : Nat
  lane : Lane
deriving DecidableEq, Repr, Inhabited

/-- What places 3 to 7 of R56 decide for a lane. -/
inductive Gate
  | off
  | trap (code : Nat) (info : Word)
  | block (rs : List Nat)
  | go (a b c : Val)
deriving DecidableEq, Repr

/-- The feature that a form needs (R54): FABRIC 0, HOOKS 1, DEBUG 2 (R462). -/
def featureOf : Instr → Option Nat
  | .hook _ _ _ => some 1
  | .bkpt _ _ => some 2
  | .wpset _ _ _ _ => some 2
  | i => if i.cls = some 11 then some 0 else none

/-- Collection points that the team has configured are set by the pigeonhole engine; ldp names one (R140). -/
def pointMissing (t : Team) : Instr → Bool
  | .ldp _ pt _ _ => !t.points.any (fun e => e.1 == pt.toNat)
  | _ => false

/-- The context in which a word executes: the team and grid of its group. -/
structure WordCtx where
  core : Nat
  sched : Nat
  group : Group
  team : Team
  grid : Grid
deriving DecidableEq, Repr

/-- Places 3 to 7 of R56 for one lane. Blocking on an owed D (R21), for which R56 names no place, stands with the blocking on a source in place 7
(assumption log 111). -/
def gate (s : State) (w : WordCtx) (i : Instr) (e : Ent) : Gate :=
  let us := i.uses
  if us.any (fun u => u.laneRegs.any (fun n => decide (e.lane.regs.length ≤ n))) || pointMissing w.team i then .trap 3 0
  else
    let absent := match featureOf i with
      | some b => if bit s.sys.featAcc b then none else some b
      | none => none
    match absent with
    | some b => .trap 4 (BitVec.ofNat 32 b)
    | none =>
      let gd := i.guard.getD ⟨false, 63⟩
      let p := e.lane.pred gd.p.toNat
      if p.poison then .trap 5 (consumedInfo 0 (160 + gd.p.toNat) (b2w p.v))
      else if p.v == gd.neg then .off
      else
        match firstWith (fun u => u.tie && !(emptyRegs e.lane u).isEmpty) us with
        | some u => .trap 6 (BitVec.ofNat 32 (posField u.pos * 2 ^ 8 + u.code.toNat))
        | none =>
          let rs := us.flatMap (fun u => emptyRegs e.lane u ++ owedRegs e.lane u)
          if !rs.isEmpty then .block rs
          else .go (readUse s w.team w.grid e.lid e.lane (useAt .A us)) (readUse s w.team w.grid e.lid e.lane (useAt .B us))
            (readUse s w.team w.grid e.lid e.lane (useAt .C us))

/-- POISON_CONSUMED for the first poisoned of some operands (R23, R100). -/
def consumed (us : List OpUse) (vs : List (Pos × Val)) : Option (Nat × Word) :=
  firstSome (fun (e : Pos × Val) =>
    if e.2.poison then some (5, consumedInfo (posField e.1) (((useAt e.1 us).map (fun u => u.code.toNat)).getD 0) e.2.lo) else none) vs

/-! ### What a word does to a lane -/

/-- The outcome of a word for one lane. -/
inductive Act
  | off                                 -- no effect; the lane goes on
  | trap (code : Nat) (info : Word)
  | block (w : Wait)                    -- leaves the group for the wait list, at the same PC
  | park                                -- parks at the word (R348)
  | put (v : Val)                       -- D := v
  | upd (l : Lane)                      -- the lane becomes l
  | jump (l : Lane)                     -- the lane becomes l, which stands at its next PC already
  | leave (l : Lane)                    -- the lane becomes l and leaves the group for good
deriving DecidableEq, Repr

/-- Whether the lane goes on with the group. -/
def Act.goesOn : Act → Bool
  | .off | .put _ | .upd _ | .jump _ => true
  | .trap _ _ | .block _ | .park | .leave _ => false

/-- Whether a lane's step ends with the word (R432): a word that blocks waits, and then executes; a trap ends it where it is delivered. -/
def Act.ends : Act → Bool
  | .off | .put _ | .upd _ | .jump _ | .leave _ => true
  | .trap _ _ | .block _ | .park => false

/-- The next place of a lane that goes on: the next slot, or the fall-through (R43). -/
def advance (g : Group) (l : Lane) : Lane :=
  if g.slot < hdrCount g.hdr then { l with slot := some (g.slot + 1), passing := [], counted := [], asked := none }
  else { l with h := fallThrough g.h g.hdr, slot := none, passing := [], counted := [], asked := none }

/-- The lane after the word; traps and what leaves the group are settled afterwards. -/
def Act.onLane (g : Group) (d : Option OpUse) (l : Lane) : Act → Lane
  | .off => advance g l
  | .put v => advance g (match d with
    | some u => l.writeD u.code.toNat u.kind.wide v
    | none => l)
  | .upd l' => advance g l'
  | .jump l' => { l' with passing := [], counted := [], asked := none }
  | .leave l' => l'
  | .block w => { l with wait := some w }
  | .park => { l with parked := some .act }
  | .trap _ _ => l

/-- The destination of a word. -/
def destOf (i : Instr) : Option OpUse := useAt .D i.uses

/-- POISON_CONSUMED of a poisoned result for a team scalar (R78, R100): it names the first poisoned source of the word, in the order A, B,
C, with the value of that source: of the lane's own, or, where another lane's operand has poisoned the result, of that lane (`others`: the
sources of the lanes that execute, lowest slot first). What shfl reads as A is the value of the lane that it takes it from, which `others`
then is alone. A poison that comes through no operand of a lane is named as A; that of the register that movx reads indirectly with that
register's number, as R87 does for an empty one (assumption log 110). -/
def scalarTrap (i : Instr) (a b c v : Val) (others : List (Val × Val × Val)) : Nat × Word :=
  match consumed i.uses [(.A, match i, others with
      | .shfl _ _ _ _ _ _, x :: _ => x.1
      | _, _ => a), (.B, b), (.C, c)] with
  | some r => r
  | none => (firstSome (fun (x : Val × Val × Val) => consumed i.uses [(.A, x.1), (.B, x.2.1), (.C, x.2.2)]) others).getD
      (5, consumedInfo (posField .A) (match i with
        | .movx _ _ _ _ => a.lo.toNat
        | _ => ((useAt .A i.uses).map (fun u => u.code.toNat)).getD 0) v.lo)

/-- A poisoned result for a team scalar traps (R78). -/
def scalarPoison (i : Instr) (a b c : Val) (others : List (Val × Val × Val) := []) : Act → Act
  | .put v =>
    match destOf i with
    | some u => if isScal u.code.toNat && v.poison then .trap (scalarTrap i a b c v others).1 (scalarTrap i a b c v others).2 else .put v
    | none => .put v
  | x => x

/-- The slot that a lane of shfl reads, if it is valid (R92). -/
def shflSlot (m : SMode) (k n : Nat) : Option Nat :=
  match m with
  | .idx => some (n % 32)
  | .up => if k < n then none else some (k - n)
  | .down => if 31 < k + n then none else some (k + n)
  | .xor => some (k ^^^ (n % 32))

/-- The team-scalar writes of a word: the value of the lowest slot that executes (R78), pending until the cycle ends (R79). -/
def scalarWrites (i : Instr) (sched : Nat) (acts : List (Ent × Act)) : List (Nat × Nat × Word) :=
  match destOf i with
  | none => []
  | some u =>
    if !isScal u.code.toNat then []
    else match firstSome (fun (e : Ent × Act) => match e.2 with
      | .put v => some v
      | _ => none) acts with
      | none => []
      | some v => (sched, u.code.toNat - 128, v.lo) :: (if u.kind.wide then [(sched, u.code.toNat - 127, v.hi)] else [])

/-- The act of a lane in a list of acts. -/
def actFor (acts : List (Ent × Act)) (lid : Nat) : Option Act := firstSome (fun (e : Ent × Act) => if e.1.lid = lid then some e.2 else none) acts

/-- Lanes after a word, by team-lane index from `k` on. -/
def settleLanes (g : Group) (d : Option OpUse) (acts : List (Ent × Act)) : Nat → List Lane → List Lane
  | _, [] => []
  | k, l :: t => (match actFor acts k with
    | some a => a.onLane g d l
    | none => l) :: settleLanes g d acts (k + 1) t

/-- Whether a group that has finished its clause continues into the next one (R70); a trap-entry group does not (R101). -/
def continues (s : State) (w : WordCtx) (lanes : List Lane) : Bool :=
  let x := s.sched w.core w.sched
  (match lanes with
    | [] => false
    | l :: t => t.all (fun m => m.h == l.h && m.slot == l.slot))
    && !hdrReform w.group.hdr && !w.group.own
    && !x.bins.any (fun b => b.tid == w.group.tid) && !x.groups.any (fun g => g.tid == w.group.tid && g.gid != w.group.gid)
    && !x.bins.any (fun b => decide (2048 ≤ b.age s.cyc))
    && (!hdrYield w.group.hdr || !s.anyCandidate w.core w.sched)

/-- The end of a clause: the group continues or dissolves (R70). -/
def clauseEnd (s : State) (w : WordCtx) (lids : List Nat) : State :=
  let lanes := match s.team w.group.tid with
    | some t => lids.map (nth {} t.lanes)
    | none => []
  let go := continues s w lanes
  let s := s.modSched w.core w.sched (fun x => { x with groups := x.groups.filter (fun g => g.gid != w.group.gid) })
  let s := batonCheck s w.group.tid
  if go then
    match lanes with
    | l :: _ => enterClause s w.core w.sched w.group.gid w.group.tid l.h l.slot lids false
    | [] => s
  else fileLanes s w.group.tid lids

/-- After a word: lanes changed, scalars written, traps raised in rising team-lane index, and the group moved on. -/
def settle (s : State) (w : WordCtx) (i : Instr) (acts : List (Ent × Act)) : State :=
  let tid := w.group.tid
  let rest := (acts.filter (fun e => e.2.goesOn)).map (fun e => (e.1.slot, e.1.lid))
  let s := s.modTeam tid (fun t => { t with
    lanes := settleLanes w.group (destOf i) acts 0 t.lanes,
    pendScal := t.pendScal ++ scalarWrites i w.sched acts })
  let last := !decide (w.group.slot < hdrCount w.group.hdr)
  let s := s.modSched w.core w.sched (fun x => { x with
    groups := (x.groups.map (fun g => if g.gid = w.group.gid then
      { g with lanes := rest, slot := (if last then g.slot else g.slot + 1), entry := false } else g)).filter (fun g => !g.lanes.isEmpty) })
  let s := acts.foldl (fun s e => match e.2 with
    | .trap code info => raiseTrap s tid e.1.lid ⟨w.group.h, causeWord code (i.cls.getD 0) w.group.slot false false (hdrCount w.group.hdr), info⟩
    | _ => s) s
  let s := settleHits (acts.foldl (fun s e => if e.1.lane.stepping.isSome && e.2.ends then endStep s tid e.1.lid else s) s)
  if last then
    let left := rest.filter (fun e => match s.team tid with
      | some t => (nth {} t.lanes e.2).free
      | none => false)
    clauseEnd s w (left.map Prod.snd)
  else batonCheck s tid

/-! ### Running a word -/

/-- The executing group with its team and grid. -/
def State.wordCtx (s : State) : Option WordCtx :=
  firstSome (fun k => firstSome (fun (g : Group) =>
    if g.gid = s.cur.gid then
      match s.team g.tid with
      | some t => (s.grid t.lseq).map (fun gr => ⟨s.cur.core, k, g, t, gr⟩)
      | none => none
    else none) (s.sched s.cur.core k).groups) [0, 1, 2, 3]

/-- The lanes of the executing group. -/
def WordCtx.ents (w : WordCtx) : List Ent := w.group.lanes.map (fun e => ⟨e.1, e.2, nth {} w.team.lanes e.2⟩)

/-- The act that places 3 to 7 decide, if they do. -/
def Gate.act : Gate → Option Act
  | .off => some .off
  | .trap c i => some (.trap c i)
  | .block rs => some (.block (.regs rs))
  | .go _ _ _ => none

/-- An executing lane (R91) with its source values. -/
structure Exe where
  ent : Ent
  a : Val
  b : Val
  c : Val
deriving DecidableEq, Repr, Inhabited

/-- The lanes that execute the word, by slot. -/
def executing (s : State) (w : WordCtx) (i : Instr) : List Exe :=
  w.ents.filterMap (fun e => match gate s w i e with
    | .go a b c => some ⟨e, a, b, c⟩
    | .off | .trap _ _ | .block _ => none)

/-- The executing lane in a slot, if any. -/
def exeAt (xs : List Exe) (slot : Nat) : Option Exe := firstWith (fun x => x.ent.slot == slot) xs

/-- The executing lanes whose operands a lane's word reads: those of shfl's slot (R92), else all (R91). -/
def readLanes (i : Instr) (xs : List Exe) (e : Ent) (b : Val) : List Exe :=
  match i with
  | .shfl _ _ m _ _ _ => (((shflSlot m e.slot b.lo.toNat).bind (exeAt xs)).map (fun x => [x])).getD []
  | _ => xs

/-- A read of a lane's word that needs a ninth edge: the lane waits at the word on the writer, and the read is counted once (R346, R369). -/
def edgeBlock (s : State) (w : WordCtx) (e : Ent) (u ptr : Nat) : Act × State :=
  (.block (.edges u), if e.lane.counted.contains ptr then s
    else (countEdge s (s.tagsOf w.core w.team)).modLane w.group.tid e.lid (fun l => { l with counted := ptr :: l.counted }))

/-- A word whose effect on each lane depends on the state before the word alone, cross-lane forms included. `f` is place 8 of
R56 and the effect. -/
def runCross (s : State) (i : Instr) (f : WordCtx → List Exe → Ent → Val → Val → Val → Act) : State :=
  match s.wordCtx with
  | none => s
  | some w =>
    settle s w i (w.ents.map (fun e => (e, match gate s w i e with
      | .go a b c => scalarPoison i a b c ((readLanes i (executing s w i) e b).map (fun x => (x.a, x.b, x.c))) (f w (executing s w i) e a b c)
      | .off => .off
      | .trap c n => .trap c n
      | .block rs => .block (.regs rs))))

/-- A word whose effect on each lane depends on that lane and its team alone. -/
def runWord (s : State) (i : Instr) (f : WordCtx → Ent → Val → Val → Val → Act) : State :=
  runCross s i (fun w _ => f w)

/-- A word that computes D from its sources. -/
def runAlu (s : State) (i : Instr) (f : Val → Val → Val → Val) : State :=
  runWord s i (fun _ _ a b c => .put (f a b c))

/-- One lane's turn in such a word: the acts so far and the state that they leave, and the lane; its operands are read before the word (R56). -/
def seqLane (s : State) (w : WordCtx) (i : Instr) (f : State → WordCtx → Ent → Val → Val → Val → Act × State) (p : List (Ent × Act) × State)
    (e : Ent) : List (Ent × Act) × State :=
  match gate s w i e with
  | .go a b c => (p.1 ++ [(e, scalarPoison i a b c [] (f p.2 w e a b c).1)], (f p.2 w e a b c).2)
  | .off => (p.1 ++ [(e, .off)], p.2)
  | .trap c n => (p.1 ++ [(e, .trap c n)], p.2)
  | .block rs => (p.1 ++ [(e, .block (.regs rs))], p.2)

/-- A word whose lanes act on the rest of the state in rising order of their slots. -/
def runSeq (s : State) (i : Instr) (f : State → WordCtx → Ent → Val → Val → Val → Act × State) : State :=
  match s.wordCtx with
  | none => s
  | some w =>
    let r := w.ents.foldl (seqLane s w i f) ([], s)
    settle r.2 w i r.1

/-! ### Issue (R73) -/

/-- Places 1 and 2 of R56 for a word in a slot: illegal-clause and illegal-in-clause (R41, R42). A word of major opcode 0x0A or 0x93 with a
function that is not listed counts as a control transfer (assumption log 113). -/
def slotTrap (hdr w : DWord) (slot : Nat) : Option Nat :=
  let op := fld w.toNat 0 8
  let transfer := op == 0x09 || op == 0x0A || (op == 0x0B && fld w.toNat 56 8 == 0) || op == 0x93
  if 13 ≤ op / 16 || (transfer && slot != hdrCount hdr) then some 1
  else if 4 ≤ op / 16 ∧ op / 16 ≠ hdrEclass hdr then some 2
  else none

/-- A word that is no instruction: every lane that reaches it traps (R55). The class in the cause word is that of the opcode. -/
def trapAll (s : State) (w : WordCtx) (code cls : Nat) : State :=
  let s := s.modSched w.core w.sched (fun x => { x with groups := x.groups.filter (fun g => g.gid != w.group.gid) })
  w.group.lanes.foldl (fun s e => raiseTrap s w.group.tid e.2
    ⟨w.group.h, causeWord code cls w.group.slot false false (hdrCount w.group.hdr), 0⟩) s

/-- Whether a trap-entry group may issue its first word: no earlier delivery of its team is still to issue (R103). -/
def State.entryTurn (s : State) (g : Group) : Bool :=
  !g.entry || match s.team g.tid with
    | none => false
    | some t => match t.deliveries with
      | p :: _ => g.lanes.any (fun e => e.2 == p.lid)
      | [] => true

/-- Whether a group can issue but for the time that its last word takes: delivery order, its context not faulted, its team not waiting for an
operating point. -/
def State.couldIssue (s : State) (g : Group) : Bool :=
  s.entryTurn g && (match s.team g.tid with
    | some t => !t.heldPoint && (match s.grid t.lseq with
      | some gr => (s.ctx gr.ctx).fault.isNone && (s.ctx gr.ctx).st == .ready
      | none => false)
    | none => false)

/-- Whether a group can issue. -/
def State.canIssue (s : State) (g : Group) : Bool := decide (g.busy ≤ s.cyc) && s.couldIssue g

/-- The group that a scheduler issues for (R73, R99). Of several that have been able to issue for 256 cycles, the one that has been so for
longest is taken (assumption log 112). -/
def pickGroup (s : State) (core k : Nat) : Option Group :=
  let gs := (s.sched core k).groups.filter s.canIssue
  match leastBy Group.since (gs.filter (fun g => decide (256 ≤ s.cyc - g.since))) with
  | some g => some g
  | none => leastBy Group.gid (gs.filter (fun g => !s.keptBack g.tid (gs.map Group.tid)))

/-- The class of the word whose delivery a register awaits, if it awaits one (R448). -/
def State.owedClass (s : State) (r : Reg) : Option Nat :=
  match r.st with
  | .pend pid port =>
    if port then some 2
    else match Tab.find pid s.flights with
      | some f => some f.cls
      | none => match Tab.find pid s.cmds with
        | some c => some (c.instr.cls.getD 4)
        | none => some 4
  | .full | .opn => none

/-- The leaf that a lane of a scheduler speaks for, as its rank in R448: 2 FRONTEND, 8 PREEMPT, 7 FRONTIER, 5 ENGINE, 4 MEMORY, 3 EMPTY,
6 SYNC, in the order of the rules; the rank is the position. -/
def leafRank (s : State) (core tid lid : Nat) (t : Team) (l : Lane) : Nat :=
  let wset := fun (k : Nat) => match l.wait with
    | some (.wset b) => b.getLsbD k && !s.waitSetHolds core tid lid t l (b &&& (1#5 <<< k))
    | _ => false
  let owed := match l.wait with
    | some (.regs rs) => rs.filterMap (fun n => s.owedClass (l.reg n))
    | _ => []
  let saving := match t.loc with
    | .saving _ _ => true
    | .resident _ _ | .saved => false
  if l.free && !t.heldPoint && !saving && t.returned = 0 then 0
  else if saving || t.heldPoint || t.returned ≠ 0 then 1
  else if wset 4 || l.parked.isSome then 2
  else if l.wait == some .cmdq || wset 3 then 3
  else if owed.any (fun c => c = 2 || c = 3 || c = 11) || wset 0 || wset 1 || wset 2 || (match l.wait with
      | some (.fence _ _ _ _) | some (.fenceLd _ _) | some (.post _) | some (.page _) | some (.fetch _) => true
      | _ => false) then 4
  else if !owed.isEmpty then 5
  else 6

/-- The counter of a rank. -/
def rankCounter (r : Nat) : Nat := nth 6 [2, 8, 7, 5, 4, 3, 6] r

/-- Charges the slots of one scheduler for `n` cycles (R448): those that its word takes for issue (assumption log 121), then a leaf; a scheduler
without live lanes is idle. -/
def chargeSched (s : State) (core k n : Nat) : State :=
  let x := s.sched core k
  let die := dieOf core
  let bump := fun (i v : Nat) (s : State) => { s with ctrs := modAt (fun c => { c with live := modAt (· + v) c.live i }) s.ctrs die }
  let busy := Nat.min n (x.issued - s.cyc)
  let s := if busy = 0 then s
    else if x.wasted then bump 1 busy s
    else match x.issuedFor.bind (fun f => (s.task f.1).bind (fun t => if t.launch = f.2 then some f.1 else none)) with
      | none => bump 0 busy s
      | some l => (bump 0 busy s).modTask l (fun t => { t with issued := modAt (· + busy) t.issued die })
  if n - busy = 0 then s
  else
    let ranks := s.teams.flatMap (fun e => match e.2.place with
      | some (c, slot) =>
        if c = core then
          (upFrom 0 e.2.lanes.length).filterMap (fun lid =>
            let l := nth {} e.2.lanes lid
            if schedOf slot lid = k ∧ (!l.exited || decide (e.2.returned ≠ 0)) ∧ l.halted.isNone then some (leafRank s core e.1 lid e.2 l) else none)
        else []
      | none => [])
    match leastBy id ranks with
    | none => s
    | some r => bump (rankCounter r) (n - busy) s

/-- Charges the slots of the cores that hold teams or have issued in this cycle. -/
def charge (s : State) (n : Nat) : State :=
  let cores := s.teams.foldl (fun c e => match e.2.place with
    | some (k, _) => insNat k c
    | none => c) ((s.cores.filter (fun e => e.2.scheds.any (fun x => decide (s.cyc < x.issued)))).map Prod.fst)
  cores.foldl (fun s c => [0, 1, 2, 3].foldl (fun s k => chargeSched s c k n) s) s

/-- A lane waits as R244 names it: at a push, stamp, rput, cwr hold or waitw, or on a register owed by a pop, poll, stamp, rtake or await,
or on an empty-open register. -/
def stuckLane (s : State) (l : Lane) : Bool :=
  match l.wait with
  | some (.act _) | some (.hold _) | some (.word _ _ _ _) => true
  | some (.regs rs) => rs.any (fun n => match (l.reg n).st with
    | .pend pid _ => (Tab.find pid s.pacts).isSome
    | .opn => true
    | .full => false)
  | _ => false

/-- Whether a held courier write is in progress: its register is empty-open (R237). -/
def State.courierRuns (s : State) (c : Courier) : Bool :=
  match s.lane c.tid c.lid with
  | some l => (l.reg c.reg).st == .opn
  | none => false

/-- The conditions of R244 hold together for a context. A context none of whose lanes waits is not deadlocked. -/
def stuckNow (s : State) (ctx : Nat) : Bool :=
  let ts := s.teams.filter (fun e => s.ctxOf e.2 == ctx)
  let tids := ts.map Prod.fst
  let live := ts.flatMap (fun e => e.2.lanes.filter (fun l => !l.exited))
  !live.isEmpty && live.all (fun l => stuckLane s l && l.halted.isNone && l.parked.isNone)
    && ts.all (fun e => match e.2.loc with
      | .resident _ _ => true
      | .saving _ _ | .saved => false)
    && !s.cmds.any (fun e => e.2.tags.ctx == ctx) && !s.flights.any (fun e => e.2.tags.ctx == ctx)
    && !s.svcs.any (fun v => v.ctx == ctx) && !s.couriers.any (fun e => tids.contains e.2.tid && s.courierRuns e.2)
    && !s.pigeons.any (fun p => p.ctx == ctx && !p.spill.isEmpty && decide (p.entries.length + p.resv < p.depth))
    && !s.disp.tray.any (fun r => r.ctx == ctx)
    && !s.disp.queues.any (fun q => q.2.en && q.2.ctx == ctx && q.2.head != q.2.tail)
    && !s.grids.any (fun g => g.2.ctx == ctx && decide (g.2.next < g.2.lrec.gdx * g.2.lrec.gdy * g.2.lrec.gdz))

/-- Whether the accepts of a partition's lanes count (R279). -/
def PTable.counts (t : PTable) (part : Nat) : Bool := t.pairen && (part == t.draft || part == t.target)

/-- The accepts of a cycle are performed one at a time, by core and team-lane index (R279). -/
def landAccepts (s : State) : State :=
  if s.disp.accepts.isEmpty then s
  else { s with disp := { s.disp with
    accepts := []
    ptable := (sortBy (fun (a : Nat × Nat × Nat) => a.1 * 65536 + a.2.1) s.disp.accepts).foldl
      (fun t a => { t with ewma := ((t.ewma : Int) + ((a.2.2 : Int) - (t.ewma : Int)) / 16).toNat }) s.disp.ptable } }

/-- d of R265. -/
def PTable.draftShare (t : PTable) : Nat :=
  Nat.max t.smin (Nat.min t.smax (t.smin + ((t.smax - t.smin) * t.ewma + 32768) / 65536))

/-- The recomputation of the pair's shares at a multiple of 10,000 ns, if it is still owed (R265). -/
def recomputeShares (s : State) : State :=
  if s.now / 10000 ≤ s.disp.shareTick then s
  else
    let t := s.disp.ptable
    let d := t.draftShare
    let t' := if t.pairen then { t with shares := setAt (setAt t.shares t.draft d) t.target (t.pairtot - d) } else t
    { s with disp := { s.disp with shareTick := s.now / 10000, ptable := t' } }

/-- The power limit of a class (R468). -/
def powerLimit (cls : Nat) : Nat := nth 1600 [0, 1600, 1400, 1200, 1000, 800, 600, 400] cls

/-- The mean powers of the last window of 1 ms, measured as it ends: free values within the limits (R469, R474, assumption log 69). A die whose class
changed in the window keeps within the largest limit. -/
def powerTick (s : State) : State :=
  if s.now / 1000000 = s.sys.window then s
  else
    let (f, s) := s.freeVal
    let mean := fun (die : Nat) =>
      let p := nth {} s.disp.points die
      f.toNat / 2 ^ (16 * die) % 2 ^ 16 % (powerLimit (if p.since + 1000000 ≤ s.now / 1000000 * 1000000 then p.cls else 1) + 1)
    { s with sys := { s.sys with power := [mean 0, mean 1], window := s.now / 1000000 } }

/-- The passing of cycles: slots are charged, franking time goes on, and the scalar writes of the cycle take effect (R79). The
arithmetic clock runs at 1.1 GHz (R1): cycle n ends at franking time floor(10 n / 11) after reset. The shares are recomputed at each
multiple of 10,000 ns: within that instant at any point, by SHARE_RECOMPUTE, and at its end at the latest. One franking clock serves every
core, cluster and slice: R1 bounds their skew by 4 ns, and the model's is 0 (DESIGN CHOICE, assumption log 3). -/
def tick (s : State) (n : Nat) : State :=
  if n = 0 then s
  else
    let s := recomputeShares (landAccepts (lateWrites (charge s n)))
    let s : State := { s with
      cyc := s.cyc + n
      now := s.now + ((s.cyc + n) * 10 / 11 - s.cyc * 10 / 11)
      ctxs := s.ctxs.map (fun e => (e.1, { e.2 with stuck := if stuckNow s e.1 then e.2.stuck + n else 0 }))
      cores := s.cores.map (fun c => (c.1, { c.2 with scheds := c.2.scheds.map (fun x => { x with groups := x.groups.map (fun g =>
        if s.couldIssue g then { g with since := Nat.max g.since g.busy } else { g with since := s.cyc + n }) }) }))
      teams := s.teams.map (fun e => if e.2.pendScal.isEmpty then e else
        (e.1, { e.2 with scal := (sortBy Prod.fst e.2.pendScal).foldl (fun c p => setAt c p.2.1 p.2.2) e.2.scal, pendScal := [] })) }
    powerTick (if s.now % 10000 = 0 then s else recomputeShares s)

/-- What issuing comes to: an instruction to execute, or a state in which no more is to be done. -/
inductive Issued
  | run (i : Instr) (s : State)
  | done (s : State)
deriving DecidableEq, Repr

/-- The issue cycles of its scheduler that a word takes: 8 for fdiv and fsqrt (R118), 1 for the others. -/
def busyFor : Instr → Nat
  | .fdiv _ _ _ _ _ _ | .fsqrt _ _ _ _ _ => 8
  | _ => 1

/-- A group issues its next word: code breakpoints before it (R434), and a trap-entry group has issued its first word (R103). -/
def beginIssue (s : State) (core k : Nat) (g : Group) : State :=
  let s := { s.modSched core k (fun x => { x with
    issued := s.cyc + 1, issuedFor := (s.team g.tid).bind (fun t => (s.task t.lseq).map (fun u => (t.lseq, u.launch))), wasted := false }) with
    cur := ⟨core, g.gid⟩ }
  let s := match s.team g.tid with
    | some t => (codeFire s g.tid t g.pc.toNat (g.lanes.map Prod.snd)).1
    | none => s
  if g.entry && (s.sched core k).groups.any (fun x => x.gid == g.gid) then s.modTeam g.tid (fun t => { t with
    traps := t.traps.filter (fun p => !g.lanes.any (fun e => e.2 == p.lid)) }) else s

/-- A word that executes takes its issue cycles of the scheduler and keeps its group for them. -/
def takeCycles (s : State) (core k gid : Nat) (i : Instr) : State :=
  s.modSched core k (fun x => { x with
    issued := s.cyc + busyFor i
    groups := x.groups.map (fun q => if q.gid = gid then
      { q with busy := s.cyc + busyFor i, since := s.cyc + busyFor i, slow := decide (2 ≤ i.cls.getD 0) } else q) })

/-- A scheduler issues the next word of the group that R73 picks: slot checks, decoding, and the instruction to execute. A
scheduler whose last word still takes issue cycles waits for their end. -/
def issue (s : State) (core k : Nat) : Issued :=
  let s := tick s ((s.sched core k).issued - s.cyc)
  match pickGroup s core k with
  | none => .done s
  | some g =>
    let word := nth 0 g.words g.slot
    let s := beginIssue s core k g
    match s.wordCtx with
    | none => .done s
    | some w =>
      match slotTrap g.hdr word g.slot with
      | some code => .done (trapAll s w code (fld word.toNat 4 4))
      | none => match decode word with
        | .error _ => .done (trapAll s w 3 (fld word.toNat 4 4))
        | .ok i => .run i (takeCycles s core k g.gid i)

end Sys2Proof.Machine
end

