-- ==== Sys2Proof/Machine/Port.lean ====
section
/-! DEFINITION. Port.lean: the memory port's shared operations (R131, R135, R137 to R146, R158, R177): forming addresses, issuing
accesses, records of failed accesses, pad accesses, and performing an access at its home slice. -/

namespace Sys2Proof.Machine

open Sys2Proof

/-! ### Sizes, addresses, values -/

def szBytes : Sz → Nat
  | .b8 | .i8 => 1
  | .b16 | .i16 => 2
  | .b32 => 4
  | .b64 => 8

def tyBytes (t : Ty) : Nat := if t.is64 then 8 else 4

/-- ea of R135: the address part moves, the top byte stays. -/
def eaOf (a : DWord) (off : BitVec 8) (unit : Nat) : DWord :=
  BitVec.ofNat 64 (fld a.toNat 56 8 * 2 ^ 56 + wrap 56 ((fld a.toNat 0 56 : Int) + off.toInt * unit))

/-- The pad offset of R135. -/
def padOff (a : Word) (off : BitVec 8) (unit : Nat) : Nat := wrap 32 ((a.toNat : Int) + off.toInt * unit)

def eaVa (p : DWord) : Nat := fld p.toNat 0 56

/-- The value that a load delivers (R137). -/
def loadVal (sz : Sz) (v : Nat) : Val :=
  match sz with
  | .b8 | .b16 | .b32 => .w (BitVec.ofNat 32 v) false
  | .i8 => .w (BitVec.ofInt 32 (sx 8 v)) false
  | .i16 => .w (BitVec.ofInt 32 (sx 16 v)) false
  | .b64 => .dw (BitVec.ofNat 64 v) false

/-- new of R143. -/
def atomicNew (fn : AFn) (ty : Ty) (old b : Nat) : Nat :=
  let n := 8 * tyBytes ty
  let o := old % 2 ^ n
  let x := b % 2 ^ n
  let signed := ty == .i32 || ty == .i64
  let less := if signed then decide (sx n o < sx n x) else decide (o < x)
  match fn with
  | .add => (o + x) % 2 ^ n
  | .min => if less then o else x
  | .max => if less then x else o
  | .and => o &&& x
  | .or => o ||| x
  | .xor => o ^^^ x
  | .exch => x
  | .cas => if o = b % 2 ^ 32 then b / 2 ^ 32 % 2 ^ 32 else o
  | .fadd => (fAdd false .rn false (BitVec.ofNat 32 o) (BitVec.ofNat 32 x)).toNat

/-! ### Issuing an access -/

/-- Puts an access on its way. -/
def launch (s : State) (f : Flight) : State :=
  { s with ids := s.ids + 1, flights := Tab.put s.ids { f with exe := s.cyc } s.flights }

/-- The part of a flight that every access of a word shares. -/
def flightOf (s : State) (w : WordCtx) (e : Ent) (i : Instr) (kind : FKind) (ptr : DWord) : Flight :=
  { tid := w.group.tid, lid := e.lid, tags := s.tagsOf w.core w.team, kind := kind, ptr := ptr,
    d := ((destOf i).map (fun u => u.code.toNat)).getD 224, wide := ((destOf i).map (fun u => u.kind.wide)).getD false,
    h := w.group.h, slot := w.group.slot, cls := i.cls.getD 0, lease := e.lane.lease, tlin := w.team.tlin, role := e.lane.role,
    breg := ((useAt .B i.uses).map (fun u => u.code.toNat)).getD 0, count := hdrCount w.group.hdr }

/-- A late form: D is owed by the access that is given number `s.ids` (R21). -/
def oweD (s : State) (i : Instr) (e : Ent) : Act :=
  match destOf i with
  | some u => .upd (e.lane.owe u.code.toNat u.kind.wide s.ids (decide (i.cls.getD 0 ≤ 3)))
  | none => .off

/-- A late form whose value is there at once and only waits to be delivered. -/
def deliverLater (s : State) (w : WordCtx) (e : Ent) (i : Instr) (v : Val) : Act × State :=
  (oweD s i e, launch s (flightOf s w e i (.done v.hi v.lo v.poison) 0))

/-! ### Order of accesses (R131, R144, R158) -/

/-- The bytes from its address on that an access may touch; those of a queue act lie within its granule. -/
def Flight.size (f : Flight) : Nat :=
  match f.kind with
  | .ld sz _ | .win _ sz | .st sz => szBytes sz
  | .rmw _ ty | .red _ ty => tyBytes ty
  | .qpush | .qpop => 4096
  | .tagr | .tagw => 256
  | .ldp _ _ => 16
  | .pld _ _ | .xlq _ _ | .pref _ | .kvx _ _ _ | .done _ _ _ | .fabLd _ | .fabSt _ | .fabRmw => 0

/-- Whether two accesses touch a common byte. -/
def Flight.overlaps (f g : Flight) : Bool := decide (f.pa < g.pa + g.size) && decide (g.pa < f.pa + f.size)

/-- Still to be read or performed at a slice. -/
def Flight.open (f : Flight) : Bool :=
  match f.stage with
  | .ready | .page _ | .edge _ => match f.kind with
    | .pld _ _ | .done _ _ _ | .xlq _ _ | .pref _ | .kvx _ _ _ | .fabLd _ | .fabSt _ | .fabRmw | .win _ _ => false
    | .ld _ _ | .st _ | .rmw _ _ | .red _ _ | .qpush | .qpop | .tagr | .tagw | .ldp _ _ => true
  | .fail _ | .post _ | .bad | .got _ | .owed => false

/-- Where an access lies on its page: tagr and tagw act on the 256-byte block that holds their address (R193). -/
def Flight.place (f : Flight) (pa : Nat) : Nat :=
  match f.kind with
  | .tagr | .tagw => pa / 256 * 256
  | _ => pa

/-- The kind of an access toward its leaf (R172). The tags of a load are checked at its read instant. -/
def FKind.acc : FKind → Acc
  | .tagr => .tagr
  | .tagw => .tagw
  | k => if k.isWrite then .wr else .ld

/-- The bytes whose tags are checked with an access's translation: of a queue act those of one word (assumption log 25). -/
def FKind.checked : FKind → Nat
  | .st sz => szBytes sz
  | .rmw _ ty | .red _ ty => tyBytes ty
  | _ => 4

/-- An access to a page of a shadow pair takes the frame in force at its read or perform instant (R209); or fails where the leaf of that
frame no longer serves it. -/
def State.repoint (s : State) (f : Flight) : Except Nat Flight :=
  match s.frameNow f.tags.ctx f.ptr.toNat f.leaf.toNat f.kind.acc f.kind.checked with
  | .ok none => .ok f
  | .ok (some (pa, leaf)) => .ok { f with pa := f.place pa, leaf := BitVec.ofNat 64 leaf }
  | .error c => .error c

/-- The same, an access that would fail left as it is. -/
def State.pointed (s : State) (f : Flight) : Flight := (s.repoint f).toOption.getD f

/-- A translated access that has not yet been performed: what a shootdown of its page waits for (R174). -/
def Flight.unperformed (f : Flight) : Bool :=
  match f.stage with
  | .ready | .edge _ => match f.kind with
    | .ld _ _ | .st _ | .rmw _ _ | .red _ _ | .qpush | .qpop | .tagr | .tagw | .ldp _ _ | .pref _ | .fabLd _ | .fabSt _ | .fabRmw => true
    | .win _ _ | .pld _ _ | .xlq _ _ | .kvx _ _ _ | .done _ _ _ => false
  | .page _ | .fail _ | .post _ | .bad | .got _ | .owed => false

/-- Whether a translated access of a context to some of its pages has not yet been performed, a part of an engine's step among them (R174). -/
def State.openTo (s : State) (ctx : Nat) (p : Nat → Bool) : Bool :=
  s.flights.any (fun e => e.2.tags.ctx == ctx && e.2.unperformed && (p (eaVa e.2.ptr / 65536) || p (s.pageAt ctx e.2.ptr.toNat)))
    || s.cmds.any (fun e => e.2.tags.ctx == ctx && e.2.late.any (fun x =>
      !x.dst.pad && (p (fld x.dst.at_ 0 56 / 65536) || p (s.pageAt ctx x.dst.at_))))

/-- Whether an earlier access holds an access back: same line of one lane (R158 point 1); writes of one lane to one home slice
(point 2); a write after the lane's earlier loads (point 3); a load after overlapping stores of its core (R131); reductions of one
word by one group (R144). -/
def holdsBack (e f : Flight) : Bool :=
  let mine := e.tid == f.tid && e.lid == f.lid
  (mine && ((e.leaf != 0 && e.pa / 512 == f.pa / 512)
      || (f.kind.isWrite && !e.kind.isWrite)
      || (f.kind.isWrite && e.kind.isWrite && sliceOf e.pa == sliceOf f.pa)))
    || (!f.kind.isWrite && e.kind.isWrite && e.tags.core == f.tags.core && e.overlaps f)
    || (f.kind.isWrite && e.kind.isWrite && e.tid == f.tid && e.exe == f.exe && e.h == f.h && e.slot == f.slot && e.pa == f.pa)

/-- Whether an access may take effect now. -/
def State.clear (s : State) (fid : Nat) (f : Flight) : Bool :=
  s.flights.all (fun e => !(decide (e.1 < fid) && e.2.open && holdsBack (s.pointed e.2) f))

/-! ### Loads at issue (R131, R137, R177) -/

/-- What the L1 level gives a load at issue: a value, or a tag mismatch; none where it must go on to translation. -/
def hitNow (s : State) (w : WordCtx) (e : Ent) (hint : Hint) (ptr : DWord) (n : Nat) : Option (Except Nat (List Byte × Copy)) :=
  let tg := s.tagsOf w.core w.team
  if hint == .fresh || fld ptr.toNat 56 4 ≠ 0 then none
  else match s.l1Hit tg w.group.tid e.lid (eaVa ptr) with
    | none => none
    | some c =>
      let pa := c.pa * 128 + eaVa ptr % 128
      let kind : FKind := if n = 16 then .ldp 0 0 else .ld (if n = 8 then .b64 else if n = 4 then .b32 else if n = 2 then .b16 else .b8) hint
      let probe : Flight := { flightOf s w e (.exit ⟨false, 63⟩) kind ptr with pa := pa, leaf := c.leaf }
      if !s.clear s.ids probe || (leafVersioned c.leaf.toNat && s.specLine pa) then none
      else if !c.tagsOk (s.ctx tg.ctx).tagen ptr.toNat n then some (.error 5)
      else some (.ok ((c.data.drop (eaVa ptr % 128)).take n, c))

/-- How a load starts: its stage, what of its bytes does not fit there, its physical address and leaf. -/
def startRead (s : State) (w : WordCtx) (e : Ent) (acc : Acc) (hint : Hint) (ptr : DWord) (n : Nat) : Flight × State :=
  let f := flightOf s w e (.exit ⟨false, 63⟩) (.ld .b8 hint) ptr
  let ctx := w.grid.ctx
  match (if acc == .ld then hitNow s w e hint ptr n else none) with
  | some (.ok (bytes, c)) =>
    let pa := c.pa * 128 + eaVa ptr % 128
    let s := noteSeen s w.core w.group.tid e.lid pa c.filled
    ({ f with stage := .got (BitVec.ofNat 64 (leNat bytes)), data := BitVec.ofNat 64 (leNat (bytes.drop 8)), pa := pa, leaf := c.leaf },
      if leafVersioned c.leaf.toNat then noteRead s f.tags.task (pa / 512) else s)
  | some (.error c) => ({ f with stage := .fail c }, s)
  | none => if fld ptr.toNat 56 4 = 0 ∧ (s.window ctx (eaVa ptr)).isSome then (f, s) else
    match translateOr s (clusterOf w.core) ctx ptr.toNat acc n with
    | (.ok pa leaf _, s) => ({ f with pa := pa, leaf := BitVec.ofNat 64 leaf }, s)
    | (.fail 1 _, s) =>
      let page := s.pageAt ctx ptr.toNat
      ({ f with stage := if (s.svc ctx page).isSome then .page page else .fail 1 }, s)
    | (.fail c _, s) => ({ f with stage := .fail c }, s)

/-- The lane as a hit leaves it. -/
def Ent.now (e : Ent) (s : State) (w : WordCtx) : Ent := { e with lane := { e.lane with seen := ((s.lane w.group.tid e.lid).getD e.lane).seen } }

/-- A load is launched; D is owed to it. `g` is its pointer as formed, which tagr rounds down (R193). -/
def loadLane (s : State) (w : WordCtx) (e : Ent) (i : Instr) (kind : FKind) (acc : Acc) (hint : Hint) (ptr : DWord) (n : Nat)
    (g : DWord := ptr) : Act × State :=
  let (f, s) := startRead s w e acc hint ptr n
  (oweD s i (e.now s w), launch s { flightOf s w e i kind g with stage := f.stage, pa := f.pa, leaf := f.leaf })

/-- The pages on which an execution of a word has accesses that are not yet performed: those on their way, and those for which lanes wait
at the word or are to issue it again (R178 step 3). -/
def pagesOf (s : State) (x : Nat × Addr × Nat × Nat) : List Nat :=
  distinct ((s.flights.filter (fun e => e.2.tid == x.1 && e.2.h == x.2.1 && e.2.slot == x.2.2.1 && e.2.exe == x.2.2.2 && e.2.open)).map
      (fun e => s.pageAt e.2.tags.ctx e.2.ptr.toNat)
    ++ (((s.team x.1).map Team.lanes).getD []).filterMap (fun l => match l.asked with
      | some (p, c) => if l.h = x.2.1 ∧ l.slot = some x.2.2.1 ∧ c = x.2.2.2 then some p else none
      | none => none))

/-- The execution of a word that an access belongs to. -/
def Flight.execution (f : Flight) : Nat × Addr × Nat × Nat := (f.tid, f.h, f.slot, f.exe)

/-- A service that a load has asked for without waiting for it names its execution (R178 step 3). -/
def markExec (s : State) (ctx page : Nat) (x : Nat × Addr × Nat × Nat) : State :=
  { s with svcs := s.svcs.map (fun v => if v.ctx == ctx && v.page == page then { v with execs := v.execs ++ [x] } else v) }

/-- Forms the LOAD records of the accesses of a team that have just failed: for each execution of a word one for each (page, block of 32
lanes), in rising order of lowest lane; service of a page that is NOT_MAPPED for one of its lanes is requested (R177, R184, R185). -/
def postLoads (s : State) (tid core : Nat) : State :=
  let failed := sortBy (fun (e : Nat × Flight × Nat) => e.2.1.lid) (s.flights.flatMap (fun e => match e.2.stage with
    | .fail c =>
      if e.2.tid = tid ∧ !e.2.kind.isFab then (e.1, e.2, c) :: e.2.also.map (fun a => (e.1, { e.2 with ptr := a.1 }, a.2)) else []
    | _ => []))
  match s.team tid with
  | none => s
  | some t =>
    let key := fun (e : Nat × Flight × Nat) => (e.2.1.execution, e.2.1.lid / 32, eaVa e.2.1.ptr / 2 ^ 16)
    let runs := (failed.map (fun e => e.2.1.execution)).eraseDups
    (runs.flatMap (fun x => ((failed.filter (fun e => e.2.1.execution == x)).map key).eraseDups)).foldl (fun s k =>
      match failed.filter (fun e => key e == k) with
      | [] => s
      | (f0, f, cause) :: more =>
        let all := (f0, f, cause) :: more
        let blk := f.lid / 32 * 32
        let page := s.pageAt f.tags.ctx f.ptr.toNat
        let asks := all.any (fun e => e.2.2 == 1) && (s.svc f.tags.ctx page).isNone
        let r := accRec 0x10 f.ptr.toNat (maskOf blk (all.map (fun e => e.2.1.lid))) t.tlin f.h (if cause = 1 then 0 else 3)
          (nth {} t.lanes blk).role blk cause f.slot f.cls (if f.d = 224 then 0 else f.d) f.tags.ctx (s.isSpec t.lseq)
        let s := if asks then markExec (request s f.tags.ctx page (dieOf core)) f.tags.ctx page f.execution else s
        let fids := all.map Prod.fst
        let mark := fun (st : FStage) (s : State) => { s with flights := s.flights.map (fun e => if fids.contains e.1 then (e.1, { e.2 with stage := st }) else e) }
        match post s (dieOf core) f.tags.ctx [r] (.loads fids (if cause = 1 then some page else none)) with
        | (s, some _) => s
        | (s, none) => mark (.post (s.ids - 1)) s) s

/-- Accesses issued again or translated again, execution by execution: the records of one's failures are formed, and its services asked, before
the next (R179, R184). -/
def eachRun (s : State) (f : State → Nat → Flight → State) (es : List (Nat × Flight)) : State :=
  ((es.map (fun e => e.2.execution)).eraseDups).foldl (fun s x =>
    let mine := es.filter (fun e => e.2.execution == x)
    let s := mine.foldl (fun s e => f s e.1 e.2) s
    match (s.team x.1).bind Team.place with
    | some (core, _) => postLoads s x.1 core
    | none => s) s

/-- A load of 16 bytes for ldp (R140, R173, R177): a NOT_MAPPED page is served, and the access waits for it. -/
def ldpLane (s : State) (w : WordCtx) (e : Ent) (i : Instr) (off pt : Nat) (ptr : DWord) : Act × State :=
  let (f, s) := startRead s w e .ld .dflt ptr 16
  let page := s.pageAt w.grid.ctx ptr.toNat
  let (st, s) := if f.stage = .fail 1 then (.page page, request s w.grid.ctx page (dieOf w.core)) else (f.stage, s)
  (.off, launch s { flightOf s w e i (.ldp off pt) ptr with stage := st, pa := f.pa, leaf := f.leaf, data := f.data })

/-! ### Watched accesses (R435) -/

/-- The check of the memory watchpoints at place 8 of R56: a lane whose slots fire halts at the word, or parks (R437); else it goes
on with the access. -/
def watched (s : State) (w : WordCtx) (e : Ent) (rd wr : Bool) (ptr : DWord) (n : Nat) (k : Ent → State → Act × State) : Act × State :=
  let f := memFiring s w.grid.ctx w.team.tlin e.lid e.lane rd wr (eaVa ptr) n
  if f.isEmpty then k e s
  else
    let s := postHits s w.group.tid e.lid ptr.toNat f
    let l := { e.lane with passing := e.lane.passing ++ f.map Prod.fst }
    if f.any (fun b => bit b.2 64) then
      (.leave (if s.atFront w.core w.team.lseq then { l with halted := some 2 } else { l with parked := some (.halt 2) }), s)
    else k { e with lane := l } (s.modLane w.group.tid e.lid (fun _ => l))

/-- An ldp of a lane whose pad write is to come (R152, R227). -/
def State.ldpDone (s : State) (tid lid : Nat) : Bool :=
  s.flights.all (fun e => !(e.2.tid == tid && e.2.lid == lid && (match e.2.kind with
    | .ldp _ _ => true
    | _ => false)))

/-- The handle by which phq names a point (R219, R240). -/
def pointHandle (num : Nat) : Word := BitVec.ofNat 32 (3 * 2 ^ 30 + num)

/-- Whether a command of a lane to the pigeonhole engine that names the object of a handle is still to step: the lane's acts on the object come
after it (R226). -/
def State.holeOwed (s : State) (tid lid : Nat) (h : Word) (before : Nat) : Bool :=
  s.cmds.any (fun e => decide (e.1 < before) && e.2.tid == tid && e.2.lid == lid && e.2.instr.cls == some 5 && e.2.b == h
    && (e.2.st == .queued || e.2.st == .run))

/-! ### Writes at issue (R138, R177, R351) -/

/-- Whether some byte of a task's write lies outside its declared write ranges (R351). -/
def undeclared (s : State) (lseq va n : Nat) : Bool :=
  match s.task lseq with
  | none => false
  | some t => (upFrom va n).any (fun a => !(t.sets.drop 4).any (fun r => decide (r.base ≤ a) && decide (a < r.base + r.len)))

/-- A lane at which an irrevocable act parks (R32, R348). -/
def mustPark (s : State) (w : WordCtx) : Bool := !s.atFront w.core w.team.lseq

/-- The state with the tags as a lane's own tag writes that are still to be performed leave them: a later write of the lane to those
granules is performed after them (R158, R193). -/
def State.withOwnTags (s : State) (tid lid : Nat) : State :=
  (s.flights.filter (fun e => e.2.tid == tid && e.2.lid == lid && e.2.kind == .tagw && e.2.open)).foldl (fun s e =>
    (upFrom 0 8).foldl (fun s i => setTag s (e.2.pa + 32 * i) (BitVec.ofNat 4 (fld e.2.data.toNat (4 * i) 4))) s) s

/-- Translates a lane's write at its issue, its tags checked where its failure is precise at the lane (R176, R177, assumption log 107). -/
def translateWrite (s : State) (w : WordCtx) (e : Ent) (ptr : DWord) (acc : Acc) (n : Nat) : Xl × State :=
  let r := translateOr (s.withOwnTags w.group.tid e.lid) (clusterOf w.core) w.grid.ctx ptr.toNat acc n
  (r.1, { r.2 with tags := s.tags })

/-- A global write of `n` bytes at issue: translated, with its lane kept at the word while its page is served, parked where it is
irrevocable, trapped where it is undeclared or fails. `late` forms owe D. `g` is its pointer as formed. -/
def storeLane (s : State) (w : WordCtx) (e : Ent) (i : Instr) (kind : FKind) (acc : Acc) (ptr : DWord) (n : Nat) (data : DWord)
    (late : Bool) (g : DWord := ptr) : Act × State :=
  let ctx := w.grid.ctx
  let page := s.pageAt ctx ptr.toNat
  let fail := fun (s : State) (c : Nat) => (Act.block (.post 0), { s with wfails := s.wfails ++ [⟨e.lid, g, c⟩] })
  if fld ptr.toNat 56 4 = 0 ∧ (s.window ctx (eaVa ptr)).isSome then (.trap 0x40 9, s)
  else match translateWrite s w e ptr acc n with
  | (.ok pa leaf _, s) =>
    if (!leafVersioned leaf || acc == .tagw) && mustPark s w then (.park, s)
    else if leafVersioned leaf && acc != .tagw && undeclared s w.team.lseq (eaVa ptr) n then (.trap 0xA0 (ptr.extractLsb' 0 32), s)
    else
      let f := { flightOf s w e i kind g with pa := pa, leaf := BitVec.ofNat 64 leaf, data := data }
      (if late then oweD s i { e with lane := { e.lane with refused := none } } else .upd { e.lane with refused := none }, launch s f)
  | (.fail 1 _, s) =>
    if e.lane.refused = some page then fail s 2
    else (.block (.page page), askPage s w.group.tid e.lid ctx page (dieOf w.core))
  | (.fail c _, s) => fail s c

/-- Forms the WRITE records of the lanes whose writes have just failed, and their traps (R177, R183 to R185). -/
def postWrites (s : State) (w : WordCtx) (i : Instr) : State :=
  let failed := s.wfails
  let s := { s with wfails := [] }
  let key := fun (f : WFail) => f.lid / 32 * 2 ^ 40 + eaVa f.ptr / 2 ^ 16
  let oper := ((useAt .B i.uses).map (fun u => u.code.toNat)).getD 0
  (distinct (failed.map key)).foldl (fun s k =>
    match failed.filter (fun f => key f == k) with
    | [] => s
    | f :: more =>
      let lids := (f :: more).map WFail.lid
      let blk := f.lid / 32 * 32
      let cls := i.cls.getD 0
      let r := accRec 0x11 f.ptr.toNat (maskOf blk lids) w.team.tlin w.group.h 3 (nth {} w.team.lanes blk).role blk f.cause
        w.group.slot cls oper w.grid.ctx (s.isSpec w.team.lseq)
      match post s (dieOf w.core) w.grid.ctx [r] (.lanes w.group.tid lids w.group.h
          (causeWord 0x40 cls w.group.slot false false (hdrCount w.group.hdr)) f.cause) with
      | (s, some _) => s
      | (s, none) => waitLanes s w.group.tid lids (.post (s.ids - 1))) s

/-- A word of global writes: each executing lane in order, then the records and traps of those that failed. -/
def runStore (s : State) (i : Instr) (f : State → WordCtx → Ent → Val → Val → Val → Act × State) : State :=
  match s.wordCtx with
  | none => s
  | some w => postWrites (runSeq s i f) w i

/-- A word of loads: each executing lane in order, then the records of those that failed. -/
def runLoad (s : State) (i : Instr) (f : State → WordCtx → Ent → Val → Val → Val → Act × State) : State :=
  match s.wordCtx with
  | none => s
  | some w => postLoads (runSeq s i f) w.group.tid w.core

/-! ### The pad (R135, R160) -/

/-- The checks of R135 for a pad access: MISALIGNED_ACCESS before PAD_RANGE. -/
def padCheck (t : Team) (off n : Nat) : Option (Nat × Word) :=
  if off % n ≠ 0 then some (0x30, BitVec.ofNat 32 off)
  else if t.padb < off + n then some (0x31, BitVec.ofNat 32 off)
  else none

/-- A pad write: what the issuing lane of a command writes later does not reach the command's pad reads (R16, R202, R295), what others
write and what the lane wrote before does. `by_` is the writing lane and the number that its access got at its issue. -/
def padShadow (t : Team) (tid : Nat) (by_ : Option (Nat × Nat)) (off n cid : Nat) (c : Cmd) : Cmd :=
  if c.tid ≠ tid || !(c.st == .queued || c.st == .run) then c
  else if (by_.map (fun b => b.1 == c.lid && decide (cid < b.2))).getD false then
    { c with shadow := (upFrom off n).foldl (fun m a => match Mem.noted m a with
      | some _ => m
      | none => Mem.note m a (Mem.get t.pad a)) c.shadow }
  else { c with shadow := c.shadow.filter (fun x => !(decide (off ≤ x.1) && decide (x.1 < off + n))) }

/-- Writes bytes into a team's pad, for a lane or for an engine (none); lanes at waitw that see their word change pass (R238). -/
def padWrite (s : State) (tid : Nat) (by_ : Option (Nat × Nat)) (off : Nat) (bytes : List Byte) : State :=
  match s.team tid with
  | none => s
  | some t =>
    let s := if s.cmds.isEmpty then s else { s with cmds := s.cmds.map (fun e => (e.1, padShadow t tid by_ off bytes.length e.1 e.2)) }
    passWords (s.modTeam tid (fun t => { t with pad := Mem.write t.pad off bytes })) tid

def padRead (s : State) (tid off n : Nat) : List Byte := ((s.team tid).map (fun t => Mem.read t.pad off n)).getD (leBytes n 0)

/-! ### Reading and performing (R137, R141 to R146, R154 to R157) -/

/-- A lane's latest WCT rises (R154). -/
def raiseWct (s : State) (tid lid w : Nat) : State := s.modLane tid lid (fun l => { l with wct := Nat.max l.wct w })

/-- Sets the stage of an access. -/
def setStage (s : State) (fid : Nat) (st : FStage) : State := { s with flights := Tab.upd (fun f => { f with stage := st }) fid s.flights }

/-- Removes an access. -/
def landed (s : State) (fid : Nat) : State := { s with flights := Tab.del fid s.flights }

/-- The lease length of a fill that an access causes: the longest of the lanes of its word that the fill serves (R148). -/
def State.fillLease (s : State) (f : Flight) : Nat :=
  s.flights.foldl (fun m e =>
    if e.2.tid = f.tid ∧ e.2.exe = f.exe ∧ e.2.h = f.h ∧ e.2.slot = f.slot ∧ e.2.pa / 128 = f.pa / 128 then Nat.max m e.2.lease else m) f.lease

/-- A read that needs a ninth edge waits on the writer, and is counted once (R346, R369). -/
def waitEdge (s : State) (fid w : Nat) (f : Flight) : State :=
  let s := if f.counted then s else countEdge s f.tags
  { s with flights := Tab.upd (fun x => { x with stage := .edge w, counted := true }) fid s.flights }

/-- Whether an access that is on its way, or waits on a writer that is done with, may go on. -/
def State.underWay (s : State) (f : Flight) : Bool :=
  match f.stage with
  | .ready => true
  | .edge w => !s.edgeHeld f.tags.ctx w
  | .page _ | .fail _ | .post _ | .bad | .got _ | .owed => false

/-- The bytes of a load at its read instant: from the L1 level under a live lease, else from the home slice, with a fill where the page and
the hint allow one (R131, R132, R156, R157, R340). The tags of what it reads are checked (R176). An access that must wait or fails gets
its stage. -/
def readBytes (s : State) (fid : Nat) (f : Flight) (hint : Hint) (n : Nat) : Option (List Byte) × State :=
  let leaf := f.leaf.toNat
  let spec := leafVersioned leaf && s.specLine f.pa
  match if hint == .fresh || spec then none else s.l1Hit f.tags f.tid f.lid (eaVa f.ptr) with
  | some c =>
    if !c.tagsOk (s.ctx f.tags.ctx).tagen f.ptr.toNat n then (none, setStage s fid (.fail 5))
    else
      let s := noteSeen s f.tags.core f.tid f.lid f.pa c.filled
      (some ((c.data.drop (eaVa f.ptr % 128)).take n), if leafVersioned leaf then noteRead s f.tags.task (f.pa / 512) else s)
  | none =>
    if leafTagged leaf && !s.tagsOk f.tags.ctx f.ptr.toNat f.pa n then (none, setStage s fid (.fail 5))
    else match readOr s f.tags leaf f.pa n with
      | .error w => (none, waitEdge s fid w f)
      | .ok (bytes, s') =>
        let s' := if leafMode leaf == 0 && hint != .fresh && !spec then fillL1 s' f.tags (eaVa f.ptr) leaf f.pa (s.fillLease f) else s'
        (some bytes, noteSeen s' f.tags.core f.tid f.lid f.pa s.ids)

/-- Reads a load at its read instant. -/
def readFlight (s : State) (fid : Nat) (f : Flight) (hint : Hint) (n : Nat) : State :=
  match readBytes s fid f hint n with
  | (some bytes, s) => setStage s fid (.got (BitVec.ofNat 64 (leNat bytes)))
  | (none, s) => s

/-- tagr's value: the tags of the eight granules of a 256-byte block (R193). -/
def tagWord (s : State) (leaf pa : Nat) : Nat :=
  if leafTagged leaf then sumOf ((upFrom 0 8).map (fun i => (s.tagAt (pa + 32 * i)).toNat * 2 ^ (4 * i))) else 0

/-- The read of an access that is still to be read, and the record of one that fails; nothing if it may not take effect yet. -/
def readNow (s : State) (fid : Nat) : State :=
  match Tab.find fid s.flights with
  | none => s
  | some f0 =>
    if !s.underWay f0 || f0.kind.isWrite then s
    else match s.repoint f0 with
      | .error c => if f0.open then postLoads (setStage s fid (.fail c)) f0.tid f0.tags.core else s
      | .ok f =>
        if !s.clear fid f then s
        else match f.kind with
          | .ld sz hint => postLoads (readFlight s fid f hint (szBytes sz)) f.tid f.tags.core
          | .win off sz => setStage s fid (.got (BitVec.ofNat 64 (leNat (s.windowRead f.tags.ctx off (szBytes sz)))))
          | .tagr => setStage s fid (.got (BitVec.ofNat 64 (tagWord s f.leaf.toNat f.pa)))
          | _ => s

/-- Copies of the sectors of a range of bytes are dropped. -/
def dropRange (pa n : Nat) (cs : List Copy) : List Copy := cs.filter (fun c => !(decide (pa / 128 ≤ c.pa) && decide (c.pa ≤ (pa + n - 1) / 128)))

/-- After a store by a core: its copies of the sectors take the bytes; a task's bytes on a versioned page are no committed data, and the
copies are dropped (R131, assumption log 19). -/
def afterStore (s : State) (f : Flight) (bytes : List Byte) : State :=
  onCopies s f.tags.core (if f.tags.task.isSome && leafVersioned f.leaf.toNat then dropRange f.pa bytes.length else storeInto f.pa bytes)

/-- After another act on a range of bytes: the core's copies of the sectors are dropped (R131). -/
def afterAct (s : State) (f : Flight) (pa n : Nat) : State := onCopies s f.tags.core (dropRange pa n)

/-- Performs several 4-byte writes of one step; none if one of them has no place. -/
def writeWords (s : State) (f : Flight) (w : Nat) : List (Nat × Nat) → Option (State × Nat)
  | [] => some (s, w)
  | (o, v) :: t => match writeAt s f.tags f.leaf.toNat (f.pa + o) (leBytes 4 v) with
    | none => none
    | some (s, w1) => writeWords s f (Nat.max w w1) t

/-- Why an act at a slice waits: for a version's place (none), or for a ninth edge on a task (R342, R346). -/
abbrev ActWait := Option Nat

/-- One word of a queue's granule is read (R146). -/
def queueWord (s : State) (f : Flight) (o : Nat) : Except ActWait (Nat × State) :=
  match readOr s f.tags f.leaf.toNat (f.pa + o) 4 with
  | .error w => .error (some w)
  | .ok (b, s) => .ok (leNat b, s)

/-- The entry that a queue act touches as it is performed, which must carry the pointer's tag as its first words do (R146, R176, assumption log
107). -/
def queueEntry (s : State) (f : Flight) : Option Nat :=
  let word := fun (o : Nat) => leNat ((s.viewRead f.tags (leafVersioned f.leaf.toNat) (f.pa + o) 4).map Prod.fst)
  let h := word 0 % 1008
  match f.kind with
  | .qpush => if word 4 < 1008 then some (f.pa + 64 + 4 * ((h + word 4) % 1008)) else none
  | .qpop => if 0 < word 4 then some (f.pa + 64 + 4 * h) else none
  | _ => none

/-- Whether that entry's tag is right. -/
def entryTagOk (s : State) (f : Flight) : Bool :=
  match if leafTagged f.leaf.toNat then queueEntry s f else none with
  | some a => s.tagsOk f.tags.ctx f.ptr.toNat a 4
  | none => true

/-- A slice-queue act (R146), which reads the words that its pseudocode reads: what is written, at which offset, and the value and status
delivered. -/
def queueAct (s : State) (f : Flight) (push : Bool) : Except ActWait (List (Nat × Nat) × Nat × Nat × State) :=
  (queueWord s f 0).bind (fun (h, s) => (queueWord s f 4).bind (fun (n, s) =>
    let h := h % 1008
    if push then
      if n < 1008 then .ok ([(64 + 4 * ((h + n) % 1008), f.data.toNat % 2 ^ 32), (4, n + 1)], 0, 0, s)
      else (queueWord s f 8).bind (fun (d, s) => .ok ([(8, (d + 1) % 2 ^ 32)], 0, 0, s))
    else if 0 < n then (queueWord s f (64 + 4 * h)).bind (fun (e, s) => .ok ([(0, (h + 1) % 1008), (4, n - 1)], e, 0, s))
    else .ok ([], 0, 1, s)))

/-- Performs the act in one step. -/
def performQueue (s : State) (f : Flight) (push : Bool) : Except ActWait (State × Nat × Val) :=
  (queueAct s f push).bind (fun (ws, v, st, s') => match writeWords s' f (s.wctAt f.pa) ws with
    | none => .error none
    | some (s', w) => .ok (noteSeen (ws.foldl (fun s e => afterAct s f (f.pa + e.1) 4) s') f.tags.core f.tid f.lid
        (f.pa + 64 + 4 * (leNat ((s.viewRead f.tags (leafVersioned f.leaf.toNat) f.pa 4).map Prod.fst) % 1008)) s.ids,
      w, ⟨BitVec.ofNat 32 v, BitVec.ofNat 32 st, false, false⟩))

/-- Performs an atomic or a reduction in one step (R141 to R144). -/
def performAtomic (s : State) (f : Flight) (fn : AFn) (ty : Ty) : Except ActWait (State × Nat × Val) :=
  match readOr s f.tags f.leaf.toNat f.pa (tyBytes ty) with
  | .error w => .error (some w)
  | .ok (bytes, s) =>
    let old := leNat bytes
    match writeAt s f.tags f.leaf.toNat f.pa (leBytes (tyBytes ty) (atomicNew fn ty old f.data.toNat)) with
    | none => .error none
    | some (s, w) => .ok (afterAct s f f.pa (tyBytes ty), w,
        if ty.is64 then .dw (BitVec.ofNat 64 old) false else .w (BitVec.ofNat 32 old) false)

/-- PERFORMS an access at its home slice in one indivisible step (R141, R146, R154): the state, the WCT and the old value; or why it
waits. -/
def performFlight (s : State) (f : Flight) : Except ActWait (State × Nat × Val) :=
  match f.kind with
  | .st sz =>
    let bytes := leBytes (szBytes sz) f.data.toNat
    match writeAt s f.tags f.leaf.toNat f.pa bytes with
    | none => .error none
    | some (s, w) => .ok (afterStore s f bytes, w, {})
  | .rmw fn ty | .red fn ty => performAtomic s f fn ty
  | .qpush => (performQueue s f true).map (fun r => (r.1, r.2.1, {}))
  | .qpop => performQueue s f false
  | .tagw =>
    let s := touch s f.pa 256
    .ok (afterAct ((upFrom 0 8).foldl (fun s i => setTag s (f.pa + 32 * i) (BitVec.ofNat 4 (fld f.data.toNat (4 * i) 4))) s) f f.pa 256,
      s.wctAt f.pa, {})
  | _ => .error none

/-- A write that fails when it is to be performed, at a shadow page whose leaf no longer serves it (R209) or at the tag of a queue's entry: a page that is not mapped is served; else the
write is not made, its record is posted, its lane takes the trap (R177), and a D that it owes is delivered with poison (assumption log 106). -/
def failWrite (s : State) (fid : Nat) (f : Flight) (cause : Nat) : State :=
  let page := s.pageAt f.tags.ctx f.ptr.toNat
  if cause = 1 then setStage (request s f.tags.ctx page (dieOf f.tags.core)) fid (.page page)
  else match s.team f.tid with
    | none => landed s fid
    | some t =>
      let s := match f.kind with
        | .rmw _ _ | .qpop => { s with flights := Tab.upd (fun x => { x with kind := .done 0 0 true, stage := .ready }) fid s.flights }
        | _ => landed s fid
      let blk := f.lid / 32 * 32
      let r := accRec 0x11 f.ptr.toNat (2 ^ (f.lid % 32)) t.tlin f.h 3 (nth {} t.lanes blk).role blk cause f.slot f.cls f.breg f.tags.ctx (s.isSpec t.lseq)
      (post s (dieOf f.tags.core) f.tags.ctx [r] (.lanes f.tid [f.lid] f.h (causeWord 0x40 f.cls f.slot false false f.count) cause)).1

/-- GLOBAL_WRITE_PERFORM for an access (R154): its lane's latest WCT rises; a value is then on its way to D. An access of a launch that
is no more is discarded (R347). -/
def performNow (s : State) (fid : Nat) : State :=
  match Tab.find fid s.flights with
  | none => s
  | some f0 =>
    if !f0.kind.isWrite || !s.underWay f0 then s
    else if s.stale f0.tags then landed s fid
    else match s.repoint f0 with
      | .error c => failWrite s fid f0 c
      | .ok f =>
        if !s.clear fid f then s
        else if !entryTagOk s f then failWrite s fid f 5
        else match performFlight s f with
          | .error none => { s with flights := Tab.upd (fun x => { x with full := true }) fid s.flights }
          | .error (some w) => waitEdge s fid w f
          | .ok (s, w, v) =>
            let s := raiseWct s f.tid f.lid w
            match f.kind with
            | .rmw _ _ | .qpop => { s with flights := Tab.upd (fun x => { x with kind := .done v.hi v.lo false, stage := .ready }) fid s.flights }
            | _ => landed s fid

/-- Fills D of a lane from its producer; a lane that has exited discards it (R21, R96). -/
def fillD (s : State) (fid : Nat) (f : Flight) (v : Val) : State :=
  landed (s.modLane f.tid f.lid (fun l => if l.exited || f.d ≥ 128 then l else l.deliver f.d f.wide fid v)) fid

/-- A value delivered with poison (R137, R177). -/
def poisonVal : Val := ⟨0, 0, true, true⟩

end Sys2Proof.Machine
end

