-- ==== Sys2Proof/Machine/Engine.lean ====
section
/-! DEFINITION. Engine.lean: engine commands in common (R13 to R19, R25 to R33): issue, acceptance, failure, completion, and an engine's
global and pad accesses (R163, R177, R202, R204, R476). -/

namespace Sys2Proof.Machine

open Sys2Proof

/-! ### What a step of an engine comes to -/

/-- A step's outcome: done, waiting (for a page, the frontier, a place or an edge), or failed with a cause and an address (R25). -/
inductive Eng (α : Type)
  | ok (a : α) (s : State)
  | wait (s : State)
  | fail (cause addr : Nat) (s : State)
deriving DecidableEq, Repr

/-- One part of a step after another. -/
def Eng.bind {α β : Type} (x : Eng α) (f : α → State → Eng β) : Eng β :=
  match x with
  | .ok a s => f a s
  | .wait s => .wait s
  | .fail c a s => .fail c a s

/-- A check of a step. -/
def need (p : Bool) (cause : Nat) (s : State) : Eng Unit := if p then .ok () s else .fail cause 0 s

def State.modCmd (s : State) (cid : Nat) (f : Cmd → Cmd) : State := { s with cmds := Tab.upd f cid s.cmds }
def State.cmd (s : State) (cid : Nat) : Option Cmd := Tab.find cid s.cmds

/-! ### Issue (R13 to R15) -/

/-- Commands of a core that wait in its queue (R15). -/
def State.queued (s : State) (core : Nat) : Nat := (s.cmds.filter (fun e => e.2.tags.core == core && e.2.st == .queued && !e.2.suspended)).length

/-- Issues a command for one lane: A and B consumed, PARAM_RANGE, the parking of R348 where the word calls for it, the queue. -/
def issueCmd (i : Instr) (parks : Bool) (s : State) (w : WordCtx) (e : Ent) (a b : Val) : Act × State :=
  match consumed i.uses [(.A, a), (.B, b)] with
  | some (c, n) => (.trap c n, s)
  | none =>
    let off := a.lo.toNat
    if off % 64 ≠ 0 ∨ w.team.padb < off + 64 then (.trap 7 a.lo, s)
    else if parks && mustPark s w then (.park, s)
    else if 64 ≤ s.queued w.core then (.block .cmdq, s)
    else
      let d := ((destOf i).map (fun u => u.code.toNat)).getD 0
      (.upd (e.lane.owe d false s.ids false),
        { s with
          ids := s.ids + 1
          cmds := Tab.put s.ids { instr := i, tid := w.group.tid, lid := e.lid, tags := s.tagsOf w.core w.team, h := w.group.h,
                                  slot := w.group.slot, d := d, aoff := off, b := b.lo, spec := s.isSpec w.team.lseq } s.cmds })

/-- A word of engine commands: one command for each executing lane (R13). -/
def runCmd (s : State) (i : Instr) (parks : Bool) : State := runSeq s i (fun s w e a b _ => issueCmd i parks s w e a b)

/-! ### The block (R15, R16) -/

/-- Pad bytes as a command sees them: its own lane's later stores hidden (R16, R202). -/
def padSeen (t : Team) (c : Cmd) (off n : Nat) : List Byte := (upFrom off n).map (fun a => (Mem.noted c.shadow a).getD (Mem.get t.pad a))

/-- The bytes of a read that has been performed ahead of the command's step (R202, R476). -/
def Cmd.ahead (c : Cmd) (pad : Bool) (at_ n : Nat) : Option (List Byte) :=
  (firstWith (fun (e : Bool × Nat × List Byte) => e.1 == pad && e.2.1 == at_ && e.2.2.length == n) c.early).map (fun e => e.2.2)

/-- Pad bytes read by a command: those of aligned 4-byte words that it has read ahead, the others as they are now. -/
def cmdPad (s : State) (c : Cmd) (off n : Nat) : List Byte :=
  match s.team c.tid with
  | none => leBytes n 0
  | some t =>
    if c.early.isEmpty then padSeen t c off n
    else (upFrom off n).map (fun a => match c.ahead true (a / 4 * 4) 4 with
      | some bs => nth 0 bs (a % 4)
      | none => (Mem.noted c.shadow a).getD (Mem.get t.pad a))

/-- Pad bytes of the command's team. -/
def cmdPadb (s : State) (c : Cmd) : Nat := ((s.team c.tid).map Team.padb).getD 0

/-- Whether a pad range lies wholly below the team's pad bytes; an empty range does. -/
def padIn (padb : Nat) (lo : Int) (n : Nat) : Bool := n == 0 || (decide (0 ≤ lo) && decide (lo + n ≤ padb))

/-- A field of the captured block. -/
def Cmd.f (c : Cmd) (lo n : Nat) : Nat := fld (leNat c.blk) lo n

/-- A signed field of the captured block. -/
def Cmd.sf (c : Cmd) (lo n : Nat) : Int := sx n (c.f lo n)

/-- The engine class of a command. -/
def Cmd.cls (c : Cmd) : Nat := c.instr.cls.getD 0

/-- The issuing lane's grid, and whether it stands at the frontier (R32). -/
def cmdLseq (s : State) (c : Cmd) : Nat := ((s.team c.tid).map Team.lseq).getD 0
def cmdFront (s : State) (c : Cmd) : Bool := s.atFront c.tags.core (cmdLseq s c)

/-! ### Failure and completion (R17 to R19, R25 to R27) -/

/-- Record 0 of an engine failure (R26). -/
def engineRec (s : State) (c : Cmd) (cause addr : Nat) : BitVec 256 :=
  let t := s.team c.tid
  recOf [(192, addr), (160, c.step % 2 ^ 32), (128, (t.map Team.tlin).getD 0), (64, c.h.toNat),
    (58, (t.map (fun t => (nth {} t.lanes c.lid).role)).getD 0), (48, c.lid), (40, cause), (36, c.slot), (32, c.cls), (24, c.d), (16, c.tags.ctx),
    (15, b2n c.spec), (8, 2), (0, 0x20)]

/-- Whether a fault of the context of a command has struck: the command is discarded with the context and posts nothing more (R33). -/
def Cmd.lost (s : State) (c : Cmd) : Bool := (s.ctx c.tags.ctx).fault.isSome

/-- A command fails: its record group is posted or waits for room, and its status is to be FAILED (R25, R27). -/
def failCmd (s : State) (cid : Nat) (c : Cmd) (cause addr : Nat) : State :=
  if c.lost s then s else
  let recs := [engineRec s c cause addr, BitVec.ofNat 256 (leNat (c.blk.take 32)), BitVec.ofNat 256 (leNat (c.blk.drop 32))]
  match post s (dieOf c.tags.core) c.tags.ctx recs (.cmd cid) with
  | (s, some _) => s
  | (s, none) => s.modCmd cid (fun c => { c with st := .post (s.ids - 1) })

/-- A command ends with an outcome and a DETAIL; D is still to be filled. -/
def endCmd (s : State) (cid : Nat) (outcome detail : Nat) : State :=
  s.modCmd cid (fun c => { c with st := .ended (statusWord outcome c.cls detail) (outcome == 15) })

/-- Fills D (R19): the lane's latest WCT rises, the status is delivered, the command is no more. -/
def fillStatus (s : State) (cid : Nat) (c : Cmd) (status : Word) (failed : Bool) : State :=
  { s.modLane c.tid c.lid (fun l =>
      let l := { l with wct := Nat.max l.wct c.wct }
      if l.exited then l else l.deliver c.d false cid (.w status failed)) with
    cmds := Tab.del cid s.cmds }

/-- Runs one step of a command. -/
def runStep (cid : Nat) (c : Cmd) (x : Eng Unit) : State :=
  match x with
  | .ok _ s => s
  | .wait s => s
  | .fail cause addr s => failCmd s cid c cause addr

/-- A step is done: the next step has the next number, and nothing of the last one's waits remains. What a data command has read ahead it may
have read for later steps (R202). -/
def nextStep (s : State) (cid : Nat) (f : Cmd → Cmd) : State :=
  s.modCmd cid (fun c => { f c with
    step := c.step + 1, held := false, full := false, page := none, refused := none, keep := [], edge := none, counted := [], lag := none
    early := if c.cls = 4 then c.early else [] })

/-! ### Global accesses of an engine (R163, R177, R204, R476) -/

/-- Stands for a page of a load whose service is pending: no cause of R182. -/
def pendingPage : Nat := 256

/-- Translates one access of a command; a page to be served makes the step wait. A lane's kvx fails there as a load does, or waits for a
service that is pending (R177, R179, R393). -/
def cmdXl (s : State) (cid : Nat) (c : Cmd) (ptr : Nat) (acc : Acc) (n : Nat) (keep : List Nat) : Eng (Nat × Nat) :=
  let page := s.pageAt c.tags.ctx ptr
  match translateOr s (clusterOf c.tags.core) c.tags.ctx ptr acc n with
  | (.ok pa leaf _, s) => .ok (pa, leaf) s
  | (.fail 1 _, s) =>
    if c.refused = some page ∧ (s.svc c.tags.ctx page).isNone then .fail 2 (fld ptr 0 56) s
    else if c.asLoad then .fail (if (s.svc c.tags.ctx page).isSome then pendingPage else 1) (fld ptr 0 56) s
    else .wait ((request s c.tags.ctx page (dieOf c.tags.core)).modCmd cid (fun c => { c with page := some page, keep := page :: keep }))
  | (.fail k _, s) => .fail k (fld ptr 0 56) s

/-- An access of `n` bytes at a pointer cut at each 4 KiB boundary: (offset, pointer, length) of each part (R476). -/
def pieces (ptr n off : Nat) : Nat → List (Nat × Nat × Nat)
  | 0 => []
  | k + 1 =>
    if n = 0 then []
    else
      let m := Nat.min n (4096 - fld ptr 0 56 % 4096)
      (off, ptr, m) :: pieces (ptr + m) (n - m) (off + m) k

/-- The parts of an engine access, the pages of which are kept while it waits for service. -/
def piecesOf (ptr n : Nat) : List (Nat × Nat × Nat) := pieces ptr n 0 (n / 4096 + 2)
def pagesIn (ps : List (Nat × Nat × Nat)) : List Nat := distinct (ps.map (fun p => fld p.2.1 0 56 / 2 ^ 16))

/-- A pointer moved by an offset: its top byte stays; none outside the VA space (R201). -/
def ptrAdd (ptr : Nat) (x : Int) : Option Nat :=
  let a := (fld ptr 0 56 : Int) + x
  if 0 ≤ a ∧ a < 2 ^ 56 then some (fld ptr 56 8 * 2 ^ 56 + a.toNat) else none

/-- A read of a command that needs a ninth edge makes the step wait on the writer, and is counted once (R346, R369). -/
def edgeCmd {α : Type} (s : State) (cid at_ w : Nat) : Eng α :=
  match s.cmd cid with
  | none => .wait s
  | some c => .wait ((if c.counted.contains at_ then s else countEdge s c.tags).modCmd cid (fun c => { c with
      edge := some w, counted := insNat at_ c.counted }))

/-- Reads the parts of an engine access, but for those that have been read ahead. -/
def cmdReadParts (s : State) (cid : Nat) (c : Cmd) (keep : List Nat) (acc : List Byte) : List (Nat × Nat × Nat) → Eng (List Byte)
  | [] => .ok acc s
  | (_, p, n) :: t =>
    match if fld p 56 4 = 0 then s.window c.tags.ctx (fld p 0 56) else none with
    | some o => cmdReadParts s cid c keep (acc ++ s.windowRead c.tags.ctx o n) t
    | none => match c.ahead false p n with
      | some bs => cmdReadParts (s.modCmd cid (fun c => { c with used := true })) cid c keep (acc ++ bs) t
      | none => (cmdXl s cid c p .rd n keep).bind (fun x s => match readOr s c.tags x.2 x.1 n with
        | .error w => edgeCmd s cid p w
        | .ok (bs, s) => cmdReadParts s cid c keep (acc ++ bs) t)

/-- An engine's read of global memory; `keep` are further pages of its step (R178 step 3). -/
def cmdRead (s : State) (cid : Nat) (c : Cmd) (ptr n : Nat) (keep : List Nat := []) : Eng (List Byte) :=
  let ps := piecesOf ptr n
  cmdReadParts s cid c (pagesIn ps ++ keep) [] ps

/-- Translates the parts of an engine access: offset, place and length of each. -/
def cmdPlaces (s : State) (cid : Nat) (c : Cmd) (acc : Acc) (keep : List Nat) (got : List (Nat × EngPlace × Nat)) :
    List (Nat × Nat × Nat) → Eng (List (Nat × EngPlace × Nat))
  | [] => .ok got.reverse s
  | (o, p, n) :: t =>
    if fld p 56 4 = 0 && (s.window c.tags.ctx (fld p 0 56)).isSome then .fail 9 (fld p 0 56) s
    else (cmdXl s cid c p acc n keep).bind (fun x s => cmdPlaces s cid c acc keep ((o, ⟨false, p, x.1, x.2⟩, n) :: got) t)

/-- The parts of several writes, their bytes laid end to end from an offset on. -/
def writePieces (off : Nat) : List (Nat × List Byte) → List (Nat × Nat × Nat)
  | [] => []
  | (p, bs) :: t => pieces p bs.length off (bs.length / 4096 + 2) ++ writePieces (off + bs.length) t

/-- A step that waits for the frontier before an irrevocable act (R32). -/
def holdCmd {α : Type} (s : State) (cid : Nat) : Eng α := .wait (s.modCmd cid (fun c => { c with held := true }))

/-- Performs translated parts of an engine write; none while a version has no place. -/
def cmdWriteParts (s : State) (c : Cmd) (bytes : List Byte) (w : Nat) : List (Nat × EngPlace × Nat) → Option (State × Nat)
  | [] => some (s, w)
  | (o, p, n) :: t => match writeAt s c.tags p.leaf p.pa ((bytes.drop o).take n) with
    | none => none
    | some (s, w1) => cmdWriteParts s c bytes (Nat.max w w1) t

/-! ### Writes that a step leaves (R202, R318, R476)

A step is one happening, but for the reads that `Choice.early` has performed before it and the writes that `Choice.lag` leaves: they are
performed one by one after it, each by `Choice.land` (assumption log 45). -/

/-- Two runs of bytes share a byte. -/
def EngPlace.meets (a : EngPlace) (n : Nat) (b : EngPlace) (m : Nat) : Bool :=
  a.pad == b.pad && (if a.pad then decide (a.at_ < b.at_ + m) && decide (b.at_ < a.at_ + n) else decide (a.pa < b.pa + m) && decide (b.pa < a.pa + n))

/-- The place some bytes on. -/
def EngPlace.on (p : EngPlace) (k : Nat) : EngPlace := { p with at_ := p.at_ + k, pa := p.pa + k }

/-- Cuts a run of bytes at each multiple of `unit` words of its destination, of `word` bytes in the pad and of 8 in memory, so that no such word
is split. -/
def unitsOf (word unit : Nat) (d : EngPlace) (bytes : List Byte) : Nat → List Late
  | 0 => []
  | k + 1 =>
    if bytes.isEmpty then []
    else
      let u := (if d.pad then word else 8) * Nat.max unit 1
      let m := u - d.at_ % u
      ⟨bytes.take m, d⟩ :: unitsOf word unit (d.on m) (bytes.drop m) k

/-- The bytes of the pad that a command writes whole: an entry of a list of topk and selm is written in one act (R324), the others write words of
4 bytes. -/
def padWord : Instr → Nat
  | .topk _ _ _ _ _ | .selm _ _ _ _ _ => 8
  | _ => 4

/-- In which units writes of a command's step are left: as `Choice.lag` says, or whole where an earlier write that is left lies there, since
writes to one byte are performed in step order (R202). -/
def leaveIn (s : State) (cid : Nat) (ps : List (EngPlace × Nat)) : Option Nat :=
  match s.cmd cid with
  | none => none
  | some c => match c.lag with
    | some u => some u
    | none => if ps.any (fun p => c.late.any (fun l => l.dst.meets l.bytes.length p.1 p.2)) then some 1024 else none

/-- Leaves writes of a step. -/
def leave (s : State) (cid : Nat) (ls : List Late) : State := s.modCmd cid (fun c => { c with late := c.late ++ ls })

/-- The place of a write of `n` bytes as it is performed: of a page of a shadow pair the frame in force now (R209). -/
def EngPlace.now (s : State) (ctx n : Nat) (p : EngPlace) : Except Nat EngPlace :=
  if p.pad then .ok p
  else match s.frameNow ctx p.at_ p.leaf .wr n with
    | .ok none => .ok p
    | .ok (some (pa, leaf)) => .ok { p with pa := pa, leaf := leaf }
    | .error c => .error c

/-- A command without one of the writes that its steps have left. -/
def Cmd.dropLate (c : Cmd) (i : Nat) : Cmd := { c with late := c.late.take i ++ c.late.drop (i + 1), full := false }

/-- A write that a kvx has left is done: its WCT counts for the lane, and with the last one the command that stands for it is no more (R393). -/
def loadLanded (s : State) (cid : Nat) (c : Cmd) (w : Nat) : State :=
  let s := raiseWct s c.tid c.lid w
  if c.late.length ≤ 1 then { s with cmds := Tab.del cid s.cmds } else s

/-- The command fails at a write that a step has left, whose leaf no longer serves it (R177, R209): a page that is not mapped is served first. -/
def failLate (s : State) (cid i : Nat) (c : Cmd) (at_ cause : Nat) : State :=
  let page := s.pageAt c.tags.ctx at_
  if cause = 1 ∧ c.refused ≠ some page then
    (request s c.tags.ctx page (dieOf c.tags.core)).modCmd cid (fun c => { c with page := some page, keep := [page] })
  else
    let s := s.modCmd cid (fun c => c.dropLate i)
    if c.asLoad then loadLanded s cid c 0 else
    match c.st with
    | .run | .ended _ false => failCmd s cid c (if cause = 1 then 2 else cause) (fld at_ 0 56)
    | .queued | .post _ | .ended _ true => s

/-- The perform instant of a write that a step has left: not before the earlier writes of the command to the same bytes. -/
def landPart (s : State) (cid i : Nat) : State :=
  match s.cmd cid with
  | none => s
  | some c => match c.late[i]? with
    | none => s
    | some l =>
      if c.page.isSome || c.lost s || (c.late.take i).any (fun e => e.dst.meets e.bytes.length l.dst l.bytes.length) then s
      else
        let done := fun (s : State) (w : Nat) =>
          let s := s.modCmd cid (fun c => { c.dropLate i with wct := Nat.max c.wct w })
          if c.asLoad then loadLanded s cid c w else s
        if l.dst.pad then done (padWrite s c.tid none l.dst.at_ l.bytes) 0
        else match l.dst.now s c.tags.ctx l.bytes.length with
          | .error k => failLate s cid i c l.dst.at_ k
          | .ok d => match writeAt s c.tags d.leaf d.pa l.bytes with
            | none => s.modCmd cid (fun c => { c with full := true })
            | some (s, w) => done s w

/-- Writes of global memory in one step: all translated, held where one is irrevocable, then performed (R32), or left; the largest WCT of
those performed (R154). -/
def cmdWriteWct (s : State) (cid : Nat) (c : Cmd) (ws : List (Nat × List Byte)) (keep : List Nat) : Eng Nat :=
  let bytes := ws.flatMap Prod.snd
  let ps := writePieces 0 ws
  (cmdPlaces s cid c .wr (pagesIn ps ++ keep) [] ps).bind (fun xs s =>
    if xs.any (fun x => !leafVersioned x.2.1.leaf) && !cmdFront s c then holdCmd s cid
    else match leaveIn s cid (xs.map Prod.snd) with
      | some u => .ok 0 (leave s cid (xs.flatMap (fun x => unitsOf (padWord c.instr) u x.2.1 ((bytes.drop x.1).take x.2.2) (x.2.2 + 1))))
      | none => match cmdWriteParts s c bytes 0 xs with
        | none => .wait (s.modCmd cid (fun c => { c with full := true }))
        | some (s, w) => .ok w s)

/-- Such writes of a command. -/
def cmdWriteMany (s : State) (cid : Nat) (c : Cmd) (ws : List (Nat × List Byte)) (keep : List Nat := []) : Eng Unit :=
  (cmdWriteWct s cid c ws keep).bind (fun w s => .ok () (s.modCmd cid (fun c => { c with wct := Nat.max c.wct w })))

/-- In which units one write is left: where it may be, as `Choice.lag` says, or whole where an earlier write that is left lies there. -/
def Cmd.leaveUnit (c : Cmd) (may : Bool) (p : EngPlace) (n : Nat) : Option Nat :=
  match if may then c.lag else none with
  | some u => some u
  | none => if c.late.any (fun l => l.dst.meets l.bytes.length p n) then some 1024 else none

/-- Writes of a step of which those of slots may be left; the others are of structures, each changed with the step itself (R392, R476). The
largest WCT of those performed. -/
def cmdWriteSlots (s : State) (cid : Nat) (c : Cmd) (slots ws : List (Nat × List Byte)) (keep : List Nat) : Eng Nat :=
  let bytes := (slots ++ ws).flatMap Prod.snd
  let n := (slots.flatMap Prod.snd).length
  let ps := writePieces 0 (slots ++ ws)
  (cmdPlaces s cid c .wr (pagesIn ps ++ keep) [] ps).bind (fun xs s =>
    if xs.any (fun x => !leafVersioned x.2.1.leaf) && !cmdFront s c then holdCmd s cid
    else
      let unit := fun (x : Nat × EngPlace × Nat) => (s.cmd cid).bind (fun c => c.leaveUnit (decide (x.1 < n)) x.2.1 x.2.2)
      match cmdWriteParts s c bytes 0 (xs.filter (fun x => (unit x).isNone)) with
      | none => .wait (s.modCmd cid (fun c => { c with full := true }))
      | some (s, w) => .ok w (leave s cid (xs.flatMap (fun x => match unit x with
          | some u => unitsOf 4 u x.2.1 ((bytes.drop x.1).take x.2.2) (x.2.2 + 1)
          | none => []))))

/-- An engine's write of global memory. -/
def cmdWrite (s : State) (cid : Nat) (c : Cmd) (ptr : Nat) (bytes : List Byte) (keep : List Nat := []) : Eng Unit :=
  cmdWriteMany s cid c [(ptr, bytes)] keep

/-- An engine's pad write, performed or left. -/
def cmdPadWrite (s : State) (cid : Nat) (c : Cmd) (off : Nat) (bytes : List Byte) : State :=
  match leaveIn s cid [(⟨true, off, 0, 0⟩, bytes.length)] with
  | some u => leave s cid (unitsOf (padWord c.instr) u ⟨true, off, 0, 0⟩ bytes (bytes.length + 1))
  | none => padWrite s c.tid none off bytes

/-! ### Acceptance (R15) -/

/-- Whether the pad write of an earlier ldp of the command's lane is still to come: the command's read of its block observes it (R16). -/
def State.ldpBefore (s : State) (cid : Nat) (c : Cmd) : Bool :=
  s.flights.any (fun e => decide (e.1 < cid) && e.2.tid == c.tid && e.2.lid == c.lid && (match e.2.kind with
    | .ldp _ _ => true
    | _ => false))

/-- Whether a command's turn has come: in its lane's order of issue to its engine (R15), and after the commands of its lane, or of its team
where the engine keeps one order for the core (R294, R380), that were accepted before a save and have not come back to the engine. -/
def State.acceptTurn (s : State) (cid : Nat) (c : Cmd) : Bool :=
  s.cmds.all (fun e => !(e.2.tid == c.tid && e.2.cls == c.cls
    && ((decide (e.1 < cid) && e.2.lid == c.lid && e.2.st == .queued)
      || (e.2.suspended && e.2.st != .queued && (e.2.lid == c.lid || c.cls == 7 || c.cls == 10)))))

/-- Accepted commands of a cluster's or core's engine that are not complete. -/
def State.accepted (s : State) (p : Cmd → Bool) : Nat :=
  (s.cmds.filter (fun e => p e.2 && e.2.st != .queued && !e.2.suspended)).length

/-- Whether the engine that a command goes to holds as many accepted, incomplete commands as its chapter allows (R194, R294, R312). -/
def engineFull (s : State) (c : Cmd) : Bool :=
  match c.cls with
  | 4 => decide (128 ≤ s.accepted (fun x => x.cls == 4 && clusterOf x.tags.core == clusterOf c.tags.core))
  | 7 => decide (32 ≤ s.accepted (fun x => x.cls == 7 && x.tags.core == c.tags.core))
  | 8 => decide (64 ≤ s.accepted (fun x => x.cls == 8 && clusterOf x.tags.core == clusterOf c.tags.core))
  | _ => false

/-- The order in which the suspended commands of a team go on: the accepted ones as they were accepted, then the queued ones. -/
def Cmd.backKey (c : Cmd) (cid : Nat) : Nat := if c.st == .queued then 2 ^ 64 + cid else c.accepted

/-- A command that was suspended goes on with its team: into the queue or the engine of its new core once there is room for it (R15, R33, R194,
R294), at the end of the engine's order (assumption log 124). -/
def rejoin (s : State) (cid : Nat) : State :=
  match s.cmd cid with
  | none => s
  | some c =>
    let here := match (s.team c.tid).map Team.loc with
      | some (.resident _ _) => true
      | _ => false
    let room := if c.st == .queued then decide (s.queued c.tags.core < 64) else !engineFull s c
    let first := s.cmds.all (fun e => !(e.1 != cid && e.2.tid == c.tid && e.2.suspended && e.2.cls == c.cls
      && decide (e.2.backKey e.1 < c.backKey cid)))
    if c.suspended && here && room && first then
      { s.modCmd cid (fun c => { c with suspended := false, accepted := if c.st == .queued then c.accepted else s.ids }) with ids := s.ids + 1 }
    else s

/-- The command as accepted: its block captured. -/
def captured (s : State) (c : Cmd) : Cmd := { c with st := .run, blk := cmdPad s c c.aoff 64, accepted := s.ids }

end Sys2Proof.Machine
end

