-- ==== Sys2Proof/Machine/Debug.lean ====
section
/-! DEFINITION. Debug.lean: the debug engine (R426 to R450): its words, its requests, the postbag's writes and the slot counters. -/

namespace Sys2Proof.Machine

open Sys2Proof

/-! ### Words (R438 to R442) -/

/-- bkpt for one lane (R439): the lane halts, or parks to halt at the frontier, where a master holds debug rights; else it traps. The
number 20 among the slots that a lane passes stands for bkpt. -/
def bkptAct (s : State) (w : WordCtx) (e : Ent) (a : Val) : Act × State :=
  if e.lane.passing.contains 20 then (.off, s)
  else if !(s.dbgOf w.grid.ctx).rights then (.trap 0xD0 a.lo, s)
  else
    let s := laneTrace s w.group.tid e.lid 6 0 a.lo.toNat
    let l := { e.lane with passing := 20 :: e.lane.passing }
    (.leave (if mustPark s w then { l with parked := some (.halt 4) } else { l with halted := some 4 }), s)

def execBkpt (g : Guard) (a : Src) (s : State) : Host.Outcome State Fault Refusal :=
  finish (runSeq s (.bkpt g a) (fun s w e x _ _ => bkptAct s w e x))

/-- trc (R440). -/
def execTrc (g : Guard) (a b : Src) (s : State) : Host.Outcome State Fault Refusal :=
  finish (runSeq s (.trc g a b) (fun s w e x y _ =>
    (.off, laneTrace s w.group.tid e.lid 1 (y.lo.toNat * 2 ^ 32 + x.lo.toNat) (b2n y.pl * 2 + b2n x.pl))))

/-- ctrr for one lane (R441). -/
def ctrrAct (i : Instr) (m : CtrMode) (s : State) (w : WordCtx) (e : Ent) (a : Val) : Act × State :=
  let die := dieOf w.core
  let put := fun (s : State) (n : Nat) => deliverLater s w e i (.dw (BitVec.ofNat 64 n) false)
  match m with
  | .latch => put { s with ctrs := modAt (fun c => { c with snap := s.counters die }) s.ctrs die } (nth 0 (s.counters die) 10)
  | .live | .snap =>
    if a.pl then deliverLater s w e i ⟨0, 0, true, true⟩
    else if 12 < a.lo.toNat then (.trap 0xD1 a.lo, s)
    else put s (if m == .live then nth 0 (s.counters die) a.lo.toNat else nth 0 (nth {} s.ctrs die).snap a.lo.toNat)

def execCtrr (g : Guard) (m : CtrMode) (d : Code) (a : Src) (s : State) : Host.Outcome State Fault Refusal :=
  finish (runSeq s (.ctrr g m d a) (fun s w e x _ _ => ctrrAct (.ctrr g m d a) m s w e x))

def execWpset (g : Guard) (d a b : Code) (s : State) : Host.Outcome State Fault Refusal := finish (runCmd s (.wpset g d a b) false)

/-! ### Watch slots (R433, R442) -/

/-- The reserved bits of a block are zero. -/
def slotReserved (v : Nat) : Bool :=
  fld v 136 376 == 0 && fld v 94 2 == 0 && fld v 82 2 == 0 && fld v 67 5 == 0 && fld v 56 7 == 0

/-- The LIMIT check of a block for a slot (R433). -/
def slotGood (slot v : Nat) : Bool :=
  !bit v 63 ||
    (decide (fld v 72 10 ≤ fld v 84 10) && (bit v 64 || bit v 65)
      && (if slot ≤ 7 then fld v 0 3 == 0
          else if slot ≤ 11 then decide (fld v 128 6 ≤ 40) && fld v 0 (fld v 128 6) == 0 && (bit v 134 || bit v 135)
          else fld v 32 24 == 0 && fld v 128 2 != 3))

/-- A watch slot is written. -/
def setSlot (s : State) (ctx slot v : Nat) : State :=
  { s with dbg := Tab.mod {} (fun d => { d with slots := if bit v 63 then Tab.put slot (BitVec.ofNat 192 v) d.slots else Tab.del slot d.slots }) ctx s.dbg }

/-- wpset's step (R442). -/
def wpsetStep (s : State) (cid : Nat) (c : Cmd) : Eng Unit :=
  let d := s.dbgOf c.tags.ctx
  let v := c.f 0 512
  if !slotReserved v then .fail 0x20 0 s
  else if !d.rights || !d.laneset then .fail 0x22 0 s
  else if 19 < c.b.toNat ∨ !slotGood c.b.toNat v then .fail 0x21 0 s
  else if !cmdFront s c then holdCmd s cid
  else .ok () (endCmd (setSlot s c.tags.ctx c.b.toNat v) cid 0 c.b.toNat)

/-! ### Requests (R426 to R432) -/

/-- HALT (R430, R431, R450): a lane in a step completes it and stays halted. -/
def haltReq (s : State) (m : Nat) (q : DbgReq) : State :=
  onLanes s m q (fun tid ls =>
    let one := fun (s : State) lid =>
      if ((s.lane tid lid).map (fun l => l.halted.isSome || l.stepping.isSome)).getD true then s
      else laneTrace (haltLane s tid lid 0 []) tid lid 3 0 0
    debugAnswer (ls.foldl one s) m 0 [savedBit s tid])

def execHalt (m : Nat) (q : DbgReq) (s : State) : Host.Outcome State Fault Refusal := finish (if s.hears m then haltReq s m q else s)

/-- RESUME (R430, R431). -/
def resumeReq (s : State) (m : Nat) (q : DbgReq) : State :=
  onLanes s m q (fun tid ls =>
    let halted := ls.filter (fun lid => ((s.lane tid lid).map (fun l => l.halted.isSome)).getD false)
    if !q.all && halted.isEmpty then debugAnswer s m 3 [savedBit s tid]
    else debugAnswer (halted.foldl (fun s lid => releaseLane (laneTrace s tid lid 4 0 0) tid lid) s) m 0 [savedBit s tid])

def execResume (m : Nat) (q : DbgReq) (s : State) : Host.Outcome State Fault Refusal := finish (if s.hears m then resumeReq s m q else s)

/-- STEP (R432): the response is sent when the lane halts again. -/
def stepReq (s : State) (m : Nat) (q : DbgReq) : State :=
  onLanes s m { q with all := false } (fun tid ls =>
    let lid := ls.headD 0
    match s.lane tid lid with
    | none => debugAnswer s m 2 []
    | some l =>
      if l.stepping.isSome then debugAnswer s m 6 [savedBit s tid]
      else if l.halted.isNone then debugAnswer s m 3 [savedBit s tid]
      else fileFree (s.modLane tid lid (fun l => { l with halted := none, stepping := some m, stepTag := s.sys.tag })) tid lid)

def execStep (m : Nat) (q : DbgReq) (s : State) : Host.Outcome State Fault Refusal := finish (if s.hears m then stepReq s m q else s)

/-- RSTATE (R429). -/
def rstate : RegSt → Nat
  | .full => 0
  | .pend _ _ => 1
  | .opn => 2

/-- What READ finds under an operand code: value, poison bit and state; none for a code that the lane cannot hold. -/
def debugSee (t : Team) (l : Lane) (code : Nat) : Option (Nat × Bool × Nat) :=
  if code < 128 then
    if code < l.regs.length then some ((l.reg code).v.toNat, (l.reg code).poison, rstate (l.reg code).st) else none
  else if code < 160 then some ((nth 0 t.scal (code - 128)).toNat, false, 0)
  else if code ≤ 222 then some (b2n (l.pred (code - 160)).v, (l.pred (code - 160)).poison, 0)
  else none

/-- READ (R430). -/
def readReq (s : State) (m : Nat) (q : DbgReq) : State :=
  onLanes s m { q with all := false } (fun tid ls =>
    match s.team tid with
    | none => debugAnswer s m 2 []
    | some t => match debugSee t (nth {} t.lanes (ls.headD 0)) q.reg.toNat with
      | none => debugAnswer s m 5 [savedBit s tid]
      | some (v, p, st) => debugAnswer s m 0 [(192, v), (182, st), (181, b2n p), savedBit s tid])

def execDebugRead (m : Nat) (q : DbgReq) (s : State) : Host.Outcome State Fault Refusal := finish (if s.hears m then readReq s m q else s)

/-- WRITE (R430): see `writeReq`. -/
def execDebugWrite (m : Nat) (q : DbgReq) (s : State) : Host.Outcome State Fault Refusal := finish (if s.hears m then writeReq s m q else s)

/-- READPC (R430). -/
def readpcReq (s : State) (m : Nat) (q : DbgReq) : State :=
  onLanes s m { q with all := false } (fun tid ls =>
    match s.lane tid (ls.headD 0) with
    | none => debugAnswer s m 2 []
    | some l => debugAnswer s m 0 [(192, l.h.toNat), (176, l.slot.getD 0), (173, l.halted.getD 7), (172, b2n l.inTrap), (171, b2n l.slot.isNone),
        savedBit s tid])

def execReadpc (m : Nat) (q : DbgReq) (s : State) : Host.Outcome State Fault Refusal := finish (if s.hears m then readpcReq s m q else s)

/-- WSET (R430, R433). -/
def wsetReq (s : State) (m : Nat) (q : DbgReq) (blk : BitVec 512) : State :=
  if !s.mayDebug m q then debugAnswer s m 1 []
  else if 19 < q.wslot.toNat ∨ !slotReserved blk.toNat ∨ !slotGood q.wslot.toNat blk.toNat then debugAnswer s m 5 []
  else debugAnswer (setSlot s q.ctx.toNat q.wslot.toNat blk.toNat) m 0 []

def execWset (m : Nat) (q : DbgReq) (blk : BitVec 512) (s : State) : Host.Outcome State Fault Refusal := finish (if s.hears m then wsetReq s m q blk else s)

/-- QUERY (R426, R430). -/
def queryReq (s : State) (m : Nat) (q : DbgReq) : State :=
  let d := s.dbgOf q.ctx.toNat
  if !s.mayDebug m q then debugAnswer s m 1 []
  else debugAnswer s m 0 [(192, b2n d.laneset * 8 + b2n d.rights * 4 + d.holder)]

def execQuery (m : Nat) (q : DbgReq) (s : State) : Host.Outcome State Fault Refusal := finish (if s.hears m then queryReq s m q else s)

/-- GRANT (R426). -/
def grantReq (s : State) (m : Nat) (q : DbgReq) : State :=
  if s.sys.owner ≠ some m then debugAnswer s m 1 []
  else debugAnswer { s with dbg := Tab.mod {} (fun d => { d with
    rights := true, holder := fld q.value.toNat 0 2, laneset := bit q.value.toNat 2 }) q.ctx.toNat s.dbg } m 0 []

def execGrant (m : Nat) (q : DbgReq) (s : State) : Host.Outcome State Fault Refusal := finish (if s.hears m then grantReq s m q else s)

/-- A lane is released because the rights over it have ended; a step in progress is cancelled, and answered NO_RIGHT (R427, assumption
log 62). -/
def freeLane (s : State) (tid lid : Nat) : State :=
  match s.lane tid lid with
  | none => s
  | some l =>
    let s := stepAnswer (s.modLane tid lid (fun l => { l with stepping := none })) l 1
    if l.halted.isSome then releaseLane s tid lid else s

/-- Debug rights over a context end (R427). -/
def endRights (s : State) (ctx : Nat) : State :=
  let d := s.dbgOf ctx
  let s := { s with dbg := Tab.del ctx s.dbg }
  let s := (s.teams.filter (fun e => s.ctxOf e.2 == ctx)).foldl (fun (s : State) e => match e.2.loc with
    | .saved =>
      let s := e.2.lanes.foldl (fun s l => stepAnswer s l 1 [savedBit s e.1]) s
      s.modTeam e.1 (fun t => { t with
        unhalt := some (((upFrom 0 t.lanes.length).filter (fun lid => (nth {} t.lanes lid).halted.isSome)).foldl (fun ls lid => insNat lid ls) (t.unhalt.getD []))
        lanes := t.lanes.map (fun l => { l with stepping := none }) })
    | .resident _ _ | .saving _ _ => (upFrom 0 e.2.lanes.length).foldl (fun s lid => freeLane s e.1 lid) s) s
  let s := postTrace s 5 ctx true (recOf [(192, s.now % 2 ^ 64), (32, d.holder), (9, ctx), (0, 5)])
  logEvent s 2 ctx 0 0 0 s.now

/-- REVOKE (R427). -/
def revokeReq (s : State) (m : Nat) (q : DbgReq) : State :=
  if s.sys.owner = some m ∨ s.mayDebug m q then debugAnswer (endRights s q.ctx.toNat) m 0 [] else debugAnswer s m 1 []

def execRevoke (m : Nat) (q : DbgReq) (s : State) : Host.Outcome State Fault Refusal := finish (if s.hears m then revokeReq s m q else s)

/-! ### The postbag and the counters (R444 to R449) -/

/-- POSTBAG_WRITE (R446): the oldest record that is held is written at PUT, or dropped where the ring is full. -/
def bagWrite (s : State) : State :=
  match s.trace.held with
  | [] => s
  | r :: rest =>
    let t := { s.trace with held := rest, heldAt := s.trace.heldAt.tail }
    if !t.en then s
    else if (t.put + 1) % 2 ^ t.logn = t.get then { s with trace := { t with drops := (t.drops + 1) % 2 ^ 32 } }
    else
      let a := t.base + 32 * t.put
      { touch s a 32 with
        mem := Mem.write s.mem a (leBytes 32 r.toNat)
        trace := { t with put := (t.put + 1) % 2 ^ t.logn } }

/-- A cycle in which another request, of a lane, an engine, a fetch, a port or the fabric, waits behind a trace write that has waited 4,096 cycles and
is taken ahead of it: DELAY rises by 1, once for the cycle (R446). Which cycles those are is open (R477): `Choice.traceDelay` says (assumption
log 64). -/
def traceDelay (s : State) : State :=
  match s.trace.heldAt with
  | [] => s
  | c :: _ =>
    if c + 4096 ≤ s.cyc ∧ s.trace.delayed ≠ s.cyc + 1 then
      { s with trace := { s.trace with delay := (s.trace.delay + 1) % 2 ^ 64, delayed := s.cyc + 1 } }
    else s

def execPostbagWrite (s : State) : Host.Outcome State Fault Refusal := finish (bagWrite s)

/-- COUNTER_CLEAR (R448, R449). -/
def clearCounters (s : State) (m die : Nat) : State :=
  if !s.hears m || s.sys.owner ≠ some m then s
  else { s with
    ctrs := modAt (fun _ => { since := s.cyc }) s.ctrs die
    tasks := s.tasks.map (fun e => (e.1, { e.2 with issued := setAt e.2.issued die 0 })) }

def execCounterClear (m die : Nat) (s : State) : Host.Outcome State Fault Refusal := finish (clearCounters s m die)

end Sys2Proof.Machine
end

