-- ==== Sys2Proof/Machine/FabricPort.lean ====
section
/-! DEFINITION. FabricPort.lean: requests of lanes toward other endpoints (R407, R418): tags, sends, records of failed accesses (R417), and an
owed fld at resume (R425). -/

namespace Sys2Proof.Machine

open Sys2Proof

/-- The tag of a request to an endpoint (R406, R418): none for a plain grid or a task at the frontier, and none to an endpoint that is no
KLN-8800. -/
def fabTag (s : State) (core lseq epid : Nat) : Option FabTag :=
  if s.atFront core lseq || !s.isKln (dieOf core) epid then none
  else (s.task lseq).map (fun t => ⟨t.ctx, t.carbon, s.lineage t.ctx t.carbon 8, t.postmark, lseq⟩)

/-- Sends a request. -/
def sendReq (s : State) (die epid : Nat) (q : FabReq) (owner : FabBy) : State :=
  let lane := match owner with
    | .lane fid => (Tab.find fid s.flights).map (fun (f : Flight) => (f.tid, f.lid))
    | .cmd _ _ _ _ | .fold _ => none
  { s with ids := s.ids + 1, fab := { s.fab with outs := Tab.put s.ids ⟨die, epid, some q, s.now, owner, lane⟩ s.fab.outs } }

def dropOut (s : State) (n : Nat) : State := { s with fab := { s.fab with outs := Tab.del n s.fab.outs } }

/-- Forms the FABRIC records of failed accesses of a team once the accesses of their (page, block of 32 lanes) are all answered (R417). A
team of a plain grid may have ended meanwhile. -/
def postFabric (s : State) (tid core : Nat) : State :=
  let key := fun (f : Flight) => (f.exe, f.h, f.slot, f.lid / 32, eaVa f.ptr / 2 ^ 16)
  let mine := s.flights.filter (fun e => e.2.tid == tid && e.2.kind.isFab)
  let failed := mine.filterMap (fun e => match e.2.stage with
    | .fail c => some (e.1, e.2, c)
    | _ => none)
  failed.foldl (fun s x =>
    let all := failed.filter (fun y => key y.2.1 == key x.2.1)
    if mine.any (fun e => key e.2 == key x.2.1 && e.2.stage == .ready) || (all.head?.map Prod.fst) ≠ some x.1 then s
    else
      let f := (leastBy (fun (y : Nat × Flight × Nat) => y.2.1.lid) all).getD x
      let blk := f.2.1.lid / 32 * 32
      let role := ((s.team tid).map (fun t => (nth {} t.lanes blk).role)).getD f.2.1.role
      let r := accRec 0x50 f.2.1.ptr.toNat (maskOf blk (all.map (fun y => y.2.1.lid))) f.2.1.tlin f.2.1.h 3 role blk f.2.2 f.2.1.slot
        11 f.2.1.d f.2.1.tags.ctx (((s.team tid).map (fun t => s.isSpec t.lseq)).getD false)
      let fids := all.map Prod.fst
      let act := match f.2.1.kind with
        | .fabSt _ => PostAct.fabric fids f.2.2
        | _ => .loads fids none
      match post s (dieOf core) f.2.1.tags.ctx [r] act with
      | (s, some _) => s
      | (s, none) => { s with flights := s.flights.map (fun e => if fids.contains e.1 then (e.1, { e.2 with stage := .post (s.ids - 1) }) else e) }) s

/-- An owed fld is issued again at resume (R425). -/
def reissueFab (s : State) (core fid : Nat) (f : Flight) (sz : Sz) : State :=
  let tg := { f.tags with core := core }
  let put := fun (s : State) (g : Flight) => { s with flights := Tab.put fid g s.flights }
  let die := dieOf core
  match translate s (clusterOf core) tg.ctx f.ptr.toNat .rd (szBytes sz) with
  | (.ok pa leaf _, s) => put s { f with tags := tg, kind := .ld sz .dflt, stage := .ready, pa := pa, leaf := BitVec.ofNat 64 leaf }
  | (.fail 2 (some (leaf, _)), s) =>
    let epid := fld leaf 42 10
    let q : FabReq := { src := s.epid die, entry := BitVec.ofNat 12 (fld leaf 30 12), key := BitVec.ofNat 14 (fld leaf 16 14),
                        off := f.ptr.extractLsb' 0 28, kind := .read (szBytes sz), tag := fabTag s core (((s.team f.tid).map Team.lseq).getD 0) epid }
    let up := s.routeUp die epid
    let s := put s { f with tags := tg, stage := if up then .ready else .fail 0x35, leaf := BitVec.ofNat 64 leaf }
    if up then sendReq s die epid q (.lane fid) else s
  | (.fail c _, s) => put s { f with tags := tg, kind := .ld sz .dflt, stage := .fail c }

end Sys2Proof.Machine
end

