-- ==== Sys2Proof/Machine/Launch.lean ====
section
/-! DEFINITION. Launch.lean: launch records and their checks (R248, R249, R334, R335), engine reads of the dispatch engine, homes and
fits (R257 to R260), start orders (R261), teams at their start (R262). -/

namespace Sys2Proof.Machine

open Sys2Proof

/-! ### The launch record (R248, R249) -/

/-- The record in the 1,024 bits of a number. -/
def parseRec (v : Nat) : Rec :=
  { rolePc := (upFrom 0 4).map (fun n => BitVec.ofNat 64 (fld v (64 * n) 64))
    lanes32 := (upFrom 0 4).map (fun n => fld v (256 + 16 * n + 5) 6)
    regs8 := (upFrom 0 4).map (fun n => fld v (256 + 16 * n) 5)
    gdx := fld v 320 16, gdy := fld v 336 16, gdz := fld v 352 16
    pm := bit v 368, guess := bit v 369, flush := bit v 370
    padb := fld v 384 32, part := fld v 416 8, prio := fld v 424 8, opclass := fld v 432 8, carbon := fld v 440 8
    config := BitVec.ofNat 64 (fld v 448 64), params := BitVec.ofNat 64 (fld v 512 64), postmark := fld v 576 48
    sets := BitVec.ofNat 64 (fld v 640 64), sigAddr := BitVec.ofNat 64 (fld v 704 64), sigVal := BitVec.ofNat 32 (fld v 768 32)
    budget := fld v 800 32 }

/-- Whether role n of a record is present. -/
def Rec.has (r : Rec) (n : Nat) : Bool := decide (0 < nth 0 r.lanes32 n)

/-- The checks of R249 that need nothing but the record: the cause of the first that fails. -/
def recCause (v : Nat) : Option Nat :=
  let r := parseRec v
  let ns := upFrom 0 4
  if fld v 832 192 ≠ 0 ∨ fld v 624 16 ≠ 0 ∨ fld v 371 13 ≠ 0 ∨ ns.any (fun n => fld v (256 + 16 * n + 11) 5 != 0 || fld v (64 * n + 56) 8 != 0) then
    some 0x20
  else if ns.any (fun n => r.has n && fld v (64 * n) 3 != 0) ∨ fld v 448 8 ≠ 0 ∨ fld v 704 2 ≠ 0 then some 0x26
  else if !r.has 0 || (upFrom 1 3).any (fun n => r.has n && !r.has (n - 1))
      || ns.any (fun n => !r.has n && (fld v (64 * n) 64 != 0 || fld v (256 + 16 * n) 16 != 0))
      || ns.any (fun n => r.has n && (decide (nth 0 r.regs8 n < 2) || decide (16 < nth 0 r.regs8 n)))
      || decide (32 < sumOf r.lanes32) then some 0x21
  else if r.gdx = 0 ∨ r.gdy = 0 ∨ r.gdz = 0 ∨ 2 ^ 31 < r.gdx * r.gdy * r.gdz then some 0x22
  else if r.padb % 64 ≠ 0 ∨ 4194304 < r.padb ∨ 3 < r.part ∨ 15 < r.prio ∨ 7 < r.opclass ∨ 0xFFFFFFFE < r.budget then some 0x23
  else none

/-- Teams of a record's grid, lanes and registers of each of its teams. -/
def Rec.teams (r : Rec) : Nat := r.gdx * r.gdy * r.gdz
def Rec.lanes (r : Rec) : Nat := 32 * sumOf r.lanes32
def Rec.regs (r : Rec) : Nat := sumOf ((upFrom 0 4).map (fun n => 32 * nth 0 r.lanes32 n * (8 * nth 0 r.regs8 n)))

/-! ### Engine reads of the dispatch engine (R31, R177, R249) -/

/-- A translation by an engine that keeps no TLB. -/
def xlWalk (s : State) (ctx ptr : Nat) (acc : Acc) (n : Nat) : Xl × State :=
  let va := fld ptr 0 56
  if fld ptr 56 4 ≠ 0 then (.fail 6 none, s)
  else
    let mva := s.mapVa ctx va
    let w := walk s ctx mva
    let s := match w.bus with
      | some a => { s with bus := some a }
      | none => s
    match w.res with
    | .error c => (.fail c none, s)
    | .ok (leaf, big) => (leafCheck s ctx (ptr - va + mva) acc n leaf big, s)

/-- What such a read gives; `edge` names the writer for which it would need a ninth edge, and its address (R346). -/
inductive Got (α : Type)
  | ok (a : α)
  | page (p : Nat)
  | edge (w ptr : Nat)
  | fail (cause : Nat)
deriving DecidableEq, Repr

/-- Reads `n` bytes that lie in one line; a page not mapped is to be served, unless that has been refused, and a service pending is waited
for (R179). -/
def readPtr (s : State) (tg : Tags) (ptr n : Nat) (refused : Nat → Bool) : Got (List Byte) × State :=
  match if fld ptr 56 4 = 0 then s.window tg.ctx (fld ptr 0 56) else none with
  | some o => (.ok (s.windowRead tg.ctx o n), s)
  | none =>
    if fld ptr 56 4 = 0 && (s.svc tg.ctx (s.pageAt tg.ctx ptr)).isSome then (.page (s.pageAt tg.ctx ptr), s)
    else match xlWalk s tg.ctx ptr .rd n with
    | (.ok pa leaf _, s) => match readOr s tg leaf pa n with
      | .error w => (.edge w ptr, s)
      | .ok (bs, s) => (.ok bs, s)
    | (.fail 1 _, s) => (if refused (s.pageAt tg.ctx ptr) then .fail 2 else .page (s.pageAt tg.ctx ptr), s)
    | (.fail c _, s) => (.fail c, s)

/-! ### Task fields (R334, R335) -/

/-- The eight ranges of a declared-set block (R335). -/
def parseSets (bytes : List Byte) : List DRange :=
  (upFrom 0 8).map (fun e => let v := leNat ((bytes.drop (16 * e)).take 16); ⟨fld v 0 56, fld v 64 32⟩)

/-- A range that keeps R335. -/
def DRange.good (r : DRange) : Bool :=
  if r.len = 0 then r.base == 0 else r.len % 512 == 0 && r.base % 512 == 0 && decide (r.base + r.len ≤ 2 ^ 56)

def setsGood (bytes : List Byte) : Bool :=
  (upFrom 0 8).all (fun e => let v := leNat ((bytes.drop (16 * e)).take 16); fld v 96 32 == 0 && fld v 56 8 == 0)
    && (parseSets bytes).all DRange.good

/-- No range declared. -/
def noSets : List DRange := (upFrom 0 8).map (fun _ => ⟨0, 0⟩)

/-- Who posts a record: its grid's lseq and its carbon. -/
structure Poster where
  lseq : Nat
  carbon : Nat
deriving DecidableEq, Repr

/-- Points 1 and 2 of R334. -/
def taskFieldsGood (s : State) (ctx : Nat) (r : Rec) (by_ : Option Poster) : Bool :=
  if !r.pm then r.carbon == 0 && !r.guess && r.sets == 0
  else
    (r.carbon == 0 || (s.carbon ctx r.carbon).isSome)
      && (match by_ with
        | none => true
        | some p => r.carbon == p.carbon || s.above ctx p.carbon r.carbon 9)
      && (match s.carbon ctx r.carbon with
        | some c => decide (c.postmark ≤ r.postmark)
        | none => true)

/-- The set block, read and checked (R334 point 3). -/
def checkSets (s : State) (tg : Tags) (r : Rec) (refused : Nat → Bool) : Got (List DRange) × State :=
  if r.sets = 0 then (.ok noSets, s)
  else if r.sets.toNat % 128 ≠ 0 then (.fail 0x25, s)
  else match readPtr s tg r.sets.toNat 128 refused with
    | (.ok bs, s) => (if setsGood bs then .ok (parseSets bs) else .fail 0x25, s)
    | (.page p, s) => (.page p, s)
    | (.edge w p, s) => (.edge w p, s)
    | (.fail c, s) => (.fail c, s)

/-- All checks of a record (R249, R334). The configuration block is read with the record, before any check; a pointer to it that the
alignment check refuses is not read through (assumption log 49). -/
def checkRec (s : State) (tg : Tags) (v : Nat) (by_ : Option Poster) (refused : Nat → Bool) : Got Launch × State :=
  let r := parseRec v
  match if r.config = 0 ∨ r.config.toNat % 256 ≠ 0 then (Got.ok [], s) else readPtr s tg r.config.toNat 256 refused with
  | (.page p, s) => (.page p, s)
  | (.edge w p, s) => (.edge w p, s)
  | (.fail c, s) => (.fail c, s)
  | (.ok cfg, s) => match recCause v with
    | some c => (.fail c, s)
    | none =>
      let bound := match by_.bind (fun p => s.task p.lseq) with
        | some t => r.pm && decide (r.postmark < t.postmark)
        | none => false
      if !cfg.isEmpty && !configGood cfg then (.fail 0x24, s)
      else if bound then (.fail 0x27, s)
      else if !taskFieldsGood s tg.ctx r by_ then (.fail 0x25, s)
      else match checkSets s tg r refused with
        | (.ok sets, s) => (.ok ⟨r, cfg, sets⟩, s)
        | (.page p, s) => (.page p, s)
        | (.edge w p, s) => (.edge w p, s)
        | (.fail c, s) => (.fail c, s)

/-! ### Homes and fits (R257 to R260) -/

/-- The partition that a core is homed to (R257). -/
def State.homeOf (s : State) (core : Nat) : Option Nat :=
  let j := core % 4 * 32 + core / 4
  let sh := fun p => 2 * nth 0 s.disp.ptable.shares p
  if j < sh 0 then some 0
  else if j < sh 0 + sh 1 then some 1
  else if j < sh 0 + sh 1 + sh 2 then some 2
  else if j < sh 0 + sh 1 + sh 2 + sh 3 then some 3
  else none

/-- The teams that hold resources of a core. -/
def State.onCore (s : State) (core : Nat) : List (Nat × Team) :=
  s.teams.filter (fun e => match e.2.place with
    | some (c, _) => c == core
    | none => false)

def State.slotsOf (s : State) (core : Nat) : List (Nat × Team) :=
  s.teams.filterMap (fun e => match e.2.place with
    | some (c, k) => if c = core then some (k, e.2) else none
    | none => none)

/-- The lowest place for `n` units below `cap` that meets none of some runs (at, length) and that a test accepts; `starts` are further
places at which a run may begin. -/
def placeRun (cap n : Nat) (used : List (Nat × Nat)) (starts : List Nat) (ok : Nat → Bool) : Option Nat :=
  if n = 0 then some 0
  else leastBy id ((0 :: (starts ++ used.map (fun u => u.1 + u.2))).filter (fun a =>
    decide (a + n ≤ cap) && used.all (fun u => decide (a + n ≤ u.1) || decide (u.1 + u.2 ≤ a) || u.2 == 0) && ok a))

/-- Where a pad of `n` units lies in a cluster (R260). -/
def padPlace (s : State) (cl n : Nat) : Option Nat :=
  let used := s.teams.filterMap (fun e => match e.2.place with
    | some (c, _) => if clusterOf c = cl ∧ 0 < e.2.padb then some (e.2.padAt, e.2.padb / 64) else none
    | none => none)
  placeRun 262144 n used ((upFrom 0 64).map (· * 4096)) (fun a =>
    (upFrom (a / 4096) ((a + n - 1) / 4096 - a / 4096 + 1)).all (fun k =>
      ((s.cluster cl).bank k).mode == .pad && ((s.cluster cl).bank k).sw.isNone))

/-- What a team needs: its record, its pigeonholes, its matrix allocation and its tree slots. -/
structure Need where
  lrec : Rec
  holes : List (Nat × Nat × Nat)
  acc : Nat × Nat := (0, 0)
  trees : List Nat := []
deriving DecidableEq, Repr

/-- The tree slots that a team is to hold: a dtload that has begun has found its slot free, and holds it as it ends (R372, R382). -/
def State.claims (s : State) (tid : Nat) : List Nat :=
  s.cmds.filterMap (fun e => match e.2.instr with
    | .dtload _ false _ _ _ => if e.2.tid = tid ∧ e.2.st = .run ∧ 0 < e.2.step then some (fld (leNat e.2.blk) 160 4) else none
    | _ => none)

/-- Where a team would be on a core. -/
structure Placing where
  slot : Nat
  padAt : Nat
  units : List (List (Nat × Nat))
  rowAt : Nat
  bAt : Nat
deriving DecidableEq, Repr

/-- Lanes of scheduler k, given the lanes of a team in a slot (R67). -/
def lanesOn (lanes slot k : Nat) : Nat := ((upFrom 0 (lanes / 32)).filter (fun j => (j + slot) % 4 == k)).length * 32

/-- R259: where a team fits a core, if it does; `anyPoint` leaves point 6 out. -/
def State.fits (s : State) (core : Nat) (n : Need) (anyPoint : Bool) : Option Placing :=
  let on := s.slotsOf core
  let cl := clusterOf core
  let dp := nth {} s.disp.points (dieOf core)
  if s.homeOf core ≠ some n.lrec.part then none
  else if !anyPoint && (dp.sw.isSome || !(n.lrec.opclass == 0 || n.lrec.opclass == dp.cls)) then none
  else match lowest (fun k => !on.any (fun e => e.1 == k)) 0 16 with
    | none => none
    | some slot =>
      if (upFrom 0 4).any (fun k =>
          decide (512 < lanesOn n.lrec.lanes slot k + sumOf (on.map (fun e => lanesOn e.2.lanes.length e.1 k)))) then none
      else if 131072 < n.lrec.regs + sumOf (on.map (fun e => sumOf (e.2.lanes.map (fun l => l.regs.length)))) then none
      else if n.trees.any (fun k => (s.onCore core).any (fun e => (Tab.find k e.2.trees).isSome || (s.claims e.1).contains k)) then none
      else match padPlace s cl (n.lrec.padb / 64), teamBacking s cl n.holes (s.bankUnits cl),
          placeRun 256 n.acc.1 (on.map (fun e => (e.2.acc.rowAt, e.2.acc.runits))) [] (fun _ => true),
          placeRun 64 n.acc.2 (on.map (fun e => (e.2.acc.bAt, e.2.acc.bunits))) [] (fun _ => true) with
        | some pad, some us, some r, some b => some ⟨slot, pad, us, r, b⟩
        | _, _, _, _ => none

/-! ### Start orders (R261) -/

/-- A team in a start order: saved, or the next of a grid. -/
structure Ord where
  lseq : Nat
  tlin : Nat
  saved : Option Nat
  joined : Nat
  need : Need
deriving DecidableEq, Repr

/-- A grid none of whose teams starts or resumes: held by preempt or as a task, or its context not running. -/
def State.gridHeld (s : State) (lseq : Nat) (g : Grid) : Bool :=
  g.held || (match s.task lseq with
    | some t => t.st == .held || t.st == .aborted
    | none => false) || (s.ctx g.ctx).st != .ready || (s.ctx g.ctx).fault.isSome

/-- The pigeonholes of a team, those of its configuration and those of phcfg: number, kind and depth (R239, R247). -/
def State.savedHoles (s : State) (tid : Nat) : List (Nat × Nat × Nat) :=
  (s.pigeons.filter (fun p => p.scope == 0 && p.owner == tid)).map (fun p => (p.num, p.kind, p.depth))

/-- The start order of a partition (R261). -/
def State.order (s : State) (p : Nat) : List Ord :=
  let key := fun (o : Ord) => (15 - o.need.lrec.prio) * 2 ^ 96 + o.lseq * 2 ^ 32 + o.tlin
  let gs := s.grids.filter (fun g => g.2.lrec.part == p && !s.gridHeld g.1 g.2)
  let saved := s.teams.filterMap (fun e => match e.2.loc with
    | .saved => (firstWith (fun (g : Nat × Grid) => g.1 == e.2.lseq) gs).map (fun g =>
        { lseq := e.2.lseq, tlin := e.2.tlin, saved := some e.1, joined := e.2.joined,
          need := ⟨g.2.lrec, s.savedHoles e.1, (e.2.acc.runits, e.2.acc.bunits), e.2.trees.map Prod.fst ++ s.claims e.1⟩ })
    | .resident _ _ | .saving _ _ => none)
  let fresh := gs.filterMap (fun g => if g.2.next < g.2.lrec.teams then
      some { lseq := g.1, tlin := g.2.next, saved := none, joined := g.2.joined, need := ⟨g.2.lrec, configHoles g.2.config, (0, 0), []⟩ }
    else none)
  sortBy key saved ++ sortBy key fresh

/-- Whether an order item is a given team. -/
def Ord.isTeam (o : Ord) (lseq tlin : Nat) : Bool := o.lseq == lseq && o.tlin == tlin

/-- Notes the first team of a partition's order that has waited 100 µs: no team that has waited so long is passed by a later one, and those
behind the first are behind it (R261). -/
def noteBlock (s : State) (p : Nat) : State :=
  { s with disp := { s.disp with blocked := match firstWith (fun (o : Ord) => decide (o.joined + 100000 ≤ s.now)) (s.order p) with
    | some o => Tab.put p (o.lseq, o.tlin) s.disp.blocked
    | none => Tab.del p s.disp.blocked } }

/-- The teams of an order up to the one that no later team may pass. -/
def upToBlock (b : Option (Nat × Nat)) : List Ord → List Ord
  | [] => []
  | o :: t => match b with
    | some (l, n) => if o.isTeam l n then [o] else o :: upToBlock b t
    | none => o :: upToBlock b t

/-- The cores in the order in which a partition's start tries them. -/
def State.coreOrder (s : State) (p : Nat) : List Nat :=
  let c := nth 127 s.disp.lastCore p
  upFrom (c + 1) (127 - c) ++ upFrom 0 (c + 1)

/-- The core that R261 chooses for a team. -/
def State.chooseCore (s : State) (p : Nat) (n : Need) (anyPoint : Bool) : Option (Nat × Placing) :=
  firstSome (fun c => (s.fits c n anyPoint).map (fun x => (c, x))) (s.coreOrder p)

/-- Whether a die's front end may start or resume a team (R261). -/
def State.frontEnd (s : State) (die : Nat) : Bool := nth 0 s.disp.lastStart die == 0 || decide (nth 0 s.disp.lastStart die + 7 ≤ s.cyc)

/-! ### Starting (R21, R48, R67, R68, R77, R262) -/

/-- The lanes of role n of a team at its start. -/
def roleLanes (r : Rec) (n : Nat) : List Lane :=
  (upFrom 0 (32 * nth 0 r.lanes32 n)).map (fun i =>
    { role := n, rlid := i, h := BitVec.ofNat 56 (nth 0 r.rolePc n).toNat,
      regs := List.replicate (8 * nth 0 r.regs8 n) {}, preds := List.replicate 63 {} })

/-- A team at its start. -/
def freshTeam (s : State) (lseq tlin : Nat) (g : Grid) (core : Nat) (x : Placing) : Team :=
  { lseq := lseq, tlin := tlin, loc := .resident core x.slot, lanes := (upFrom 0 4).flatMap (roleLanes g.lrec),
    scal := List.replicate 32 0, padb := g.lrec.padb, padAt := x.padAt, flush := g.lrec.flush, since := s.cyc, started := s.cyc, points := configPoints g.config }

/-- The team pigeonholes of a team (R221). -/
def teamHoles (tid ctx : Nat) (holes : List (Nat × Nat × Nat)) (units : List (List (Nat × Nat))) : List Pigeon :=
  (holes.zip units).map (fun e => { scope := 0, owner := tid, num := e.1.1, ctx := ctx, kind := e.1.2.1, depth := e.1.2.2, units := e.2 })

/-- The books of the dispatch engine after a start or resume on a core (R261). -/
def noteStart (s : State) (p core : Nat) : State :=
  { s with disp := { s.disp with
    lastCore := setAt s.disp.lastCore p core
    lastStart := setAt s.disp.lastStart (dieOf core) (s.cyc + 1)
    chosen := s.disp.chosen.filter (fun c => c.1 != p)
    blocked := Tab.del p s.disp.blocked } }

/-- A team starts on a core, held for its die's operating point if `hold` (R262, R266). -/
def startTeam (s : State) (o : Ord) (core : Nat) (x : Placing) (hold : Bool) : State :=
  match s.grid o.lseq with
  | none => s
  | some g =>
    let tid := s.ids
    let t := { freshTeam s o.lseq o.tlin g core x with heldPoint := hold }
    let s := noteStart { s with
      ids := s.ids + 1
      teams := Tab.put tid t s.teams
      pigeons := s.pigeons ++ teamHoles tid g.ctx (configHoles g.config) x.units } g.lrec.part core
    let s := s.modGrid o.lseq (fun g => { g with next := o.tlin + 1 })
    fileLanes s tid (upFrom 0 t.lanes.length)

end Sys2Proof.Machine
end

