-- ==== Sys2Proof/Machine/Shake.lean ====
section
/-! DEFINITION. Shake.lean: SHAKE256 and SHAKE128, the published functions that R272, R463 and R464 name (FIPS 202), on lists of bytes. -/

namespace Sys2Proof.Machine

open Sys2Proof

/-! ### Keccak-f[1600]: lane (x, y) of the state is element x + 5 y -/

/-- The next state of the eight-bit register that FIPS 202 draws the round constants from: x^8 = x^6 + x^5 + x^4 + 1. -/
def lfsrNext (r : Nat) : Nat := if r < 128 then 2 * r else (2 * r - 256) ^^^ 0x71

/-- A register state and its successors, `n` in all. -/
def lfsrFrom (r : Nat) : Nat → List Nat
  | 0 => []
  | n + 1 => r :: lfsrFrom (lfsrNext r) n

/-- The round constants of `n` rounds: each takes seven states of the register, and the lowest bit of the j-th stands at bit 2^j − 1. -/
def roundConsts (states : List Nat) : Nat → List DWord
  | 0 => []
  | n + 1 => BitVec.ofNat 64 (sumOf (((states.take 7).zip (upFrom 0 7)).map (fun e => e.1 % 2 * 2 ^ (2 ^ e.2 - 1)))) :: roundConsts (states.drop 7) n

def keccakConsts : List DWord := roundConsts (lfsrFrom 1 168) 24

/-- The walk of ρ over the lanes other than (0, 0): the t-th lane is rotated by the (t + 1)-th triangular number, and (y, 2 x + 3 y) follows
(x, y). -/
def rhoWalk (x y t : Nat) : Nat → List Nat → List Nat
  | 0, rots => rots
  | n + 1, rots => rhoWalk y ((2 * x + 3 * y) % 5) (t + 1) n (setAt rots (x + 5 * y) ((t + 1) * (t + 2) / 2 % 64))

/-- The rotation of each lane. -/
def keccakRots : List Nat := rhoWalk 1 0 0 24 (List.replicate 25 0)

/-- The step θ. -/
def keccakTheta (a : List DWord) : List DWord :=
  let c := (upFrom 0 5).map (fun x => nth 0 a x ^^^ nth 0 a (x + 5) ^^^ nth 0 a (x + 10) ^^^ nth 0 a (x + 15) ^^^ nth 0 a (x + 20))
  let d := (upFrom 0 5).map (fun x => nth 0 c ((x + 4) % 5) ^^^ (nth 0 c ((x + 1) % 5)).rotateLeft 1)
  (upFrom 0 25).map (fun i => nth 0 a i ^^^ nth 0 d (i % 5))

/-- The steps ρ and π: lane (x, y) of the result is the rotated lane (x + 3 y, x). -/
def keccakRhoPi (a : List DWord) : List DWord :=
  let r := (a.zip keccakRots).map (fun e => e.1.rotateLeft e.2)
  (upFrom 0 25).map (fun i => nth 0 r ((i % 5 + 3 * (i / 5)) % 5 + 5 * (i % 5)))

/-- The step χ. -/
def keccakChi (a : List DWord) : List DWord :=
  (upFrom 0 25).map (fun i => nth 0 a i ^^^ (~~~ nth 0 a (i / 5 * 5 + (i + 1) % 5) &&& nth 0 a (i / 5 * 5 + (i + 2) % 5)))

/-- The permutation. -/
def keccakF (a : List DWord) : List DWord :=
  keccakConsts.foldl (fun a rc => match keccakChi (keccakRhoPi (keccakTheta a)) with
    | [] => []
    | x :: t => (x ^^^ rc) :: t) a

/-! ### The sponge -/

/-- 64-bit words of some bytes, `n` of them. -/
def lanesOf (bytes : List Byte) : Nat → List DWord
  | 0 => []
  | n + 1 => BitVec.ofNat 64 (leNat (bytes.take 8)) :: lanesOf (bytes.drop 8) n

/-- Takes in blocks of `rate` bytes, the last of them padded. -/
def keccakAbsorb (rate : Nat) (a : List DWord) (msg : List Byte) : Nat → List DWord
  | 0 => a
  | k + 1 =>
    if msg.length < rate then
      let block := msg ++ 0x1F :: List.replicate (rate - 1 - msg.length) 0
      let block := setAt block (rate - 1) (nth 0 block (rate - 1) ||| 0x80)
      keccakF ((a.zip (lanesOf block 25)).map (fun e => e.1 ^^^ e.2))
    else keccakAbsorb rate (keccakF ((a.zip (lanesOf (msg.take rate) 25)).map (fun e => e.1 ^^^ e.2))) (msg.drop rate) k

/-- Gives out `blocks` blocks of `rate` bytes. -/
def keccakSqueeze (rate : Nat) (a : List DWord) : Nat → List Byte
  | 0 => []
  | k + 1 => (a.flatMap (fun w => leBytes 8 w.toNat)).take rate ++ keccakSqueeze rate (keccakF a) k

/-- SHAKE with a rate of so many bytes: 136 for SHAKE256, 168 for SHAKE128; the first `n` bytes of its output. -/
def shake (rate n : Nat) (msg : List Byte) : List Byte :=
  (keccakSqueeze rate (keccakAbsorb rate (List.replicate 25 0) msg (msg.length / rate + 1)) (n / rate + 1)).take n

/-- The first 64 bytes of SHAKE256, the first byte lowest. -/
def shake256 (msg : List Byte) : BitVec 512 := BitVec.ofNat 512 (leNat (shake 136 64 msg))

end Sys2Proof.Machine
end

