-- ==== Sys2Proof/Machine/Saving.lean ====
section
/-! DEFINITION. Saving.lean: pre-emption (R270 to R274): images and the save area, saves, victims, resumption. -/

namespace Sys2Proof.Machine

open Sys2Proof

/-! ### The save area (R251, R272) -/

def Ctx.saveBase (c : Ctx) : Nat := fld (c.word 4) 16 36 * 65536
def Ctx.saveUnits (c : Ctx) : Nat := fld (c.word 5) 0 32

/-- Bytes of a team's image (R272). -/
def imageBytes (s : State) (tid : Nat) (t : Team) : Nat :=
  4096 + sumOf (t.lanes.map (fun l => 64 + 5 * l.regs.length)) + t.padb
    + sumOf ((s.pigeons.filter (fun p => p.scope == 0 && p.owner == tid)).map (fun p => p.depth * (kindWidth p.kind + 1)))
    + 128 * (s.cmds.filter (fun e => e.2.tid == tid)).length + 32768 * t.acc.runits + 262144 * t.acc.bunits + 4112 * t.trees.length

/-- The lowest run of free units of a context's save area that holds a team's image: unit, units, bytes (R272). -/
def imagePlace (s : State) (tid : Nat) (t : Team) : Option (Nat × Nat × Nat) :=
  let ctx := s.ctxOf t
  let n := imageBytes s tid t
  let used := s.teams.filterMap (fun e => match e.2.image with
    | some (u, k, _, _) => if s.ctxOf e.2 = ctx then some (u, k) else none
    | none => none)
  (placeRun (s.ctx ctx).saveUnits (ceilDiv n 65536) used [] (fun _ => true)).map (fun u => (u, ceilDiv n 65536, n))

/-- Whether a team may be saved: it is resident, runs on, and its image fits. -/
def State.canSave (s : State) (tid : Nat) (t : Team) : Bool :=
  (match t.loc with
    | .resident _ _ => true
    | .saving _ _ | .saved => false) && t.returned == 0 && (imagePlace s tid t).isSome

/-! ### Saves (R271) -/

/-- What a lane waits for while its team is saved: only a dead-letter record keeps it (R187); an act or a post is withdrawn, and issued again at
resume (R247, R274). -/
def Lane.stopWaiting (l : Lane) : Lane :=
  match l.wait with
  | some (.post _) => l
  | _ => { l with wait := none }

/-- Whether a waiting act of a team is issued again as a word at resume; the others owe D (R247). -/
def PActKind.atWord : PActKind → Bool
  | .push _ | .rput _ _ => true
  | .pop | .poll | .stamp _ | .rtake | .await _ => false

/-- A save begins: lanes halt, waiting acts are withdrawn, commands suspend, and the image's place is taken (R271 steps 1 and 2). -/
def saveBegin (s : State) (tid : Nat) : State :=
  match s.team tid with
  | none => s
  | some t => match t.loc, imagePlace s tid t with
    | .resident c k, some (u, n, b) =>
      if t.returned ≠ 0 then s
      else
        let s := endPair (unplace s tid (upFrom 0 t.lanes.length)) tid
        let mine := s.pacts.filter (fun e => e.2.tid == tid)
        let s := ((s.cmds.filter (fun (e : Nat × Cmd) => e.2.tid == tid)).map Prod.fst).foldl abandon s
        let s := { s with
          ids := s.ids + 1
          pacts := s.pacts.filter (fun e => e.2.tid != tid)
          cmds := s.cmds.map (fun (e : Nat × Cmd) => if e.2.tid = tid then (e.1, { e.2 with suspended := true }) else e) }
        s.modTeam tid (fun t => { t with
          loc := .saving c k, image := some (u, n, b, s.ids - 1)
          lanes := t.lanes.map Lane.stopWaiting
          traps := t.traps.map (fun p => { p with waits := false })
          owed := mine.filter (fun e => !e.2.kind.atWord) })
    | _, _ => s

/-- Whether an access lets its team be saved: a load that can be issued again (R164). -/
def Flight.savable (f : Flight) : Bool :=
  match f.kind with
  | .ld _ _ | .win _ _ | .pld _ _ | .tagr | .ldp _ _ | .xlq _ _ | .pref _ | .kvx _ _ _ | .fabLd _ => match f.stage with
    | .ready | .page _ | .edge _ | .got _ | .owed => true
    | .fail _ | .post _ | .bad => false
  | .fabSt _ | .fabRmw | .done _ _ _ | .st _ | .rmw _ _ | .red _ _ | .qpush | .qpop | .tagw => false

/-- Writes a team's image (R271 step 3, R272): its bytes, and a digest of them in the last 64. -/
def writeImage (s : State) (ctx unit bytes num : Nat) : State :=
  let at_ := (s.ctx ctx).saveBase + 65536 * unit
  let body := (upFrom 0 (bytes - 64)).map (Config.imageByte num)
  let s := touch s at_ bytes
  { s with mem := Mem.write s.mem at_ (body ++ leBytes 64 (shake256 body).toNat) }

/-- A save completes (R271 steps 3 and 4): once what the team has issued is settled, its resources on the core are freed. -/
def saveDone (s : State) (tid : Nat) : State :=
  match s.team tid with
  | none => s
  | some t => match t.loc, t.image with
    | .saving _ _, some (u, _, b, num) =>
      if t.returned ≠ 0 || !s.flights.all (fun e => e.2.tid != tid || e.2.savable)
          || s.cmds.any (fun e => e.2.tid == tid && !e.2.late.isEmpty) then s
      else
        let s := writeImage s (s.ctxOf t) u b num
        let s := s.modTeam tid (fun t => { t with
          loc := .saved, budBase := t.budBase + (s.cyc - t.since), joined := s.now, heldPoint := false
          dbg := t.dbg || t.lanes.any (fun l => l.halted.isSome) })
        { s with
          pigeons := s.pigeons.map (fun p => if p.scope = 0 ∧ p.owner = tid then { p with units := [] } else p)
          flights := s.flights.map (fun e => if e.2.tid = tid then (e.1, { e.2 with stage := .owed, early := [], lag := none }) else e)
          fab := { s.fab with outs := s.fab.outs.filter (fun o => match o.2.owner with
            | .lane fid => ((Tab.find fid s.flights).map (fun (f : Flight) => f.tid)) ≠ some tid
            | .cmd _ _ _ _ | .fold _ => true) }
          cmds := s.cmds.map (fun e => match e.2.instr with
            | .preempt _ _ _ _ => if e.2.vals.contains tid then (e.1, { e.2 with data := [nth 0 e.2.data 0 + 1] }) else e
            | _ => e) }
    | _, _ => s

/-- The state without some teams and their pigeonholes, as far as resources go. -/
def State.without (s : State) (tids : List Nat) : State :=
  { s with
    teams := s.teams.filter (fun e => !tids.contains e.1)
    pigeons := s.pigeons.filter (fun p => !(p.scope == 0 && tids.contains p.owner)) }

/-! ### Victims (R270) -/

/-- The teams of a core that rank below a partition: the lowest-ranked partition first, the most recently started first. -/
def State.victims (s : State) (p core : Nat) : List (Nat × Team) :=
  let part := fun (t : Team) => ((s.grid t.lseq).map (fun g => g.lrec.part)).getD 0
  sortBy (fun e => (3 - part e.2) * 2 ^ 64 + (2 ^ 64 - 1 - e.2.started)) ((s.onCore core).filter (fun e => decide (p < part e.2)))

/-- A victim set for a core: teams are taken, those whose images do not fit passed over, until the waiting team would fit. The state
beside is one in which the images of those taken have their places. -/
def victimSet (base s : State) (core : Nat) (n : Need) (acc : List Nat) : List (Nat × Team) → Option (List Nat)
  | [] => if ((base.without acc).fits core n false).isSome then some acc else none
  | (tid, t) :: rest =>
    if ((base.without acc).fits core n false).isSome then some acc
    else if s.canSave tid t then victimSet base (saveBegin s tid) core n (acc ++ [tid]) rest
    else victimSet base s core n acc rest

/-- The victims of the core that R270 chooses for the first team of a partition's order. -/
def preemptChoice (s : State) (p : Nat) : Option (List Nat) :=
  match s.order p with
  | [] => none
  | o :: _ =>
    let saving := (s.teams.filter (fun e => match e.2.loc with
      | .saving _ _ => true
      | .resident _ _ | .saved => false)).map Prod.fst
    let base := s.without saving
    if (base.chooseCore p o.need false).isSome then none
    else
      let sets := (upFrom 0 128).filterMap (fun c =>
        (victimSet base s c o.need [] ((s.victims p c).filter (fun e => !saving.contains e.1))).map (fun v => (c, v)))
      let lanes := fun (v : List Nat) => sumOf (v.map (fun tid => ((s.team tid).map (fun t => t.lanes.length)).getD 0))
      (leastBy (fun (x : Nat × List Nat) => lanes x.2) sets).map Prod.snd

/-- Saves begin for the victims of a partition's first team (R270, case 1). -/
def preemptFor (s : State) (p : Nat) : State :=
  match preemptChoice s p with
  | none => s
  | some v => v.foldl saveBegin s

/-! ### Resumption (R273) -/

/-- Whether a saved team's image has its digest (R272). -/
def imageGood (s : State) (ctx unit bytes : Nat) : Bool :=
  let b := Mem.read s.mem ((s.ctx ctx).saveBase + 65536 * unit) bytes
  leNat (b.drop (bytes - 64)) == (shake256 (b.take (bytes - 64))).toNat

/-- A load that waits for a page, or is issued again, is translated from a core: its stage and place, or the service or failure that it meets
(R164, R177, R179). -/
def retranslate (s : State) (core fid : Nat) (f : Flight) : State :=
  let tg := { f.tags with core := core }
  let put := fun (s : State) (g : Flight) => { s with flights := Tab.put fid g s.flights }
  let page := s.pageAt tg.ctx f.ptr.toNat
  match translateOr s (clusterOf core) tg.ctx f.ptr.toNat (if f.kind = .tagr then .tagr else .ld) (Nat.max 1 f.size) with
  | (.ok pa leaf _, s) => put s { f with tags := tg, stage := .ready, pa := f.place pa, leaf := BitVec.ofNat 64 leaf }
  | (.fail c _, s) => match f.kind with
    | .pref _ => landed s fid
    | .ldp _ _ =>
      if c = 1 then put (request s tg.ctx page (dieOf core)) { f with tags := tg, stage := .page page }
      else put s { f with tags := tg, stage := .fail c }
    | _ => put s { f with tags := tg, stage := if c = 1 ∧ (s.svc tg.ctx page).isSome then .page page else .fail c }

/-- An owed load is issued again from the new core (R164): one that had been read before the save is read again, whatever the lane has
stored since (assumption log 123). -/
def reissue (s : State) (core fid : Nat) (f : Flight) : State :=
  let put := fun (s : State) (g : Flight) => { s with flights := Tab.put fid g s.flights }
  let tg := { f.tags with core := core }
  match f.kind with
  | .xlq _ _ | .win _ _ | .kvx _ _ _ => put s { f with tags := tg, stage := .ready }
  | .pld off sz => put s { f with tags := tg, stage := .got (BitVec.ofNat 64 (leNat (padRead s f.tid off (szBytes sz)))) }
  | .fabLd sz => reissueFab s core fid f sz
  | _ => retranslate s core fid f

/-- The pigeonhole on which a take is issued again on a core, its cluster being that of the core now (R219, R247), or the trap of the checks of
R224 and R228. -/
def takeAgain (s : State) (core ctx : Nat) (a : PAct) : Except (Nat × Word) Pigeon :=
  let h : Word := BitVec.ofNat 32 (a.scope * 2 ^ 30 + a.num)
  match s.pigeon a.scope (handleOwner a.scope a.tid core) a.num with
  | none => .error (0x60, h)
  | some p =>
    if p.ctx ≠ ctx then .error (0x60, h)
    else match a.kind with
      | .pop => if p.kind = b2n a.wide then .ok p else .error (0x61, h)
      | .poll => if p.kind = 0 then .ok p else .error (0x61, h)
      | .rtake => if p.kind = 2 then .ok p else .error (0x61, h)
      | .stamp n => if p.kind = 2 then .error (0x61, h) else if p.depth < n then .error (0x63, BitVec.ofNat 32 n) else .ok p
      | .push _ | .rput _ _ | .await _ => .ok p

/-- A waiting act is issued again under a new number, to which its D is then bound, and performed at once where its turn has come (R247). One
whose object is there no more traps as its word does, and its D is delivered with poison (assumption log 122). -/
def requeue (s : State) (tid core ctx : Nat) (e : Nat × PAct) : State :=
  let bind := fun (r : Reg) => match r.st with
    | .pend n port => if n = e.1 then { r with st := .pend s.ids port } else r
    | .full | .opn => r
  let n := s.ids
  let s := { s.modLane tid e.2.lid (fun l => { l with regs := l.regs.map bind }) with ids := s.ids + 1 }
  let put := fun (s : State) (a : PAct) => { s with pacts := Tab.put n a s.pacts }
  match e.2.kind with
  | .await _ => match (s.team tid).bind (fun t => Tab.find e.2.num t.points) with
    | some pt => serveAwaits (put s e.2) tid e.2.num pt
    | none => put s e.2
  | _ => match takeAgain s core ctx e.2 with
    | .ok p => serveAct (put s { e.2 with owner := p.owner }) n
    | .error (code, info) =>
      raiseTrap (serveValue s n e.2 0 0 true) tid e.2.lid ⟨e.2.h, causeWord code 5 e.2.slot false false e.2.count, info⟩

/-- A lane on a new core: no copy that the core holds may serve it unless it is filled later than any that the lane has read (R158 point 1). -/
def Lane.moved (n : Nat) (l : Lane) : Lane := { l with seen := [], floor := n }

/-- A team resumes on a core (R273), held for its die's operating point if `hold`; an image without its digest faults the context
(R272). -/
def resumeTeam (s : State) (tid core : Nat) (x : Placing) (hold : Bool) : State :=
  match s.team tid with
  | none => s
  | some t => match s.grid t.lseq, t.image with
    | some g, some (u, _, b, _) =>
      if !imageGood s g.ctx u b then ctxFault s g.ctx 7 (t.lseq % 2 ^ 24)
      else
        let holes := s.savedHoles tid
        let s := noteStart s g.lrec.part core
        let s := s.modTeam tid (fun t => { t with
          loc := .resident core x.slot, padAt := x.padAt, since := s.cyc, heldPoint := hold, image := none, owed := []
          acc := { t.acc with rowAt := x.rowAt, bAt := x.bAt } })
        let s : State := { s with
          pigeons := s.pigeons.map (fun p => if p.scope = 0 ∧ p.owner = tid then
            { p with units := (firstSome (fun (e : (Nat × Nat × Nat) × List (Nat × Nat)) => if e.1.1 = p.num then some e.2 else none) (holes.zip x.units)).getD [] }
            else p)
          cmds := s.cmds.map (fun (e : Nat × Cmd) => if e.2.tid = tid then (e.1, { e.2 with tags := { e.2.tags with core := core } }) else e) }
        let s := ((s.cmds.filter (fun (e : Nat × Cmd) => e.2.tid == tid)).map Prod.fst).foldl rejoin s
        let lanes := (t.unhalt.getD []).foldl (modAt (fun (l : Lane) => { l with halted := none })) (t.lanes.map (Lane.moved s.ids))
        let s := s.modTeam tid (fun t => { t with
          lanes := lanes, unhalt := none, dbg := if t.unhalt.isSome then lanes.any (fun l => l.halted.isSome) else t.dbg })
        let s := t.owed.foldl (fun s e => requeue s tid core g.ctx e) s
        let s := postFabric (eachRun s (fun s => reissue s core) (s.flights.filter (fun e => e.2.tid == tid && e.2.stage == .owed))) tid core
        match s.team tid with
        | none => s
        | some t => fileLanes s tid ((upFrom 0 t.lanes.length).filter (fun lid => !t.traps.any (fun p => p.lid == lid)))
    | _, _ => s

/-! ### The order's next start or resume (R261, R266) -/

/-- A team of an order starts or resumes on a core. -/
def beginOrd (s : State) (o : Ord) (core : Nat) (x : Placing) (hold : Bool) : State :=
  match o.saved with
  | some tid => resumeTeam s tid core x hold
  | none => startTeam s o core x hold

/-- The start or resume that R261 makes next: the first team that fits, on the core chosen for it. -/
def nextOrd (s : State) (p : Nat) (os : List Ord) : Option (Ord × Nat × Placing) :=
  firstSome (fun o => (s.chooseCore p o.need false).map (fun c => (o, c.1, c.2))) os

/-- Starts (or, if `saved`, resumes) the next team of a partition's order; a front end that is not ready yet makes it wait for its
core (R261). -/
def startNext (s : State) (p : Nat) (saved : Bool) : State :=
  let s := noteBlock s p
  let os := upToBlock (Tab.find p s.disp.blocked) (s.order p)
  let chosen := (Tab.find p s.disp.chosen).bind (fun c =>
    (firstWith (fun (o : Ord) => o.isTeam c.1 c.2.1) os).bind (fun o => (s.fits c.2.2 o.need false).map (fun x => (o, c.2.2, x))))
  match (match chosen with
    | some c => some c
    | none => nextOrd s p os) with
  | none => { s with disp := { s.disp with chosen := Tab.del p s.disp.chosen } }
  | some (o, core, x) =>
    if !s.frontEnd (dieOf core) then { s with disp := { s.disp with chosen := Tab.put p (o.lseq, o.tlin, core) s.disp.chosen } }
    else if o.saved.isSome = saved then beginOrd s o core x false
    else s

/-! ### Operating points (R266) -/

def State.point (s : State) (die : Nat) : DiePoint := nth {} s.disp.points die
def State.modPoint (s : State) (die : Nat) (f : DiePoint → DiePoint) : State :=
  { s with disp := { s.disp with points := modAt f s.disp.points die } }

/-- A switch of a die begins. -/
def beginSwitch (s : State) (die k : Nat) : State := s.modPoint die (fun d => { d with sw := some (k, s.now) })

/-- A resident team of a die's class. -/
def State.classHeld (s : State) (die k : Nat) : Bool :=
  s.teams.any (fun e => match e.2.place, s.grid e.2.lseq with
    | some (c, _), some g => dieOf c == die && g.lrec.opclass == k
    | _, _ => false)

/-- SWITCH_BEGIN for the first team of a partition's order. -/
def switchFor (s : State) (p : Nat) : State :=
  match s.order p with
  | [] => s
  | o :: _ =>
    if o.need.lrec.opclass = 0 ∨ (s.chooseCore p o.need false).isSome then s
    else match s.chooseCore p o.need true with
      | none => s
      | some (core, x) =>
        let d := s.point (dieOf core)
        if d.sw.isSome || d.cls == o.need.lrec.opclass || !s.frontEnd (dieOf core) then s
        else if d.since + 100000 ≤ s.now ∨ !s.classHeld (dieOf core) d.cls then
          beginOrd (beginSwitch s (dieOf core) o.need.lrec.opclass) o core x true
        else s

/-- The first switch that a write of CLASS has asked for on a die and that its present class does not make idle, and what remains asked for
(R281, R456). -/
def takeClass (die k : Nat) : List (Nat × Nat) → Option Nat × List (Nat × Nat)
  | [] => (none, [])
  | (d, j) :: t =>
    if d = die then if j = k then takeClass die k t else (some j, t)
    else ((takeClass die k t).1, (d, j) :: (takeClass die k t).2)

/-- SWITCH_COMPLETE: the die is stable at its new class, and the teams held for it run. -/
def switchDone (s : State) (die : Nat) : State :=
  match (s.point die).sw with
  | none => s
  | some (k, _) =>
    let s := s.modPoint die (fun d => { d with cls := k, since := s.now, sw := none })
    let next := takeClass die k s.disp.classReq
    let s := { s with disp := { s.disp with classReq := next.2 } }
    let s := match next.1 with
      | some j => beginSwitch s die j
      | none => s
    (s.teams.filter (fun e => e.2.heldPoint && (match e.2.place with
        | some (c, _) => dieOf c == die
        | none => false))).foldl (fun s e =>
      fileLanes (s.modTeam e.1 (fun t => { t with heldPoint := false })) e.1
        ((upFrom 0 e.2.lanes.length).filter (fun lid => !e.2.traps.any (fun p => p.lid == lid)))) s

end Sys2Proof.Machine
end

