-- ==== Sys2Proof/Machine/Dispatcher.lean ====
section
/-! DEFINITION. Dispatcher.lean: the dispatch engine (R248 to R285): the meanings of class 0x6 and of its events. -/

namespace Sys2Proof.Machine

open Sys2Proof

/-! ### Grids and handles (R254, R264, R282) -/

/-- Grids of a context that live under a handle, taken or still in the out-tray, the oldest first. -/
def State.liveHandle (s : State) (ctx h : Nat) : Option Nat :=
  leastBy id (((s.grids.filter (fun g => g.2.ctx == ctx && g.1 % 2 ^ 24 == h)).map Prod.fst)
    ++ ((s.disp.tray.filter (fun r => r.ctx == ctx && r.lseq % 2 ^ 24 == h)).map Tray.lseq))

/-- Whether a grid lives: it is in the grid table or the out-tray. -/
def State.livesGrid (s : State) (lseq : Nat) : Bool := (s.grid lseq).isSome || s.disp.tray.any (fun r => r.lseq == lseq)

/-- The grid that posted a grid. -/
def State.posterOf (s : State) (lseq : Nat) : Option Nat :=
  match s.grid lseq with
  | some g => g.posterGrid
  | none => (firstWith (fun (r : Tray) => r.lseq == lseq) s.disp.tray).bind Tray.posterGrid

/-- Whether a grid is another one or an ancestor of it; a depth is at most 10 (R264). -/
def State.selfOrAbove (s : State) (anc lseq : Nat) : Nat → Bool
  | 0 => false
  | n + 1 => anc == lseq || match s.posterOf lseq with
    | some p => s.selfOrAbove anc p n
    | none => false

/-- Grids that a team posted and that have not retired. -/
def State.childrenOf (s : State) (tid : Nat) : Nat :=
  (s.grids.filter (fun g => g.2.posterTeam == some tid)).length + (s.disp.tray.filter (fun r => r.posterTeam == some tid)).length

/-! ### post (R264, R278) -/

/-- A record enters the out-tray with the next lseq, posted by a team of a grid of some context and depth; one whose carbon has been shredded
while it waited for an entry is discarded there (R254, R479). -/
def trayAdd (s : State) (ctx depth tid lseq : Nat) (l : Launch) : State :=
  let r : Tray := { lseq := s.disp.lseq, ctx := ctx, lrec := l.lrec, config := l.config, depth := depth + 1, posterTeam := some tid,
                    posterGrid := some lseq, carbon := if l.lrec.pm then l.lrec.carbon else 0, sets := l.sets }
  { s with disp := { s.disp with
    lseq := s.disp.lseq + 1
    tray := s.disp.tray ++ if l.lrec.pm && l.lrec.carbon == noCarbon then [] else [r] } }

/-- The record of a post. -/
def trayPut (s : State) (w : WordCtx) (l : Launch) : State := trayAdd s w.grid.ctx w.grid.depth w.group.tid w.team.lseq l

/-- The record of a post with the changes of GX, PAR and PMK, or the cause that stops it (R278). -/
def postRec (pmk par gx : Bool) (v blk : Nat) (b : Word) : Except Nat Nat :=
  if gx && (decide (65535 < b.toNat) || b == 0) then .error 0x22
  else
    let v := if gx then putFld v 320 16 b.toNat else v
    let v := if par then putFld v 512 64 (fld blk 64 64) else v
    .ok (if pmk then putFld (putFld v 576 48 (fld blk 128 48)) 368 1 1 else v)

/-- post for one lane: NOT_LEADER, NEST_DEPTH, LAUNCH_INVALID, the parking of a plain child, and the out-tray. -/
def postAct (i : Instr) (pmk par gx : Bool) (s : State) (w : WordCtx) (e : Ent) (a b : Val) : Act × State :=
  let tg := s.tagsOf w.core w.team
  let refused := fun (p : Nat) => e.lane.refused == some p
  let bad := fun (c : Nat) (s : State) => (Act.trap 0x72 (BitVec.ofNat 32 c), s)
  let serve := fun (p : Nat) (s : State) => (Act.block (.page p), askPage s w.group.tid e.lid w.grid.ctx p (dieOf w.core))
  match consumed i.uses [(.A, a), (.B, b)] with
  | some (c, n) => (.trap c n, s)
  | none =>
    let off := a.lo.toNat
    let d := ((destOf i).map (fun u => u.code.toNat)).getD 224
    if off % 64 ≠ 0 ∨ w.team.padb < off + 64 then (.trap 7 a.lo, s)
    else if e.lid ≠ 0 then (.trap 0x70 (BitVec.ofNat 32 e.lid), s)
    else if w.grid.depth = 10 then (.trap 0x71 10, s)
    else
      let blk := leNat (padRead s w.group.tid off 64)
      if fld blk 176 336 ≠ 0 then bad 0x20 s
      else if fld blk 0 7 ≠ 0 then bad 0x26 s
      else match readPtr s tg (fld blk 0 64) 128 refused with
        | (.page p, s) => serve p s
        | (.edge u p, s) => edgeBlock s w e u p
        | (.fail c, s) => bad c s
        | (.ok bytes, s) => match postRec pmk par gx (leNat bytes) blk b.lo with
          | .error c => bad c s
          | .ok v => match checkRec s tg v (some ⟨w.team.lseq, s.carbonOf w.team.lseq⟩) refused with
            | (.page p, s) => serve p s
            | (.edge u p, s) => edgeBlock s w e u p
            | (.fail c, s) => bad c s
            | (.ok l, s) =>
              if !l.lrec.pm && mustPark s w then (.park, s)
              else if 4096 ≤ s.disp.tray.length then (.block (.outTray l d (advance w.group e.lane).h (advance w.group e.lane).slot), s)
              else
                (.upd (({ e.lane with refused := none }).writeD d false (.w (statusWord 0 6 s.disp.lseq) false)), trayPut s w l)

def execPost (g : Guard) (pmk par gx : Bool) (d a b : Code) (s : State) : Host.Outcome State Fault Refusal :=
  finish (runSeq s (.post g pmk par gx d a b) (fun s w e x y _ => postAct (.post g pmk par gx d a b) pmk par gx s w e x y))

/-! ### accept and bleft (R279, R283) -/

/-- accept for one lane: the engine performs it as the cycle ends, in the order of cores and lanes (assumption log 118). -/
def acceptAct (s : State) (w : WordCtx) (e : Ent) (a b : Val) : Act × State :=
  if a.pl || b.pl then (.off, s)
  else
    let n := b.lo.toNat
    if n = 0 ∨ 65535 < n ∨ n < a.lo.toNat then (.trap 0x73 b.lo, s)
    else if s.disp.ptable.counts w.grid.lrec.part then
      (.off, { s with disp := { s.disp with accepts := s.disp.accepts ++ [(w.core, e.lid, a.lo.toNat * 65536 / n)] } })
    else (.off, s)

def execAccept (g : Guard) (a b : Src) (s : State) : Host.Outcome State Fault Refusal :=
  finish (runSeq s (.accept g a b) (fun s w e x y _ => acceptAct s w e x y))

/-- Cycles that a team has been resident and not saved (R267). -/
def Team.cycles (t : Team) (cyc : Nat) : Nat :=
  match t.loc with
  | .resident _ _ | .saving _ _ => t.budBase + (cyc - t.since)
  | .saved => t.budBase

/-- bleft's value. -/
def budgetLeft (budget count : Nat) : Word := if budget = 0 then 0xFFFFFFFF else BitVec.ofNat 32 (budget - count)

def execBleft (g : Guard) (d : Code) (s : State) : Host.Outcome State Fault Refusal :=
  finish (runWord s (.bleft g d) (fun w _ _ _ _ => .put (.w (budgetLeft w.grid.lrec.budget (w.team.cycles s.cyc)) false)))

/-! ### The commands' words (R275) -/

def execPshare (g : Guard) (keepe expert : Bool) (d a : Code) (s : State) : Host.Outcome State Fault Refusal :=
  finish (runCmd s (.pshare g keepe expert d a) false)
def execOpclass (g : Guard) (d a b : Code) (s : State) : Host.Outcome State Fault Refusal :=
  finish (runCmd s (.opclass g d a b) false)
/-- cwait counts the live grids of its team as it is issued (R282). -/
def execCwait (g : Guard) (all : Bool) (d a b : Code) (s : State) : Host.Outcome State Fault Refusal :=
  finish (runSeq s (.cwait g all d a b) (fun s w e x y _ =>
    let n := s.childrenOf w.group.tid
    let r := issueCmd (.cwait g all d a b) false s w e x y
    (r.1, if r.2.ids = s.ids then r.2 else r.2.modCmd s.ids (fun c => { c with data := [n] }))))
def execPreempt (g : Guard) (d a b : Code) (s : State) : Host.Outcome State Fault Refusal :=
  finish (runCmd s (.preempt g d a b) false)
def execPreemptResume (g : Guard) (d a b : Code) (s : State) : Host.Outcome State Fault Refusal :=
  finish (runCmd s (.preemptResume g d a b) false)
def execPquery (g : Guard) (d a : Code) (s : State) : Host.Outcome State Fault Refusal :=
  finish (runCmd s (.pquery g d a) false)

/-! ### The partition table (R256, R265, R280) -/

/-- The bits of a table. -/
def PTable.bits (t : PTable) : Nat :=
  t.ewma * 2 ^ 64 + b2n t.pairen * 2 ^ 63 + t.pairtot * 2 ^ 46 + t.smax * 2 ^ 39 + t.smin * 2 ^ 32 + t.target * 2 ^ 30 + t.draft * 2 ^ 28
    + nth 0 t.shares 3 * 2 ^ 21 + nth 0 t.shares 2 * 2 ^ 14 + nth 0 t.shares 1 * 2 ^ 7 + nth 0 t.shares 0

/-- The table in 128 bits. -/
def parseTable (v : Nat) : PTable :=
  { ewma := fld v 64 17, pairen := bit v 63, pairtot := fld v 46 7, smax := fld v 39 7, smin := fld v 32 7, target := fld v 30 2,
    draft := fld v 28 2, shares := [fld v 0 7, fld v 7 7, fld v 14 7, fld v 21 7] }

/-- Reserved bits of a table are zero. -/
def tableReserved (v : Nat) : Bool := fld v 53 10 == 0 && fld v 81 47 == 0

/-- A valid table (R256). -/
def PTable.valid (t : PTable) : Bool :=
  t.shares.all (fun x => decide (x ≤ 64)) && decide (sumOf t.shares ≤ 64) && decide (t.ewma ≤ 65536)
    && (!t.pairen || (t.draft != t.target && decide (t.smin ≤ t.smax) && decide (t.smax ≤ t.pairtot)
      && decide (t.pairtot + (sumOf t.shares - nth 0 t.shares t.draft - nth 0 t.shares t.target) ≤ 64)))

/-- pshare's step (R280). -/
def pshareStep (s : State) (cid : Nat) (c : Cmd) (keepe expert : Bool) : Eng Unit :=
  if !cmdFront s c then holdCmd s cid
  else if !(s.ctx c.tags.ctx).ctl then .fail 0x28 0 s
  else if expert && (c.f 128 384 != 0 || !tableReserved (c.f 0 128)) then .fail 0x20 0 s
  else
    let t := if expert then parseTable (c.f 0 128) else {}
    let t := if keepe then { t with ewma := s.disp.ptable.ewma } else t
    if t.valid then .ok () (endCmd { s with disp := { s.disp with ptable := t } } cid 0 0) else .fail 0x2B 0 s

/-! ### The other commands' steps (R281 to R285) -/

/-- opclass (R281): step 1 waits for the die to be stable. -/
def opclassStep (s : State) (cid : Nat) (c : Cmd) : Eng Unit :=
  let die := dieOf c.tags.core
  let p := s.point die
  let b := c.b.toNat
  if c.step = 0 then
    if b = 0 ∨ b = p.cls then .ok () (endCmd s cid 0 p.cls)
    else if 7 < b then .fail 0x23 0 s
    else if p.sw.isSome then .wait s
    else .ok () (nextStep (beginSwitch s die b) cid id)
  else if p.sw.isSome then .wait s
  else .ok () (endCmd s cid 0 p.cls)

/-- cwait (R282): step 0 finds the grid, step 1 waits for it to retire. -/
def cwaitStep (s : State) (cid : Nat) (c : Cmd) (all : Bool) : Eng Unit :=
  if all then
    if s.childrenOf c.tid = 0 then .ok () (endCmd s cid 0 (Nat.min 0x7FFFFF (nth 0 c.data 0))) else .wait s
  else if c.step = 0 then
    if 2 ^ 24 ≤ c.b.toNat then .fail 0x23 0 s
    else match s.liveHandle c.tags.ctx c.b.toNat with
      | none => .ok () (endCmd s cid 0 0)
      | some l =>
        if s.selfOrAbove l (cmdLseq s c) 12 then .fail 0x2A 0 s
        else .ok () (nextStep s cid (fun c => { c with vals := [l] }))
  else if s.livesGrid (nth 0 c.vals 0) then .wait s
  else .ok () (endCmd s cid 0 (2 ^ 23))

/-- Whether a save of a team still runs. -/
def State.savingTeam (s : State) (tid : Nat) : Bool :=
  match (s.team tid).map Team.loc with
  | some (.saving _ _) => ((s.team tid).map Team.returned).getD 0 == 0
  | _ => false

/-- A grid is held by preempt; its teams that can be saved are, and the saves that run already are waited for (R271, R284). -/
def holdGrid (s : State) (lseq : Nat) : State × List Nat :=
  let s := { s.modGrid lseq (fun g => { g with held := true }) with
    disp := { s.disp with tray := s.disp.tray.map (fun (r : Tray) => if r.lseq = lseq then { r with held := true } else r) } }
  s.teams.foldl (fun (p : State × List Nat) e =>
    if e.2.lseq = lseq ∧ p.1.canSave e.1 e.2 then (saveBegin p.1 e.1, p.2 ++ [e.1])
    else if e.2.lseq = lseq ∧ p.1.savingTeam e.1 then (p.1, p.2 ++ [e.1]) else p) (s, [])

/-- The hold on a grid is lifted: its teams join the start order; the number of saved ones (R284). Teams whose save runs still are counted, and
a grid that was not held joins anew too (assumption log 128). -/
def liftGrid (s : State) (lseq : Nat) : State × Nat :=
  let saved := (s.teams.filter (fun e => e.2.lseq == lseq && (match e.2.loc with
    | .saved | .saving _ _ => true
    | .resident _ _ => false))).map Prod.fst
  let s := s.modGrid lseq (fun g => { g with held := false, joined := s.now })
  ({ s with
      disp := { s.disp with tray := s.disp.tray.map (fun (r : Tray) => if r.lseq = lseq then { r with held := false } else r) }
      teams := s.teams.map (fun (e : Nat × Team) => if saved.contains e.1 then (e.1, { e.2 with joined := s.now }) else e) }, saved.length)

/-- preempt, with RESUME or without (R284): step 1 waits for the saves. -/
def preemptStep (s : State) (cid : Nat) (c : Cmd) (resume : Bool) : Eng Unit :=
  if c.step = 0 then
    if !cmdFront s c then holdCmd s cid
    else if !(s.ctx c.tags.ctx).ctl then .fail 0x28 0 s
    else if 2 ^ 24 ≤ c.b.toNat then .fail 0x23 0 s
    else match s.liveHandle c.tags.ctx c.b.toNat with
      | none => .fail 0x29 0 s
      | some l =>
        if s.selfOrAbove l (cmdLseq s c) 12 then .fail 0x2A 0 s
        else if resume then (let r := liftGrid s l; .ok () (endCmd r.1 cid 0 r.2))
        else (let r := holdGrid s l; .ok () (nextStep r.1 cid (fun c => { c with vals := r.2, data := [0] })))
  else if c.vals.any s.savingTeam then .wait s
  else .ok () (endCmd s cid 0 (nth 0 c.data 0))

/-- The record of pquery (R285). -/
def pqueryRec (s : State) (tid : Nat) : Nat :=
  let d := fun k => s.point k
  s.disp.lseq % 2 ^ 64 * 2 ^ 192 + s.childrenOf tid % 2 ^ 32 * 2 ^ 160 + s.disp.tray.length % 2 ^ 13 * 2 ^ 147
    + b2n (d 1).sw.isSome * 2 ^ 139 + (d 1).cls * 2 ^ 136 + b2n (d 0).sw.isSome * 2 ^ 135 + (d 0).cls * 2 ^ 132 + s.disp.ptable.bits

/-- pquery (R285). -/
def pqueryStep (s : State) (cid : Nat) (c : Cmd) : Eng Unit :=
  if c.f 32 480 ≠ 0 then .fail 0x20 0 s
  else if c.f 0 5 ≠ 0 ∨ !padIn (cmdPadb s c) (c.f 0 32) 32 then .fail 0x2C 0 s
  else .ok () (endCmd (cmdPadWrite s cid c (c.f 0 32) (leBytes 32 (pqueryRec s c.tid))) cid 0 0)

/-- A step of a class 0x6 command. -/
def dispatchStep (s : State) (cid : Nat) (c : Cmd) : Eng Unit :=
  match c.instr with
  | .pshare _ keepe expert _ _ => pshareStep s cid c keepe expert
  | .opclass _ _ _ _ => opclassStep s cid c
  | .cwait _ all _ _ _ => cwaitStep s cid c all
  | .preempt _ _ _ _ => preemptStep s cid c false
  | .preemptResume _ _ _ _ => preemptStep s cid c true
  | .pquery _ _ _ => pqueryStep s cid c
  | _ => .ok () s

/-! ### Taking records (R253 to R255, R333, R336) -/

/-- A grid enters the grid table, and a task the task table (R254, R329, R336). -/
def makeGrid (s : State) (r : Tray) : State :=
  let s := { s with grids := Tab.put r.lseq { ctx := r.ctx, lrec := r.lrec, depth := r.depth, posterTeam := r.posterTeam,
                                              posterGrid := r.posterGrid, held := r.held, joined := s.now, config := r.config } s.grids }
  if !r.lrec.pm then s
  else
    let t : Task := { idx := (lowest (fun k => !s.tasks.any (fun e => e.2.idx == k)) 0 1024).getD 0, ctx := r.ctx, postmark := r.lrec.postmark,
                      carbon := r.carbon, st := .running, relaunch := r.relaunch, launch := r.launch,
                      holdm := !(r.lrec.guess && decide (r.relaunch < 8)), guess := r.lrec.guess, sets := r.sets, sets0 := r.sets }
    { s with tasks := Tab.put r.lseq (s.launched r.lseq t) s.tasks }

/-- The task that a waiting record with a key displaces (R333). -/
def State.displaced (s : State) (ctx pm lseq : Nat) : Option Nat :=
  let cand := s.tasks.filter (fun e => e.2.ctx == ctx && (e.2.st == .held || e.2.st == .running)
    && s.frontier ctx != some (e.2.postmark, e.1) && keyLt (pm, lseq) (e.2.postmark, e.1))
  (leastBy (fun e => 2 ^ 112 - (e.2.postmark * 2 ^ 64 + e.1)) cand).map Prod.fst

/-- DISPLACEMENT (R333): the task aborts, its entry is freed, and its record goes to the head of the out-tray. -/
def displace (s : State) (lseq : Nat) : State :=
  match s.grid lseq, s.task lseq with
  | some g, some t =>
    let s := abortTasks s [lseq] false
    match s.task lseq with
    | none => s
    | some u =>
      let r : Tray := { lseq := lseq, ctx := g.ctx, lrec := g.lrec, config := g.config, depth := g.depth, posterTeam := g.posterTeam,
                        posterGrid := g.posterGrid, carbon := u.carbon, sets := t.sets0, held := g.held, relaunch := t.relaunch,
                        launch := t.launch + 1, displaced := true }
      { s with
        tasks := Tab.del lseq s.tasks
        grids := Tab.del lseq s.grids
        disp := { s.disp with tray := r :: s.disp.tray } }
  | _, _ => s

/-- Whether records of a context may be taken (R458, R460). -/
def State.ctxRuns (s : State) (ctx : Nat) : Bool := (s.ctx ctx).st == .ready && (s.ctx ctx).fault.isNone

/-- What a source has next: its context, the record's PM, POSTMARK and lseq. -/
def State.sourceNext (s : State) (src : Nat) : Option (Nat × Bool × Nat × Nat) :=
  if src = 16 then match s.disp.tray.filter (fun r => s.ctxRuns r.ctx) with
    | [] => none
    | r :: _ => some (r.ctx, r.lrec.pm, r.lrec.postmark, r.lseq)
  else
    let q := Tab.get {} src s.disp.queues
    if q.en && q.head != q.tail % 2 ^ q.logn && s.ctxRuns q.ctx then
      let v := Mem.num s.mem (q.base.toNat + 128 * q.head) 128
      some (q.ctx, bit v 368, fld v 576 48, s.disp.lseq)
    else none

/-- A queue record that fails is dropped and counted, and a LAUNCH record is posted if it can be placed (R255). -/
def dropRecord (s : State) (src ctx pa cause : Nat) : State :=
  let s := { s with disp := { s.disp with queues := Tab.upd (fun q => { q with drops := (q.drops + 1) % 2 ^ 32 }) src s.disp.queues } }
  match placeRecs s 0 ctx [recOf [(192, pa), (40, cause), (32, 6), (24, src), (16, ctx), (0, 0x40)]] with
  | some (_, s) => s
  | none => s

/-- The books after a record has been taken from a source. -/
def noteTake (s : State) (src : Nat) : State := { s with disp := { s.disp with lastSrc := src, lastTake := s.cyc + 1 } }

/-- Takes the record at the head of a queue (R253, R254). -/
def takeQueue (s : State) (src : Nat) : State :=
  let q := Tab.get {} src s.disp.queues
  let pa := q.base.toNat + 128 * q.head
  let s := touch s pa 128
  let refused := fun (p : Nat) => s.disp.refused.contains (q.ctx, p)
  let taken := fun (s : State) => noteTake { s with disp := { s.disp with
    lseq := s.disp.lseq + 1
    queues := Tab.upd (fun q => { q with head := (q.head + 1) % 2 ^ q.logn }) src s.disp.queues
    refused := s.disp.refused.filter (fun e => e.1 != q.ctx) } } src
  match checkRec s ⟨0, q.ctx, 0, none⟩ (Mem.num s.mem pa 128) none refused with
  | (.page p, s) => { request s q.ctx p 0 with disp := { s.disp with pages := (q.ctx, p) :: s.disp.pages } }
  | (.edge _ _, s) => s
  | (.fail c, s) => dropRecord (taken s) src q.ctx pa c
  | (.ok l, s) =>
    let n := s.disp.lseq
    makeGrid (taken s) { lseq := n, ctx := q.ctx, lrec := l.lrec, config := l.config, depth := 1, posterTeam := none, posterGrid := none,
                         carbon := if l.lrec.pm then l.lrec.carbon else 0, sets := l.sets }

/-- Takes a record of the out-tray. -/
def takeTray (s : State) (lseq : Nat) : State :=
  match firstWith (fun (r : Tray) => r.lseq == lseq) s.disp.tray with
  | none => s
  | some r => makeGrid (noteTake { s with disp := { s.disp with tray := s.disp.tray.filter (fun x => x.lseq != lseq) } } 16) r

/-- RECORD_TAKE (R254, R333): the sources in rotation after the one last served; a record of a task for which no entry is free is passed
over, after it has displaced a task if it can. -/
def takeRecord (s : State) (fuel src : Nat) : State :=
  match fuel with
  | 0 => s
  | n + 1 =>
    match s.sourceNext src with
    | none => takeRecord s n ((src + 1) % 17)
    | some (ctx, pm, postmark, lseq) =>
      if pm && decide (1024 ≤ s.tasks.length) then
        match s.displaced ctx postmark lseq, decide (s.disp.tray.length < 4096) with
        | some v, true => if src = 16 then takeTray (displace s v) lseq else takeQueue (displace s v) src
        | _, _ => takeRecord s n ((src + 1) % 17)
      else if src = 16 then takeTray s lseq
      else takeQueue s src

def execRecordTake (s : State) : Host.Outcome State Fault Refusal :=
  finish (if s.disp.lastTake = s.cyc + 1 ∨ 4096 ≤ s.grids.length then s else takeRecord s 17 ((s.disp.lastSrc + 1) % 17))

/-! ### Starts, blocks, switches, saves (R261, R265, R266, R270 to R273) -/

def execTeamStart (part : Nat) (s : State) : Host.Outcome State Fault Refusal := finish (startNext s part false)
def execTeamResume (part : Nat) (s : State) : Host.Outcome State Fault Refusal := finish (startNext s part true)
def execStartOrderBlock (part : Nat) (s : State) : Host.Outcome State Fault Refusal := finish (noteBlock s part)
def execShareRecompute (s : State) : Host.Outcome State Fault Refusal := finish (recomputeShares s)
def execSwitchBegin (part : Nat) (s : State) : Host.Outcome State Fault Refusal := finish (switchFor s part)
def execSwitchComplete (die : Nat) (s : State) : Host.Outcome State Fault Refusal := finish (switchDone s die)
def execPreemption (part : Nat) (s : State) : Host.Outcome State Fault Refusal := finish (preemptFor s part)
def execSaveComplete (team : Nat) (s : State) : Host.Outcome State Fault Refusal := finish (saveDone s team)

/-- BUDGET_OVERRUN (R267, R274): a team whose count has reached BUDGET is returned, unless it has been saved. -/
def budgetOver (s : State) (tid : Nat) : State :=
  match s.team tid with
  | none => s
  | some t => match s.grid t.lseq, t.loc with
    | some g, .resident _ _ | some g, .saving _ _ =>
      if g.lrec.budget ≠ 0 ∧ g.lrec.budget ≤ t.cycles s.cyc ∧ t.returned = 0 then returnTeam s tid 1 else s
    | _, _ => s

def execBudgetOverrun (team : Nat) (s : State) : Host.Outcome State Fault Refusal := finish (budgetOver s team)

/-! ### Ends (R263, R268, R269) -/

/-- A store of the dispatch engine for a grid (R263, R268, R269): its WCT. A task's store to a page that is not versioned waits for the
frontier (R32); a committed task's store is a plain one (R331). -/
def gridStore (s : State) (lseq : Nat) (g : Grid) (ptr : Nat) (v : Word) : Got Nat × State :=
  if fld ptr 56 4 = 0 && (s.window g.ctx (fld ptr 0 56)).isSome then (.fail 9, s)
  else if fld ptr 56 4 = 0 && (s.svc g.ctx (s.pageAt g.ctx ptr)).isSome then (.page (s.pageAt g.ctx ptr), s)
  else match xlWalk s g.ctx ptr .wr 4 with
    | (.ok pa leaf _, s) =>
      let live : Option Task := match s.task lseq with
        | some t => if t.st == TaskSt.committed then none else some t
        | none => none
      let front := match live with
        | some t => s.frontier g.ctx == some (t.postmark, lseq)
        | none => true
      if !leafVersioned leaf && !front then (.edge 0 ptr, s)
      else match writeAt s ⟨0, g.ctx, s.carbonOf lseq, live.map (fun t => (lseq, t.launch))⟩ leaf pa (leBytes 4 v.toNat) with
        | none => (.edge 0 ptr, s.modGrid lseq (fun g => { g with full := true }))
        | some (s, w) => (.ok w, s.modGrid lseq (fun g => { g with full := false }))
    | (.fail 1 _, s) => (if g.refused.contains (s.pageAt g.ctx ptr) then .fail 2 else .page (s.pageAt g.ctx ptr), s)
    | (.fail c _, s) => (.fail c, s)

/-- A SIGNAL record, posted if a record is free (R269). -/
def signalRec (s : State) (lseq : Nat) (g : Grid) (ptr tlin source cause : Nat) : State :=
  match placeRecs s 0 g.ctx [recOf [(192, ptr), (168, lseq % 2 ^ 24), (136, tlin), (40, cause), (32, 6), (24, source), (16, g.ctx), (0, 0x41)]] with
  | some (_, s) => s
  | none => s

/-- A store for a grid, and what follows it: `k` is told its WCT, 0 where it has failed. -/
def withStore (s : State) (lseq : Nat) (g : Grid) (ptr tlin source : Nat) (v : Word) (k : State → Nat → State) : State :=
  match gridStore s lseq g ptr v with
  | (.page p, s) => (request s g.ctx p 0).modGrid lseq (fun g => { g with pages := p :: g.pages })
  | (.edge _ _, s) => s
  | (.fail c, s) => k (signalRec s lseq g ptr tlin source c) 0
  | (.ok w, s) => k s w

/-- A team leaves its grid: its resources are freed; the last one finishes its task (R263, R329). Takes that its lanes still wait for on
the pigeonholes of others stay, and their entries are lost (R247). -/
def leaveGrid (s : State) (tid : Nat) (t : Team) (w : Nat) : State :=
  let stay : List (Nat × PAct) := s.pacts.filter (fun e => e.2.tid == tid && (e.2.scope == 1 || e.2.scope == 2))
  let s := dropTeam s tid
  let s := { s with pacts := stay.foldl (fun (p : List (Nat × PAct)) (e : Nat × PAct) => Tab.put e.1 e.2 p) s.pacts }
  let s := s.modGrid t.lseq (fun g => { g with
    ended := g.ended + 1, returned := g.returned + (if t.returned = 0 then 0 else 1), statWct := Nat.max g.statWct w })
  let last := match s.grid t.lseq with
    | some g => decide (g.lrec.teams ≤ g.next) && !s.teams.any (fun e => e.2.lseq == t.lseq)
    | none => false
  if last then s.modTask t.lseq (fun u => if u.st == TaskSt.running then { u with st := .finished } else u) else s

/-- The status entry of a team (R268). -/
def statusEntry (t : Team) : Word :=
  if t.returned = 0 then 0x06000000
  else BitVec.ofNat 32 (0x46000000 + (if t.returned = 1 then 2 ^ 23 else t.returned - 2))

/-- TEAM_END (R263, R267, R268); none once a fault of the context has struck (R460). -/
def teamDone (s : State) (tid : Nat) : State :=
  match s.team tid with
  | none => s
  | some t => match s.grid t.lseq with
    | none => s
    | some g =>
      if (s.ctx g.ctx).fault.isSome || t.loc == .saved || !t.lanes.all Lane.exited || s.cmds.any (fun e => e.2.tid == tid)
          || ((s.task t.lseq).isSome && s.flights.any (fun e => e.2.tid == tid && (e.2.kind.isWrite || e.2.kind.isFab))) then s
      else if g.lrec.budget ≠ 0 ∧ g.lrec.sigAddr ≠ 0 then
        withStore s t.lseq g (fld g.lrec.sigAddr.toNat 56 8 * 2 ^ 56 + (fld g.lrec.sigAddr.toNat 0 56 + 4 + 4 * t.tlin) % 2 ^ 56) t.tlin 0x11
          (statusEntry t) (fun s w => leaveGrid s tid t w)
      else leaveGrid s tid t 0

def execTeamEnd (team : Nat) (s : State) : Host.Outcome State Fault Refusal := finish (teamDone s team)

/-- The waits on a grid complete (R263 step 3, R282). -/
def wakeCwaits (s : State) (lseq : Nat) (g : Grid) (w : Nat) : State :=
  { s with cmds := s.cmds.map (fun e => match e.2.instr with
      | .cwait _ all _ _ _ =>
        let c := { e.2 with wct := Nat.max e.2.wct (Nat.max w g.statWct) }
        if all then (if g.posterTeam = some e.2.tid then (e.1, c) else e)
        else if e.2.st == .run && e.2.step == 1 && e.2.vals == [lseq] then
          (e.1, { c with st := .ended (statusWord 0 6 (2 ^ 23 + g.returned % 2 ^ 23)) false })
        else e
      | _ => e) }

/-- Whether every team of a grid has ended and every grid that it posted has retired (R263), and its task has committed or ended
(R331, R356). -/
def State.mayRetire (s : State) (lseq : Nat) (g : Grid) : Bool :=
  decide (g.lrec.teams ≤ g.next) && !s.teams.any (fun e => e.2.lseq == lseq)
    && !s.grids.any (fun e => e.2.posterGrid == some lseq) && !s.disp.tray.any (fun r => r.posterGrid == some lseq)
    && (match s.task lseq with
      | some t => t.st == .committed
      | none => true)
    && s.foldsDone lseq
    && (g.lrec.sigAddr == 0 || g.lrec.budget == 0 || decide (g.statWct < s.now))

/-- GRID_RETIRE (R263); none once a fault of the context has struck (R460). -/
def retireGrid (s : State) (lseq : Nat) : State :=
  match s.grid lseq with
  | none => s
  | some g =>
    if (s.ctx g.ctx).fault.isSome || !s.mayRetire lseq g then s
    else
      let go := fun (s : State) (w : Nat) => let s := wakeCwaits s lseq g w; { s with grids := Tab.del lseq s.grids }
      if g.lrec.sigAddr = 0 ∨ g.shredded then go s 0
      else withStore s lseq g g.lrec.sigAddr.toNat 0 0x10 g.lrec.sigVal go

end Sys2Proof.Machine
end

