-- ==== Sys2Proof/Machine/Mldsa.lean ====
section
/-! DEFINITION. Mldsa.lean: the verification of an ML-DSA-65 signature (R463, R465), the published function of FIPS 204, with the empty context
string (assumption log 97). -/

namespace Sys2Proof.Machine

open Sys2Proof

/-- The modulus. -/
def mlQ : Nat := 8380417

/-- The eight bits of a number reversed. -/
def rev8 (i : Nat) : Nat := sumOf ((upFrom 0 8).map (fun k => b2n (bit i k) * 2 ^ (7 - k)))

/-- The points at which the number-theoretic transform evaluates a polynomial, and their inverses. -/
def nttPoints : List Nat := (upFrom 0 256).map (fun i => 1753 ^ (2 * rev8 i + 1) % mlQ)
def nttInverses : List Nat := (upFrom 0 256).map (fun i => 1753 ^ (511 - 2 * rev8 i) % mlQ)

/-- NTT of 256 coefficients. -/
def ntt (w : List Nat) : List Nat := nttPoints.map (fun x => w.foldr (fun c acc => (c + x * acc) % mlQ) 0)

/-- Sums of the terms of each coefficient, `n` coefficients. -/
def nttSums (terms : List Nat) : Nat → List Nat
  | 0 => []
  | n + 1 => sumOf terms * 8347681 % mlQ :: nttSums ((terms.zip nttInverses).map (fun e => e.1 * e.2 % mlQ)) n

/-- The inverse of NTT; 8,347,681 is the inverse of 256. -/
def nttInv (v : List Nat) : List Nat := nttSums v 256

/-- Coefficients of `bits` bits each. -/
def bitUnpack (bits n : Nat) (bytes : List Byte) : List Nat :=
  let v := leNat bytes
  (upFrom 0 n).map (fun i => fld v (bits * i) bits)

/-- A run of 3-byte groups gives the coefficients below the modulus. -/
def rejCoeffs : List Byte → List Nat
  | a :: b :: c :: t =>
    let z := a.toNat + 2 ^ 8 * b.toNat + 2 ^ 16 * (c.toNat % 128)
    if z < mlQ then z :: rejCoeffs t else rejCoeffs t
  | _ => []

/-- A polynomial of the matrix, in the transformed domain: the first 256 coefficients of SHAKE128 of the seed, the column and the row, of which
1,680 bytes hold enough but with negligible probability. -/
def expandPoly (rho : List Byte) (r s : Nat) : List Nat :=
  (rejCoeffs (shake 168 1680 (rho ++ [BitVec.ofNat 8 s, BitVec.ofNat 8 r]))).take 256

/-- Places the coefficients ±1 of the challenge: `i` rises to 255, the bytes are taken until one is at most i. -/
def ballPlace (c : List Nat) (signs : Nat) (i : Nat) : List Byte → List Nat
  | [] => c
  | j :: t =>
    if 255 < i then c
    else if i < j.toNat then ballPlace c signs i t
    else
      ballPlace (setAt (setAt c i (nth 0 c j.toNat)) j.toNat (if bit signs (i - 207) then mlQ - 1 else 1)) signs (i + 1) t

/-- The challenge polynomial of a digest: 49 coefficients are ±1. -/
def sampleBall (digest : List Byte) : List Nat :=
  let h := shake 136 1088 digest
  ballPlace (List.replicate 256 0) (leNat (h.take 8)) 207 (h.drop 8)

/-- The hint bits of a signature, by polynomial the positions that are set; none if they are not laid out as they must be. -/
def hintUnpack (y : List Nat) : Option (List (List Nat)) :=
  let ends := (upFrom 0 6).map (fun i => nth 0 y (55 + i))
  let starts := 0 :: ends.take 5
  let runs := (starts.zip ends).map (fun e => (y.drop e.1).take (e.2 - e.1))
  let rising := fun (r : List Nat) => (r.zip r.tail).all (fun e => decide (e.1 < e.2))
  if (starts.zip ends).all (fun e => decide (e.1 ≤ e.2) && decide (e.2 ≤ 55)) && runs.all rising
      && ((y.take 55).drop (nth 0 ends 5)).all (· == 0) then some runs else none

/-- UseHint of one coefficient. -/
def useHint (h : Bool) (r : Nat) : Nat :=
  let m := r % 523776
  let r0 : Int := if m ≤ 261888 then (m : Int) else (m : Int) - 523776
  let top := decide ((r : Int) - r0 = mlQ - 1)
  let r1 := if top then 0 else ((r : Int) - r0).toNat / 523776
  let r0 := if top then r0 - 1 else r0
  if !h then r1 else if 0 < r0 then (r1 + 1) % 16 else (r1 + 15) % 16

/-- Whether a signature of 3,309 bytes over a message is good under a public key of 1,952 bytes. -/
def mldsaVerify (pk msg sig : List Byte) : Bool :=
  let rho := pk.take 32
  let t1 := (upFrom 0 6).map (fun i => bitUnpack 10 256 ((pk.drop (32 + 320 * i)).take 320))
  let digest := sig.take 48
  let z := (upFrom 0 5).map (fun i => (bitUnpack 20 256 ((sig.drop (48 + 640 * i)).take 640)).map (fun v => (524288 + mlQ - v) % mlQ))
  let small := z.all (fun p => p.all (fun v => decide (v < 524092) || decide (mlQ - 524092 < v)))
  match hintUnpack ((sig.drop 3248).map BitVec.toNat) with
  | none => false
  | some hints =>
    let mu := shake 136 64 (shake 136 64 pk ++ [0, 0] ++ msg)
    let c := ntt (sampleBall digest)
    let zh := z.map ntt
    let mul := fun (a b : List Nat) => (a.zip b).map (fun e => e.1 * e.2 % mlQ)
    let row := fun (r : Nat) =>
      let az := (zh.zip (upFrom 0 5)).foldl (fun acc e => ((acc.zip (mul (expandPoly rho r e.2) e.1)).map (fun x => (x.1 + x.2) % mlQ))) (List.replicate 256 0)
      let ct := mul c (ntt ((nth [] t1 r).map (fun x => x * 8192 % mlQ)))
      let w := nttInv ((az.zip ct).map (fun x => (x.1 + mlQ - x.2) % mlQ))
      (w.zip (upFrom 0 256)).map (fun x => useHint ((nth [] hints r).contains x.2) x.1)
    let packed := (upFrom 0 6).flatMap (fun r => leBytes 128 (sumOf (((row r).zip (upFrom 0 256)).map (fun x => x.1 * 2 ^ (4 * x.2)))))
    small && pk.length == 1952 && sig.length == 3309 && shake 136 48 (mu ++ packed) == digest

end Sys2Proof.Machine
end

