-- ==== Sys2Proof/Machine/Service.lean ====
section
/-! DEFINITION. Service.lean: frame service by the controller's firmware (R178 to R181), and its end (R179, R185, R188). -/

namespace Sys2Proof.Machine

open Sys2Proof

/-! ### Frames (R178 step 2, R181) -/

/-- The attributes that the lowest-numbered range covering a page gives it (R181). -/
def Ctx.attrOf (c : Ctx) (page : Nat) : Option Nat :=
  (firstWith (fun (r : MRange) => decide (r.base ≤ page * 65536) && decide (page * 65536 < r.base + r.len)) c.ranges).map (fun r => r.attr.toNat)

/-- The lowest free frame of a run of a pool, on a die. -/
def freeIn (used : List Nat) (die f : Nat) : Nat → Option Nat
  | 0 => none
  | n + 1 => if dieOfPa (f * 65536) = die && !used.contains f then some f else freeIn used die (f + 1) n

/-- A free frame of a context's pool on a die: used frames are few beside the pool, so a run is searched no further than they reach. -/
def Ctx.freeFrame (c : Ctx) (die : Nat) : Option Nat :=
  firstSome (fun (p : Nat × Nat) =>
    let first := if dieOfPa (p.1 * 65536) = die then p.1 else (p.1 / 2 ^ 24 + 1) * 2 ^ 24
    freeIn c.used die first (Nat.min (p.1 + p.2 - first) (c.used.length + 1))) c.pool

/-- Two consecutive free frames, the first of them even, in a run. -/
def freePair (used : List Nat) (f : Nat) : Nat → Option Nat
  | 0 => none
  | n + 1 => if !used.contains f && !used.contains (f + 1) then some f else freePair used (f + 2) n

/-- Two frames for a node, on a die (R170, R181). -/
def Ctx.freeNode (c : Ctx) (die : Nat) : Option Nat :=
  firstSome (fun (p : Nat × Nat) =>
    let first := Nat.max ((p.1 + 1) / 2 * 2) (if dieOfPa (p.1 * 65536) = die then 0 else (p.1 / 2 ^ 24 + 1) * 2 ^ 24)
    match freePair c.used first (Nat.min ((p.1 + p.2 - first) / 2) (c.used.length + 1)) with
    | some f => if dieOfPa (f * 65536) = die then some f else none
    | none => none) c.pool

/-- From the asking die first (R178 step 2). -/
def bothDies (die : Nat) (f : Nat → Option Nat) : Option Nat := (f die).orElse (fun _ => f (1 - die))

/-- The bytes and tags of frames become zero. -/
def clearFrames (s : State) (f n : Nat) : State :=
  { s with
    mem := s.mem.filter (fun c => !(decide (f * 65536 ≤ c.1) && decide (c.1 < (f + n) * 65536)))
    tags := s.tags.filter (fun c => !(decide (f * 2048 ≤ c.1) && decide (c.1 < (f + n) * 2048))) }

/-! ### Eviction (R178 step 3) -/

/-- The pages of a node's subtree that are mapped by leaves of level 2: page and leaf. -/
def leavesOf (s : State) (level node base : Nat) : Nat → List (Nat × Nat)
  | 0 => []
  | fuel + 1 => (upFrom 0 (if level = 0 then 4096 else 16384)).flatMap (fun k =>
      let e := Mem.num s.mem (node + 8 * k) 8
      let sub := base + k * (if level = 0 then 2 ^ 28 else if level = 1 then 2 ^ 14 else 1)
      if !leafValid e then []
      else if level = 2 then [(sub, e)]
      else if bit e 10 then []
      else leavesOf s (level + 1) (leafFrame e * 2 ^ 16) sub fuel)

/-- The executions of words that a service is for: those of the lanes and accesses that wait for its page, and those whose loads have asked for
it and did not wait (R178 step 3). -/
def askedBy (s : State) (v : Svc) : List (Nat × Addr × Nat × Nat) :=
  s.teams.flatMap (fun e => if s.ctxOf e.2 ≠ v.ctx then [] else e.2.lanes.filterMap (fun l => match l.wait, l.asked, l.slot with
      | some (.page p), some (_, c), some k => if p = v.page then some (e.1, l.h, k, c) else none
      | _, _, _ => none))
    ++ (s.flights.filter (fun e => e.2.tags.ctx == v.ctx && e.2.stage == .page v.page)).map (fun e => e.2.execution) ++ v.execs

/-- The pages that a service spares: those of the steps of engine commands that wait for it, and those of the executions that it is for. -/
def sparedPages (s : State) (v : Svc) : List Nat :=
  (s.cmds.filter (fun e => e.2.tags.ctx == v.ctx && e.2.page == some v.page)).flatMap (fun e => e.2.keep) ++ (askedBy s v).flatMap (pagesOf s)

/-- Pages that firmware may evict for a service: resident in a pool frame, not pinned, not needed by the request. -/
def victimPages (s : State) (ctx : Nat) (keep : List Nat) : List (Nat × Nat) :=
  let c := s.ctx ctx
  (leavesOf s 0 c.root 0 3).filter (fun e => !leafPinned e.2 && !leafFabric e.2 && c.used.contains (leafFrame e.2) && !keep.contains e.1)

/-- The address of the level-2 entry of a page, if its nodes are there. -/
def entryAt (s : State) (ctx page : Nat) : Option Nat :=
  let node := fun (a idx : Nat) =>
    let e := Mem.num s.mem (a + 8 * idx) 8
    if leafValid e && !bit e 10 then some (leafFrame e * 2 ^ 16) else none
  ((node (s.ctx ctx).root (fld page 28 12)).bind (fun n1 => node n1 (fld page 14 14))).map (fun n2 => n2 + 8 * fld page 0 14)

/-- A leaf is written. -/
def putLeaf (s : State) (at_ v : Nat) : State := { touch s at_ 8 with mem := Mem.write s.mem at_ (leBytes 8 v) }

/-- An eviction begins: the leaf of a victim, whichever firmware takes, is written with VALID = 0. -/
def evictBegin (s : State) (v : Svc) (vs : List (Nat × Nat)) : State :=
  let (x, s) := s.freeVal
  match vs[x.toNat % vs.length]? with
  | none => s
  | some (page, leaf) =>
    let s := match entryAt s v.ctx page with
      | some a => putLeaf s a (leaf - leaf % 2)
      | none => s
    { s with svcs := s.svcs.map (fun w => if w.ctx == v.ctx && w.page == v.page && w.served.isNone then { w with victim := some page } else w) }

/-- Versions of the lines of a page go with its contents: from a frame to the saved page, or back (R178 step 4, R338). -/
def moveVersions (old new : Nat) (vs : List Version) : List Version :=
  vs.map (fun v => if v.line / 128 = old then { v with line := new * 128 + v.line % 128 } else v)

/-- An eviction ends: once no translated access to the page is open, its translations and copies go, its contents are saved, and its frame is
free. -/
def evictEnd (s : State) (v : Svc) (page : Nat) : State :=
  let svcs := s.svcs.map (fun (w : Svc) => if w.ctx == v.ctx && w.page == v.page && w.served.isNone then { w with victim := none } else w)
  match entryAt s v.ctx page with
  | none => { s with svcs := svcs }
  | some a =>
    let f := leafFrame (Mem.num s.mem a 8)
    let copy := fun (c : Copy) => !(c.ctx == v.ctx && c.va / 512 == page)
    let saved : Backed := {
      ctx := v.ctx, page := page
      cells := (s.mem.filter (fun c => decide (f * 65536 ≤ c.1) && decide (c.1 < (f + 1) * 65536))).map (fun c => (c.1 - f * 65536, c.2))
      tags := (s.tags.filter (fun c => decide (f * 2048 ≤ c.1) && decide (c.1 < (f + 1) * 2048))).map (fun c => (c.1 - f * 2048, c.2)) }
    { clearFrames s f 1 with
      versions := moveVersions f (evictedFrame v.ctx page) s.versions
      cores := s.cores.map (fun c => (c.1, { c.2 with l1 := c.2.l1.filter copy }))
      clusters := s.clusters.map (fun c => (c.1, { c.2 with
        cache := c.2.cache.filter copy
        tlb := c.2.tlb.filter (fun e => !(e.ctx == v.ctx && !e.big && e.page == page)) }))
      backing := s.backing.filter (fun b => !(b.ctx == v.ctx && b.page == page)) ++ [saved]
      ctxs := Tab.upd (fun c => { c with used := c.used.filter (· != f) }) v.ctx s.ctxs
      svcs := svcs }

/-! ### Serving (R178 steps 4 and 5) -/

def takeFrames (s : State) (ctx f n : Nat) : State :=
  clearFrames { s with ctxs := Tab.upd (fun c => { c with used := (upFrom f n).foldl (fun u x => insNat x u) c.used }) ctx s.ctxs } f n

/-- Makes the missing nodes on the way to a page's entry; none where two frames for a node are lacking. -/
def makeNodes (s : State) (ctx page die node level : Nat) : Nat → Option (State × Nat)
  | 0 => none
  | fuel + 1 =>
    let at_ := node + 8 * (if level = 0 then fld page 28 12 else if level = 1 then fld page 14 14 else fld page 0 14)
    if level = 2 then some (s, at_)
    else
      let e := Mem.num s.mem at_ 8
      if leafValid e then makeNodes s ctx page die (leafFrame e * 2 ^ 16) (level + 1) fuel
      else match bothDies die (s.ctx ctx).freeNode with
        | none => none
        | some f => makeNodes (putLeaf (takeFrames s ctx f 2) at_ (f * 65536 + 1)) ctx page die (f * 2 ^ 16) (level + 1) fuel

/-- The saved contents of a page are put into its frame. -/
def refill (s : State) (ctx page f : Nat) : State :=
  match firstWith (fun b => b.ctx == ctx && b.page == page) s.backing with
  | none => s
  | some b => { s with
      versions := moveVersions (evictedFrame ctx page) f s.versions
      mem := b.cells.foldl (fun (m : List Host.Cell) c => Mem.set m (f * 65536 + c.1) c.2) s.mem
      tags := b.tags.foldl (fun (t : List (Nat × BitVec 4)) c => Tab.put (f * 2048 + c.1) c.2 t) s.tags
      backing := s.backing.filter (fun b => !(b.ctx == ctx && b.page == page)) }

/-- A page is mapped; none where frames are lacking. -/
def mapPage (s : State) (ctx page die attr : Nat) : Option State :=
  match makeNodes s ctx page die (s.ctx ctx).root 0 3 with
  | none => none
  | some (s, at_) => (bothDies die (s.ctx ctx).freeFrame).map (fun f =>
      putLeaf (refill (takeFrames s ctx f 1) ctx page f) at_ (f * 65536 + 2 ^ 10 + attr * 2 + 1))

/-- The firmware has done its part of a service. -/
def svcDone (s : State) (ctx page : Nat) (ok : Bool) : State :=
  { s with svcs := s.svcs.map (fun w => if w.ctx == ctx && w.page == page && w.served.isNone then { w with served := some ok } else w) }

/-- FRAME_SERVICE: one act of the firmware, which serves one page at a time: it refuses, maps the page, begins or ends an eviction, or finds no victim (R178, R180). -/
def serveFrame (s : State) (ctx page : Nat) : State :=
  if s.sys.stopped || s.svcs.any (fun v => (v.ctx != ctx || v.page != page) && (v.victim.isSome || v.served.isSome)) then s
  else match s.svc ctx page with
    | none => s
    | some v => if v.served.isSome then s else match v.victim with
      | some x => if s.openTo ctx (fun p => p == x) then s else evictEnd s v x
      | none => match (s.ctx ctx).attrOf page with
        | none => svcDone s ctx page false
        | some attr =>
          if leafValid (((entryAt s ctx page).map (fun a => Mem.num s.mem a 8)).getD 0) then svcDone s ctx page true
          else match mapPage s ctx page v.die attr with
            | some s => svcDone s ctx page true
            | none => match victimPages s ctx (sparedPages s v) with
              | [] => ctxFault s ctx 1 (fld (page * 65536) 16 32)
              | x :: xs => evictBegin s v (x :: xs)

def execFrameService (ctx page : Nat) (s : State) : Host.Outcome State Fault Refusal := finish (serveFrame s ctx page)

/-! ### The end of a service (R179, R185, R188) -/

/-- STATE SERVED, or STATE REFUSED with CAUSE UNBACKED. -/
def recState (r : Nat) (ok : Bool) : Nat := if ok then putFld r 62 2 1 else putFld (putFld r 62 2 2) 40 8 2

/-- The LOAD records of a service, placed or still waiting for room, take its outcome. -/
def settleRecs (s : State) (v : Svc) (ok : Bool) : State :=
  let s := v.recs.foldl (fun s k => s.modDlq k.1 (fun q => { q with
    held := Tab.upd (fun e => if e.1 = v.ctx ∧ e.2 = k.2.2 then (e.1, BitVec.ofNat 256 (recState e.2.toNat ok)) else e) k.2.1 q.held })) s
  { s with posts := s.posts.map (fun (p : Post) => match p.act with
      | .loads fids (some page) =>
        if p.ctx = v.ctx ∧ page = v.page then { p with recs := p.recs.map (fun r => BitVec.ofNat 256 (recState r.toNat ok)), act := .loads fids none } else p
      | _ => p) }

/-- The lanes that waited for a page go on. -/
def wakeLanes (s : State) (ctx page : Nat) (ok : Bool) : State :=
  s.teams.foldl (fun s e =>
    if s.ctxOf e.2 ≠ ctx then s
    else (upFrom 0 e.2.lanes.length).foldl (fun s lid =>
      let w := (nth {} e.2.lanes lid).wait
      if w = some (.page page) ∨ w = some (.fetch page) then
        let s := s.modLane e.1 lid (fun l => { l with wait := none, refused := if ok then none else some page })
        fileFree (s.modTeam e.1 (fun t => { t with traps := t.traps.map (fun p => if p.lid = lid then { p with waits := false } else p) })) e.1 lid
      else s) s) s

/-- An access that waited for a page: translated again, or failed with UNBACKED. -/
def wakeFlight (s : State) (fid : Nat) (f : Flight) (ok : Bool) : State :=
  match f.kind with
  | .kvx _ _ _ | .xlq _ _ => { s with flights := Tab.put fid { f with stage := .ready, refused := !ok } s.flights }
  | _ =>
    if f.kind.isWrite then (if ok then setStage s fid .ready else failWrite s fid f 2)
    else if ok then retranslate s f.tags.core fid f
    else setStage s fid (.fail 2)

/-- The accesses that waited for a page, and the records of those that fail. -/
def wakeFlights (s : State) (ctx page : Nat) (ok : Bool) : State :=
  let mine := s.flights.filter (fun e => e.2.tags.ctx == ctx && e.2.stage == .page page)
  eachRun s (fun s fid f => wakeFlight s fid f ok) mine

/-- Whether a page is among some; and where a refusal is to be remembered, it moves there. -/
def movePage {α : Type} [BEq α] (p : α) (ok : Bool) (pages refused : List α) : List α × List α :=
  if pages.contains p then (pages.filter (· != p), if ok then refused else refused.filter (· != p) ++ [p]) else (pages, refused)

/-- SERVICE_END: every access that waited for the page continues. -/
def endService (s : State) (ctx page : Nat) : State :=
  match firstWith (fun v => v.ctx == ctx && v.page == page && v.served.isSome) s.svcs with
  | none => s
  | some v =>
    let ok := v.served.getD false
    let s := settleRecs { s with svcs := s.svcs.filter (fun w => !(w.ctx == ctx && w.page == page && w.served.isSome)) } v ok
    let s := { s with
      cmds := s.cmds.map (fun (e : Nat × Cmd) => if e.2.tags.ctx = ctx ∧ e.2.page = some page then
        (e.1, { e.2 with page := none, refused := if ok then none else some page }) else e)
      grids := s.grids.map (fun (e : Nat × Grid) => if e.2.ctx = ctx then
        (e.1, { e.2 with pages := (movePage page ok e.2.pages e.2.refused).1, refused := (movePage page ok e.2.pages e.2.refused).2 }) else e)
      disp := { s.disp with
        pages := (movePage (ctx, page) ok s.disp.pages s.disp.refused).1
        refused := (movePage (ctx, page) ok s.disp.pages s.disp.refused).2 }
      fab := { s.fab with
        pages := (movePage (ctx, page) ok s.fab.pages s.fab.refused).1
        refused := (movePage (ctx, page) ok s.fab.pages s.fab.refused).2 } }
    wakeFlights (wakeLanes s ctx page ok) ctx page ok

def execServiceEnd (ctx page : Nat) (s : State) : Host.Outcome State Fault Refusal := finish (endService s ctx page)

end Sys2Proof.Machine
end

