-- ==== Sys2Proof/Machine/Control.lean ====
section
/-! DEFINITION. Control.lean: the system controller (R451 to R474): masters and ownership, its registers, contexts and their faults, boot
and attestation, power, soft errors, and its words. -/

namespace Sys2Proof.Machine

open Sys2Proof

def State.modSys (s : State) (f : Sys → Sys) : State := { s with sys := f s.sys }

/-! ### Masters and ownership (R451 to R453) -/

def execMasterAttach (m : Nat) (s : State) : Host.Outcome State Fault Refusal :=
  finish (if m < 4 then s.modSys (fun c => { c with attached := insNat m c.attached }) else s)

/-- A master detaches: its debug rights end, an offer to or by it lapses, its ownership becomes vacant (R427, R452). -/
def detach (s : State) (m : Nat) : State :=
  if !s.sys.attached.contains m then s
  else
    let s := s.modSys (fun c => { c with
      attached := c.attached.filter (· != m)
      offer := if c.offer = some m ∨ c.owner = some m then none else c.offer
      owner := if c.owner = some m then none else c.owner })
    (s.dbg.filter (fun e => e.2.rights && e.2.holder == m)).foldl (fun s e => endRights s e.1) s

def execMasterDetach (m : Nat) (s : State) : Host.Outcome State Fault Refusal := finish (detach s m)

/-- The owner whose CLAIM came in this cycle, with its TAG, where a master of a lower number claims after it: claims of one cycle are decided
for the lowest master number (R452). -/
def State.claimYields (s : State) (m : Nat) : Option (Nat × Nat) :=
  match s.sys.owner, s.sys.claimed with
  | some o, some (c, tag) => if c = s.cyc ∧ m < o then some (o, tag) else none
  | _, _ => none

/-- Replaces the first message of a list by another. -/
def replaceFirst (x y : Nat × List Byte) : List (Nat × List Byte) → List (Nat × List Byte)
  | [] => []
  | z :: t => if z = x then y :: t else z :: replaceFirst x y t

/-- CLAIM (R452). A claim that an earlier one of its cycle yields to makes its master owner, and that one is answered NOT_OWNER. -/
def claimNow (s : State) (m : Nat) : State :=
  let own := fun (s : State) => reply (s.modSys (fun c => { c with owner := some m, claimed := some (s.cyc, s.sys.tag) })) m 0 []
  if s.sys.owner.isNone then own s
  else match s.claimYields m with
    | some (o, tag) => own { s with answers :=
        (replaceFirst (o, ctlMessage 0x81 0 tag []) (o, ctlMessage 0x81 1 tag []) s.answers.reverse).reverse }
    | none => reply s m 1 []

def execClaim (m : Nat) (s : State) : Host.Outcome State Fault Refusal := finish (if s.hears m then claimNow s m else s)

def execHandover (m nm : Nat) (s : State) : Host.Outcome State Fault Refusal :=
  finish (if !s.hears m then s
    else if s.sys.owner ≠ some m then reply s m 1 []
    else if !s.sys.attached.contains nm || nm == m then reply s m 2 []
    else reply (s.modSys (fun c => { c with offer := some nm })) m 0 [])

def execTake (m : Nat) (s : State) : Host.Outcome State Fault Refusal :=
  finish (if !s.hears m then s
    else if s.sys.offer = some m then reply (s.modSys (fun c => { c with owner := some m, offer := none })) m 0 []
    else reply s m 1 [])

/-! ### Context faults (R459 to R461) -/

/-- Evictions under way in a context end: what has been written to a page whose leaf is no longer valid is kept with its saved contents (R178
step 4, R460 step 4). -/
def endEvictions (s : State) (ctx : Nat) : State :=
  s.svcs.foldl (fun s v => match v.victim with
    | some page => if v.ctx = ctx then evictEnd s v page else s
    | none => s) s

/-- What a fault or a destruction of a context discards (R460 steps 1 to 5). -/
def tearContext (s : State) (ctx : Nat) : State :=
  let s := endEvictions s ctx
  let tids := (s.teams.filter (fun e => s.ctxOf e.2 == ctx)).map Prod.fst
  let s := tids.foldl killTeam (tearFab s ctx)
  let holes := s.pigeons.filter (fun p => p.ctx == ctx)
  { s with
    disp := { s.disp with
      queues := s.disp.queues.map (fun q => if q.2.ctx = ctx then (q.1, { q.2 with en := false }) else q)
      tray := s.disp.tray.filter (fun r => r.ctx != ctx)
      pages := s.disp.pages.filter (fun p => p.1 != ctx)
      refused := s.disp.refused.filter (fun p => p.1 != ctx) }
    kvs := s.kvs.filter (fun k => k.ctx != ctx)
    grids := s.grids.filter (fun g => g.2.ctx != ctx)
    flights := s.flights.filter (fun f => !(f.2.tags.ctx == ctx && (match f.2.kind with
      | .done _ _ _ => false
      | _ => true)))
    pigeons := s.pigeons.filter (fun p => p.ctx != ctx)
    pacts := s.pacts.filter (fun e => !holes.any (fun p => PAct.on p e.2))
    svcs := s.svcs.filter (fun v => v.ctx != ctx)
    posts := s.posts.filter (fun p => p.ctx != ctx)
    versions := s.versions.filter (fun v => v.ctx != ctx)
    tasks := s.tasks.filter (fun t => t.2.ctx != ctx)
    carbons := s.carbons.filter (fun c => c.ctx != ctx) }

/-- The lowest lseq of a grid of a context, 0 for none. -/
def State.lowestGrid (s : State) (ctx : Nat) : Nat :=
  (leastBy id ((s.grids.filter (fun g => g.2.ctx == ctx)).map Prod.fst ++ (s.disp.tray.filter (fun r => r.ctx == ctx)).map Tray.lseq)).getD 0

/-- The end of a context (R458): its records are released, its pairs and carbons cleared, its frames returned; no copy or translation of
it remains. -/
def destroyContext (s : State) (ctx : Nat) : State :=
  let s := tearContext s ctx
  { s with
    dlqs := s.dlqs.map (fun q => { q with held := q.held.filter (fun r => r.2.1 != ctx) })
    pairs := s.pairs.filter (fun p => p.ctx != ctx)
    backing := s.backing.filter (fun b => b.ctx != ctx)
    cores := s.cores.map (fun c => (c.1, { c.2 with l1 := c.2.l1.filter (fun x => x.ctx != ctx), front := c.2.front.filter (fun f => f.ctx != ctx) }))
    clusters := s.clusters.map (fun c => (c.1, { c.2 with cache := c.2.cache.filter (fun x => x.ctx != ctx), tlb := c.2.tlb.filter (fun x => x.ctx != ctx) }))
    ctxs := Tab.del ctx s.ctxs }

/-- CONTEXT_FAULT (R460): the teardown of a context that a fault has struck, the FAULT event, and the DESTROY that waited for it. -/
def faultContext (s : State) (ctx : Nat) : State :=
  match (s.ctx ctx).fault with
  | none => s
  | some (kind, detail, t) =>
    let low := s.lowestGrid ctx
    let s := tearContext s ctx
    let s := s.modCtx ctx (fun c => { c with st := .faulted, fault := none, stuck := 0 })
    let s := logEvent s 1 ctx kind detail low t
    match s.sys.op with
    | some (x, d) => if x = ctx then (if d then destroyContext s ctx else s).modSys (fun c => { c with op := none }) else s
    | none => s

def execContextFault (ctx : Nat) (s : State) : Host.Outcome State Fault Refusal := finish (faultContext s ctx)

/-! ### Creating contexts (R181, R251, R458) -/

/-- The 16 words of a context's descriptor. -/
def State.descOf (s : State) (ctx : Nat) : List DWord :=
  (upFrom 0 16).map (fun k => BitVec.ofNat 64 (Mem.num s.mem (s.sys.ctxtab + 128 * ctx + 8 * k) 8))

/-- An entry of the range table; one that breaks its map is unused (R181). -/
def parseRange (v : Nat) : MRange :=
  let r : MRange := ⟨fld v 0 56, fld v 64 64, BitVec.ofNat 9 (fld v 128 9)⟩
  if fld v 137 119 ≠ 0 ∨ fld v 56 8 ≠ 0 ∨ r.len % 65536 ≠ 0 ∨ r.base % 65536 ≠ 0 ∨ 2 ^ 56 < r.base + r.len ∨ bit v 136 ∨ fld v 133 2 = 3 then ⟨0, 0, 0⟩
  else r

/-- The frames that the entries of a node name, and the nodes below it (R181). -/
def nodeFrames (s : State) (level node : Nat) : Nat → List Nat
  | 0 => []
  | fuel + 1 =>
    let n := if level = 0 then 4096 else 16384
    (upFrom 0 n).flatMap (fun k =>
      let e := Mem.num s.mem (node + 8 * k) 8
      if !leafValid e then []
      else if bit e 10 then [leafFrame e]
      else if level = 2 then []
      else leafFrame e :: (leafFrame e + 1) :: nodeFrames s (level + 1) (leafFrame e * 2 ^ 16) fuel)

/-- Whether a frame lies in a pool. -/
def inPool (pool : List (Nat × Nat)) (f : Nat) : Bool := pool.any (fun p => decide (p.1 ≤ f) && decide (f < p.1 + p.2))

/-- Frames (first, count) without one of them. -/
def cutFrame (f : Nat) (p : Nat × Nat) : List (Nat × Nat) :=
  if p.1 ≤ f ∧ f < p.1 + p.2 then [(p.1, f - p.1), (f + 1, p.1 + p.2 - f - 1)].filter (fun q => decide (0 < q.2)) else [p]

/-- The runs of frames that a list of entries forms, in rising order: those that meet or overlap are one (R181). -/
def joinRuns (pool : List (Nat × Nat)) : List (Nat × Nat) :=
  (sortBy Prod.fst pool).foldl (fun acc p => match acc.getLast? with
    | some q => if p.1 ≤ q.1 + q.2 then acc.dropLast ++ [(q.1, Nat.max (q.1 + q.2) (p.1 + p.2) - q.1)] else acc ++ [p]
    | none => [p]) []

/-- A context as firmware reads it from its descriptor (R181); frames that have been retired stay out of its pool (R470). -/
def readContext (s : State) (ctx : Nat) (old : Ctx) : Ctx :=
  let c := { old with st := .ready, desc := s.descOf ctx, fault := none, stuck := 0 }
  let rtab := fld (c.word 7) 9 43 * 512
  let fpool := fld (c.word 8) 9 43 * 512
  let pool := (upFrom 0 (Nat.min 64 (fld (c.word 8) 0 7))).filterMap (fun k =>
    let e := Mem.num s.mem (fpool + 8 * k) 8
    if fld e 36 28 = 0 then none else some (fld e 0 36, fld e 36 28))
  let pool := s.sys.retired.foldl (fun p f => p.flatMap (cutFrame f)) (joinRuns pool)
  { c with
    ranges := (upFrom 0 (Nat.min 16 (fld (c.word 7) 0 5))).map (fun r => parseRange (Mem.num s.mem (rtab + 32 * r) 32))
    pool := pool
    used := (((nodeFrames s 0 c.root 3).filter (inPool pool)).foldl (fun u f => insNat f u) []) }

/-- The memory that CREATE and RESTART read. -/
def touchContext (s : State) (ctx : Nat) : State :=
  let c := readContext s ctx {}
  let s := touch s (s.sys.ctxtab + 128 * ctx) 128
  let s := if fld (c.word 7) 0 5 = 0 then s else touch s (fld (c.word 7) 9 43 * 512) 32
  if fld (c.word 8) 0 7 = 0 then s else touch s (fld (c.word 8) 9 43 * 512) 8

/-- An operation of CTXCTL (R458, R461): the status, or the state. A DESTROY that meets the teardown of its context's KILL waits for its end. -/
def ctxOp (s : State) (op ctx : Nat) : Except Nat State :=
  let s := s.modSys (fun c => { c with opCtx := ctx })
  if s.sys.bstate = 1 ∧ op = 1 ∧ s.sys.op = some (ctx, false) then .ok (s.modSys (fun y => { y with op := some (ctx, true) }))
  else if s.sys.bstate ≠ 1 ∨ s.sys.op.isSome then .error 3
  else
    let c := s.ctx ctx
    match op, c.st with
    | 0, .free => .ok { (touchContext s ctx).modCtx ctx (fun _ => readContext s ctx {}) with dbg := Tab.del ctx s.dbg }
    | 1, _ => if c.fault.isSome then .ok (s.modSys (fun y => { y with op := some (ctx, true) })) else .ok (destroyContext s ctx)
    | 2, .ready => .ok ((ctxFault s ctx 6 0).modSys (fun y => { y with op := some (ctx, false) }))
    | 3, .faulted => .ok ((touchContext s ctx).modCtx ctx (fun c => readContext s ctx c))
    | _, _ => .error 2

/-! ### Shootdowns and PREQ (R174, R456) -/

/-- Whether a page number lies in a range of pages. -/
def pageIn (first n p : Nat) : Bool := decide (first ≤ p) && decide (p < first + n)

/-- Translated accesses to pages of a context that have not yet been performed. -/
def State.openOn (s : State) (ctx first n : Nat) : Bool :=
  s.openTo ctx (pageIn first n)

/-- Drops the translations and copies of pages of a context (R174). -/
def dropPages (s : State) (ctx first n : Nat) : State :=
  let copy := fun (c : Copy) => !(c.ctx == ctx && pageIn first n (c.va / 512))
  let ent := fun (e : TlbEnt) => !(e.ctx == ctx && (if e.big then decide (e.page * 16384 < first + n) && decide (first < (e.page + 1) * 16384) else pageIn first n e.page))
  { s with
    cores := s.cores.map (fun c => (c.1, { c.2 with l1 := c.2.l1.filter copy }))
    clusters := s.clusters.map (fun c => (c.1, { c.2 with cache := c.2.cache.filter copy, tlb := c.2.tlb.filter ent })) }

/-- Whether GO of PREQ reads 1. -/
def State.preqBusy (s : State) : Bool := s.sys.preqTids.any s.savingTeam

/-- A write of PREQ (R456): with GO, preempt or preempt.resume for a context; for a handle that names no live grid, nothing (assumption log
133). -/
def preqWrite (s : State) (v : Nat) : Except Nat State :=
  if bit v 31 && s.preqBusy then .error 3
  else
    let s := s.modSys (fun c => { c with preqRes := bit v 30, preqCtx := fld v 24 6, preqHandle := fld v 0 24 })
    if !bit v 31 then .ok s
    else let s := s.modSys (fun c => { c with preqTids := [] }); match s.liveHandle (fld v 24 6) (fld v 0 24) with
      | none => .ok s
      | some l =>
        if bit v 30 then .ok (liftGrid s l).1
        else (let r := holdGrid s l; .ok (r.1.modSys (fun c => { c with preqTids := r.2 })))

/-! ### Boot (R463 to R465) -/

/-- The checks of R465 of an image, in their order. -/
def imageChecks (s : State) (k : Nat) : Bool :=
  let base := nth 0 s.sys.bimg k
  let len := nth 0 s.sys.blen k
  let f := fun (o n : Nat) => Mem.num s.mem (base + o) n
  let at_ := fun (o n : Nat) => Mem.read s.mem (base + o) n
  let body := f 8 8
  decide (len = 5325 + body) && decide (base + len ≤ 192000000000)
    && f 0 4 == k + 1 && f 16 48 == 0 && decide (Config.bootVersionMin.toNat ≤ f 4 4)
    && shake256 (at_ (3373 + body) 1952) == Config.rootDigest
    && mldsaVerify (at_ (3373 + body) 1952) (at_ 0 (64 + body)) (at_ (64 + body) 3309)

/-- M after an accepted image (R464). -/
def measure (s : State) (k : Nat) : State :=
  let img := Mem.read s.mem (nth 0 s.sys.bimg k) (nth 0 s.sys.blen k)
  s.modSys (fun c => { c with m := leBytes 64 (shake256 (c.m ++ leBytes 64 (shake256 img).toNat)).toNat })

/-- The checks of the image whose turn it is end: CTRL's before SVC's; a failure leaves FAILED, and when both have passed RUN comes (R463,
R465); none of them while the controller is stopped (R470). -/
def imageCheck (s : State) : State :=
  match s.sys.bootRun with
  | none => s
  | some k =>
    if s.sys.stopped then s
    else if !imageChecks s k then s.modSys (fun c => { c with bstate := 2, bootRun := none })
    else if k = 0 then (measure s 0).modSys (fun c => { c with bootRun := some 1 })
    else (measure s k).modSys (fun c => { c with bstate := 1, bootRun := none })

/-! ### Registers (R252, R256, R444, R456, R457) -/

/-- A switch of a die's class asked for by the controller, as opclass asks: it waits for any switch in progress, behind those that wait already
(R281, R456). -/
def classWrite (s : State) (die k : Nat) : State :=
  let p := s.point die
  if k = 0 ∨ k = p.cls then s
  else if p.sw.isSome then { s with disp := { s.disp with classReq := s.disp.classReq ++ [(die, k)] } }
  else beginSwitch s die k

def State.queue (s : State) (q : Nat) : SubQ := Tab.get {} q s.disp.queues
def State.setQueue (s : State) (q : Nat) (x : SubQ) : State := { s with disp := { s.disp with queues := Tab.put q x s.disp.queues } }

/-- A write of SQCTL (R252, R253). -/
def sqctl (q : SubQ) (v : Nat) : Except Nat SubQ :=
  let logn := fld v 0 4
  if logn < 4 ∨ 12 < logn then .error 2
  else if q.en then .ok { q with en := bit v 31 }
  else
    let q := { q with ctx := fld v 16 6, logn := logn }
    .ok (if bit v 31 then { q with en := true, head := 0, tail := 0, drops := 0 } else q)

/-- A write of PBCTL (R444). -/
def pbctl (t : Trace) (v : Nat) : Except Nat Trace :=
  let logn := fld v 20 5
  if logn < 7 ∨ 20 < logn then .error 2
  else if t.en then .ok { t with en := bit v 31 }
  else
    let t := { t with logn := logn, kinds := fld v 1 6 * 2 }
    .ok (if bit v 31 then { t with en := true, put := 0, get := 0, drops := 0, delay := 0 } else t)

/-- A write of one register word; the partition table and FEATACC are written by whole messages. -/
def wordWrite (s : State) (off v : Nat) : Except Nat State :=
  let rom := fun (f : Sys → Sys) => if s.sys.bstate = 0 then .ok (s.modSys f) else Except.error 3
  let q := (off - 0x200) / 0x40
  if off = 0x10 then .ok (s.modSys (fun c => { c with ctxtab := fld v 13 39 * 2 ^ 13 }))
  else if off = 0x18 then .ok (s.modSys (fun c => { c with epidA := fld v 0 10, epidB := fld v 16 10 }))
  else if off = 0x20 then .ok (classWrite (classWrite s 0 (fld v 0 3)) 1 (fld v 4 3))
  else if off = 0x28 then ctxOp s (fld v 8 2) (fld v 0 6)
  else if off = 0x40 then .ok (s.modSys (fun c => { c with shootVa := fld v 16 40 }))
  else if off = 0x48 then
    if bit v 31 && s.sys.shootGo.isSome then .error 3
    else if fld v 0 13 = 0 ∨ 4096 < fld v 0 13 then .error 2
    else .ok (s.modSys (fun c => { c with
      shootCtx := fld v 16 6, shootPages := fld v 0 13
      shootGo := if bit v 31 then some (fld v 16 6, c.shootVa, fld v 0 13) else c.shootGo }))
  else if off = 0x50 then preqWrite s v
  else if off = 0xA0 then rom (fun c => { c with bimg := setAt c.bimg 0 (fld v 12 40 * 2 ^ 12) })
  else if off = 0xA8 then rom (fun c => { c with blen := setAt c.blen 0 (fld v 0 32) })
  else if off = 0xB0 then rom (fun c => { c with bimg := setAt c.bimg 1 (fld v 12 40 * 2 ^ 12) })
  else if off = 0xB8 then rom (fun c => { c with blen := setAt c.blen 1 (fld v 0 32) })
  else if off = 0xC0 then
    if s.sys.bstate = 0 ∧ s.sys.bootRun.isNone then .ok (if bit v 0 then s.modSys (fun c => { c with bootRun := some 0 }) else s) else .error 3
  else if 0x200 ≤ off ∧ off < 0x600 then
    let x := s.queue q
    match (off - 0x200) % 0x40 with
    | 0 => .ok (if x.en then s else s.setQueue q { x with base := BitVec.ofNat 64 (fld v 7 45 * 2 ^ 7) })
    | 8 => (sqctl x v).map (s.setQueue q)
    | 0x10 => .ok (s.setQueue q { x with tail := fld v 0 12 })
    | _ => .error 2
  else if off = 0x600 then .ok (if s.trace.en then s else { s with trace := { s.trace with base := fld v 12 40 * 2 ^ 12 } })
  else if off = 0x608 then (pbctl s.trace v).map (fun t => { s with trace := t })
  else if off = 0x610 then .ok (if s.trace.en then s else { s with trace := { s.trace with ctxen := v } })
  else if off = 0x620 then .ok { s with trace := { s.trace with get := fld v 0 20 } }
  else .error 2

/-- The words of a message: (offset, value). -/
def wordsAt (addr : Nat) (ws : List DWord) : List (Nat × Nat) := (upFrom 0 ws.length).zip ws |>.map (fun e => (addr + 8 * e.1, e.2.toNat))

/-- The value that a message gives the word at an offset. -/
def wordFor (ws : List (Nat × Nat)) (off dflt : Nat) : Nat := (firstSome (fun (e : Nat × Nat) => if e.1 = off then some e.2 else none) ws).getD dflt

def isTable (off : Nat) : Bool := off == 0x100 || off == 0x108
def isFeat (off : Nat) : Bool := decide (0x80 ≤ off) && decide (off < 0xA0)

/-- The part of a message that names the partition table (R256): BAD_TABLE leaves it as it is. -/
def tableWrite (s : State) (ws : List (Nat × Nat)) : Except Nat State :=
  if !ws.any (fun w => isTable w.1) then .ok s
  else
    let old := s.disp.ptable.bits
    let t := parseTable (wordFor ws 0x100 (fld old 0 64) + wordFor ws 0x108 (fld old 64 64) * 2 ^ 64)
    if t.valid then .ok { s with disp := { s.disp with ptable := t } } else .error 4

/-- The part of a message that names FEATACC (R462). -/
def featWrite (s : State) (ws : List (Nat × Nat)) : Except Nat State :=
  if !ws.any (fun w => isFeat w.1) then .ok s
  else if s.sys.featDone || s.sys.bstate != 1 || s.ctxs.any (fun c => c.2.st != .free) then .error 3
  else .ok (s.modSys (fun c => { c with featDone := true, featAcc := wordFor ws 0x80 0 % 8 }))

/-- Words that R457 lists and that hold an RW or WO field. -/
def writable (off : Nat) : Bool :=
  isTable off || isFeat off || [0x10, 0x18, 0x20, 0x28, 0x40, 0x48, 0x50, 0xA0, 0xA8, 0xB0, 0xB8, 0xC0, 0x600, 0x608, 0x610, 0x620].contains off
    || (decide (0x200 ≤ off) && decide (off < 0x600) && [0, 8, 0x10].contains ((off - 0x200) % 0x40))

/-- All words of a message, performed at one instant: the first status that is not OK stands, and nothing is written then. A word that may not
be written is found before anything else (R457). PBCTL comes last: what EN = 1 makes ignored is judged by EN as the message finds it (R444). -/
def wordsWrite (s : State) (ws : List (Nat × Nat)) : Except Nat State :=
  if !ws.all (fun w => writable w.1) then .error 2
  else
    let rest := ws.filter (fun w => !isTable w.1 && !isFeat w.1)
    ((tableWrite s ws).bind (fun s => featWrite s ws)).bind (fun s =>
      (rest.filter (fun w => w.1 != 0x608) ++ rest.filter (fun w => w.1 == 0x608)).foldl
        (fun (r : Except Nat State) w => r.bind (fun s => wordWrite s w.1 w.2)) (.ok s))

/-- A register WRITE (R453 to R456): not before the master's earlier memory writes have passed their WCT. -/
def registerMessage (s : State) (m addr : Nat) (ws : List DWord) : State :=
  if !s.hears m || decide (s.now ≤ Tab.get 0 m s.sys.memWct) then s
  else if s.sys.owner ≠ some m then reply s m 1 []
  else if addr % 8 ≠ 0 ∨ ws = [] ∨ 32 < ws.length ∨ 0x3000 < addr + 8 * ws.length then reply s m 2 []
  else match wordsWrite s (wordsAt addr ws) with
    | .ok s' => reply s' m 0 []
    | .error st =>
      let s := if st = 4 then logEvent s 3 0 0 0 0 s.now else s
      reply s m st []

def execRegisterWrite (m addr : Nat) (words : List DWord) (s : State) : Host.Outcome State Fault Refusal := finish (registerMessage s m addr words)
def execSqctlWrite (m q : Nat) (v : DWord) (s : State) : Host.Outcome State Fault Refusal :=
  finish (registerMessage s m (if q < 16 then 0x208 + 0x40 * q else 1) [v])
def execSqtailDoorbell (m q : Nat) (v : DWord) (s : State) : Host.Outcome State Fault Refusal :=
  finish (registerMessage s m (if q < 16 then 0x210 + 0x40 * q else 1) [v])
def execPartitionTableWrite (m addr : Nat) (words : List DWord) (s : State) : Host.Outcome State Fault Refusal :=
  finish (registerMessage s m addr words)
def execFeataccWrite (m addr : Nat) (words : List DWord) (s : State) : Host.Outcome State Fault Refusal := finish (registerMessage s m addr words)
def execClassWrite (m : Nat) (v : DWord) (s : State) : Host.Outcome State Fault Refusal := finish (registerMessage s m 0x20 [v])
/-- BOOTGO, whole: the write of GO and the checks that it starts (R465). A REGISTER_WRITE of BOOTGO starts checks that end later. -/
def execBootgo (m : Nat) (v : DWord) (s : State) : Host.Outcome State Fault Refusal :=
  finish (if s.sys.bootRun.isSome then registerMessage s m 0xC0 [v] else imageCheck (imageCheck (registerMessage s m 0xC0 [v])))
def execPbctlWrite (m : Nat) (v : DWord) (s : State) : Host.Outcome State Fault Refusal := finish (registerMessage s m 0x608 [v])
def execPbgetWrite (m : Nat) (v : DWord) (s : State) : Host.Outcome State Fault Refusal := finish (registerMessage s m 0x620 [v])

/-- A write of CTXCTL. -/
def ctxMessage (s : State) (m op ctx : Nat) : State := registerMessage s m 0x28 [BitVec.ofNat 64 (op * 2 ^ 8 + ctx % 64)]

def execCreate (m ctx : Nat) (s : State) : Host.Outcome State Fault Refusal := finish (ctxMessage s m 0 ctx)
def execDestroy (m ctx : Nat) (s : State) : Host.Outcome State Fault Refusal := finish (ctxMessage s m 1 ctx)
def execKill (m ctx : Nat) (s : State) : Host.Outcome State Fault Refusal := finish (ctxMessage s m 2 ctx)
def execRestart (m ctx : Nat) (s : State) : Host.Outcome State Fault Refusal := finish (ctxMessage s m 3 ctx)

/-- A shootdown that runs is complete: no translated access to its range is open (R174, R456). -/
def shootDone (s : State) : State :=
  match s.sys.shootGo with
  | none => s
  | some (ctx, first, n) => if s.sys.stopped || s.openOn ctx first n then s else (dropPages s ctx first n).modSys (fun c => { c with shootGo := none })

/-- SHOOTDOWN (R174), whole: a write of SHOOTCTL whose shootdown is complete at once; not while a translated access to the range is open. A
REGISTER_WRITE of SHOOTCTL starts one that completes later. -/
def execShootdown (m : Nat) (v : DWord) (s : State) : Host.Outcome State Fault Refusal :=
  finish (if s.sys.shootGo.isSome || !bit v.toNat 31 then registerMessage s m 0x48 [v]
    else if s.openOn (fld v.toNat 16 6) s.sys.shootVa (fld v.toNat 0 13) then s
    else shootDone (registerMessage s m 0x48 [v]))

def execPreqPreempt (m : Nat) (v : DWord) (s : State) : Host.Outcome State Fault Refusal :=
  finish (registerMessage s m 0x50 [BitVec.ofNat 64 (putFld v.toNat 30 1 0)])
def execPreqResume (m : Nat) (v : DWord) (s : State) : Host.Outcome State Fault Refusal :=
  finish (registerMessage s m 0x50 [BitVec.ofNat 64 (putFld v.toNat 30 1 1)])

/-! ### READ and WRITE (R454, R455, R457) -/

/-- CTXST. -/
def State.ctxStates (s : State) : Nat :=
  sumOf ((upFrom 0 64).map (fun c => (match (s.ctx c).st with
    | .free => 0
    | .ready => 1
    | .faulted => 2) * 4 ^ c))

/-- The word that a register offset reads as (R457). -/
def regWord (s : State) (off : Nat) : Nat :=
  let y := s.sys
  if off = 0x00 then (if y.owner.isNone then 4 else 0) + y.owner.getD 0
  else if off = 0x08 then y.bstate
  else if off = 0x10 then y.ctxtab
  else if off = 0x18 then y.epidB * 2 ^ 16 + y.epidA
  else if off = 0x20 then (s.point 1).cls * 16 + (s.point 0).cls
  else if off = 0x28 then b2n y.op.isSome * 2 ^ 31 + y.opCtx
  else if off = 0x30 then s.ctxStates % 2 ^ 64
  else if off = 0x38 then s.ctxStates / 2 ^ 64
  else if off = 0x40 then y.shootVa * 2 ^ 16
  else if off = 0x48 then b2n y.shootGo.isSome * 2 ^ 31 + y.shootCtx * 2 ^ 16 + y.shootPages
  else if off = 0x50 then b2n s.preqBusy * 2 ^ 31 + b2n y.preqRes * 2 ^ 30 + y.preqCtx * 2 ^ 24 + y.preqHandle
  else if off = 0x60 then 7
  else if off = 0x80 then y.featAcc
  else if off = 0xA0 then nth 0 y.bimg 0
  else if off = 0xA8 then nth 0 y.blen 0
  else if off = 0xB0 then nth 0 y.bimg 1
  else if off = 0xB8 then nth 0 y.blen 1
  else if off = 0xC8 then Config.bootVersionMin.toNat
  else if off = 0x100 then fld s.disp.ptable.bits 0 64
  else if off = 0x108 then fld s.disp.ptable.bits 64 64
  else if 0x200 ≤ off ∧ off < 0x600 then
    let q := s.queue ((off - 0x200) / 0x40)
    match (off - 0x200) % 0x40 with
    | 0 => q.base.toNat
    | 8 => b2n q.en * 2 ^ 31 + q.ctx * 2 ^ 16 + q.logn
    | 0x10 => q.tail
    | 0x18 => q.head
    | 0x20 => q.drops
    | _ => 0
  else if off = 0x600 then s.trace.base
  else if off = 0x608 then b2n s.trace.en * 2 ^ 31 + s.trace.logn * 2 ^ 20 + s.trace.kinds
  else if off = 0x610 then s.trace.ctxen
  else if off = 0x618 then s.trace.put
  else if off = 0x620 then s.trace.get
  else if off = 0x628 then s.trace.drops
  else if off = 0x630 then s.trace.delay
  else if off = 0x700 ∨ off = 0x720 then (s.dlq ((off - 0x700) / 0x20)).put
  else if off = 0x708 ∨ off = 0x728 then 4096 - (s.dlq ((off - 0x708) / 0x20)).held.length
  else if off = 0x710 ∨ off = 0x730 then (s.dlq ((off - 0x710) / 0x20)).waits
  else if 0x800 ≤ off ∧ off < 0x840 then leNat ((y.m.drop (off - 0x800)).take 8)
  else if off = 0x840 then y.seq % 2 ^ 32
  else if 0x1000 ≤ off ∧ off < 0x3000 then
    let e := (off - 0x1000) / 32
    let i := (e + 256 - (y.seq - y.log.length) % 256) % 256
    if i < y.log.length then fld (nth 0 y.log i).toNat ((off - 0x1000) % 32 * 8) 64 else 0
  else 0

/-- READ (R454). -/
def readMessage (s : State) (m space addr len : Nat) : State :=
  if !s.hears m then s
  else if space = 0 then
    if addr % 8 ≠ 0 ∨ len % 8 ≠ 0 ∨ len < 8 ∨ 256 < len ∨ 0x3000 < addr + len then reply s m 2 []
    else reply s m 0 ((upFrom 0 (len / 8)).flatMap (fun k => leBytes 8 (regWord s (addr + 8 * k))))
  else if space ≠ 1 ∨ len = 0 ∨ 4096 < len ∨ 4096 < addr % 4096 + len ∨ !hasMem addr ∨ !hasMem (addr + len - 1) then reply s m 2 []
  else reply s m 0 (Mem.read s.mem addr len)

def execRead (m space addr len : Nat) (s : State) : Host.Outcome State Fault Refusal := finish (readMessage s m space addr len)

/-- WRITE to physical memory (R343, R345, R455): a plain write of no context, which aborts the tasks of every context that have read its
lines. -/
def writeMessage (s : State) (m addr : Nat) (bytes : List Byte) : State :=
  let n := bytes.length
  if !s.hears m then s
  else if s.sys.owner ≠ some m then reply s m 1 []
  else if n = 0 ∨ 4096 < n ∨ 4096 < addr % 4096 + n ∨ !hasMem addr ∨ !hasMem (addr + n - 1) then reply s m 2 []
  else
    let lines := distinct ((upFrom addr n).map (· / 512))
    let s := lines.foldl (fun s l => abortTasks s (struckBy s none none l) false) s
    let w := maxOf (lines.map (fun l => s.wctAt (l * 512)))
    let s := { s with mem := Mem.write s.mem addr bytes }
    reply (s.modSys (fun c => { c with memWct := Tab.put m (Nat.max w (Tab.get 0 m c.memWct)) c.memWct })) m 0 []

def execWrite (m addr : Nat) (bytes : List Byte) (s : State) : Host.Outcome State Fault Refusal := finish (writeMessage s m addr bytes)

/-! ### Attestation and reset (R466, R467) -/

/-- The answer of IDKEY: the 1,952-byte identity key, then its certificate (R467). -/
def identityBytes : List Byte := leBytes 1952 Config.identityKey.toNat ++ Config.certificate

def execIdkey (m : Nat) (s : State) : Host.Outcome State Fault Refusal :=
  finish (if !s.hears m then s else if s.sys.bstate = 0 then reply s m 3 [] else reply s m 0 identityBytes)

/-- The bytes that ATTEST signs (R467). -/
def attested (s : State) (nonce : BitVec 256) : List Byte :=
  leBytes 32 nonce.toNat ++ s.sys.m ++ leBytes 32 s.sys.featAcc ++ leBytes 2 s.sys.epidA ++ leBytes 2 s.sys.epidB ++ leBytes 8 Config.partCode.toNat

def execAttest (m : Nat) (nonce : BitVec 256) (s : State) : Host.Outcome State Fault Refusal :=
  finish (if !s.hears m then s
    else if s.sys.bstate = 0 then reply s m 3 []
    else reply s m 0 (attested s nonce ++ leBytes 3309 (Config.signature (attested s nonce)).toNat))

/-- The state after a RESET: the franking clock goes on, and masters stay attached (R466). -/
def afterReset (s : State) : State :=
  { State.reset with
    now := s.now
    agenda := s.agenda
    ids := s.ids
    free := s.free
    answers := s.answers
    disp := { State.reset.disp with points := [{ since := s.now }, { since := s.now }], shareTick := s.now / 10000 }
    sys := { State.reset.sys with attached := s.sys.attached, window := s.now / 1000000 } }

/-- Whether a RESET of a master is taken (R466). -/
def State.takesReset (s : State) (m : Nat) : Bool :=
  s.sys.owner == some m || s.sys.owner.isNone || s.sys.bstate == 2 || s.sys.stopped

/-- A reset begins: what it discards is discarded, and until it is complete no message is performed (R466). -/
def resetBegin (s : State) (m : Nat) : State :=
  if !s.sys.attached.contains m || s.sys.resetBy.isSome || s.sys.writes.any (fun w => w.1 == m) then s
  else if s.takesReset m then (afterReset s).modSys (fun c => { c with resetBy := some (m, s.sys.tag) })
  else reply s m 1 []

/-- A reset that runs is complete, and its response is sent. -/
def resetDone (s : State) : State :=
  match s.sys.resetBy with
  | none => s
  | some (m, tag) => replyTo (s.modSys (fun c => { c with resetBy := none })) m tag 0 []

/-- RESET (R466), whole. -/
def resetMessage (s : State) (m : Nat) : State := if s.sys.resetBy.isSome then s else resetDone (resetBegin s m)

def execReset (m : Nat) (s : State) : Host.Outcome State Fault Refusal := finish (resetMessage s m)

/-! ### Messages (R454) -/

/-- What a Forrin request asks for: one event of the table. -/
inductive Msg
  | claim | handover (nm : Nat) | take | read (space addr len : Nat) | write (addr : Nat) (bytes : List Byte)
  | words (addr : Nat) (ws : List DWord) | idkey | attest (nonce : BitVec 256) | reset
  /-- A debug request: OP, the request, and the block of WSET. -/
  | debug (op : Nat) (q : DbgReq) (blk : BitVec 512)
deriving DecidableEq, Repr

/-- A debug request by the 32 bytes of its header, and the block of WSET (R428); none where a reserved bit is not zero or OP is not listed. -/
def parseDebug (bs : List Byte) : Option Msg :=
  let v := leNat (bs.take 32)
  let q : DbgReq := { ctx := BitVec.ofNat 6 (fld v 150 6), grid := BitVec.ofNat 24 (fld v 69 24), team := BitVec.ofNat 32 (fld v 93 32),
                      lane := BitVec.ofNat 10 (fld v 125 10), all := bit v 144, reg := BitVec.ofNat 8 (fld v 135 8), poison := bit v 143,
                      wslot := BitVec.ofNat 5 (fld v 145 5), value := BitVec.ofNat 64 (fld v 0 64) }
  if fld v 160 96 ≠ 0 ∨ fld v 64 5 ≠ 0 then none
  else if 9 < fld v 156 4 then none
  else some (.debug (fld v 156 4) q (BitVec.ofNat 512 (leNat (bs.drop 32))))

/-- Payload bytes of a request: LEN says how many, but in READ, which asks for so many. -/
def payloadLen (h : Nat) : Nat := if fld h 128 8 = 4 then 0 else fld h 147 13

/-- What a request asks for, by its header and payload. An error stands for a RANGE: `false` in the response itself, `true` as the STATUS
of the debug request that a DEBUG message carries (assumption log 115). -/
def parseMsg (hdr : BitVec 256) (bs : List Byte) : Except Bool Msg :=
  let h := hdr.toNat
  let len := fld h 147 13
  let addr := fld h 192 64
  let mem := fld h 128 8 == 4 || fld h 128 8 == 5
  if fld h 144 3 ≠ 0 ∨ fld h 136 4 ≠ 0 ∨ fld h 8 120 ≠ 0 ∨ 4096 < len ∨ 3 < fld h 0 8 ∨ (fld h 128 8 ≠ 2 ∧ fld h 0 8 ≠ 0)
      ∨ (!mem ∧ (addr ≠ 0 ∨ fld h 140 4 ≠ 0)) then .error false
  else match fld h 128 8 with
    | 1 => if len = 0 then .ok .claim else .error false
    | 2 => if len = 0 then .ok (.handover (fld h 0 2)) else .error false
    | 3 => if len = 0 then .ok .take else .error false
    | 4 => .ok (.read (fld h 140 4) addr len)
    | 5 =>
      if fld h 140 4 = 1 then .ok (.write addr bs)
      else if fld h 140 4 ≠ 0 ∨ 2 ^ 16 ≤ addr ∨ len % 8 ≠ 0 then .error false
      else .ok (.words addr ((upFrom 0 (len / 8)).map (fun k => BitVec.ofNat 64 (leNat ((bs.drop (8 * k)).take 8)))))
    | 6 =>
      if (len = 32 ∧ fld (leNat (bs.take 32)) 156 4 ≠ 6) ∨ (len = 96 ∧ fld (leNat (bs.take 32)) 156 4 = 6) then
        match parseDebug bs with
        | some i => .ok i
        | none => .error true
      else .error false
    | 7 => if len = 0 then .ok .idkey else .error false
    | 8 => if len = 32 then .ok (.attest (BitVec.ofNat 256 (leNat bs))) else .error false
    | 9 => if len = 0 then .ok .reset else .error false
    | _ => .error false

/-- A request that has been understood is performed as the event that it is; RESET only begins here: `Choice.resetDone` completes it. -/
def performMsg (s : State) (m : Nat) : Msg → Host.Outcome State Fault Refusal
  | .claim => execClaim m s
  | .handover nm => execHandover m nm s
  | .take => execTake m s
  | .read sp addr len => execRead m sp addr len s
  | .write addr bytes => execWrite m addr bytes s
  | .words addr ws => execRegisterWrite m addr ws s
  | .idkey => execIdkey m s
  | .attest nonce => execAttest m nonce s
  | .reset => finish (resetBegin s m)
  | .debug 0 q _ => execHalt m q s
  | .debug 1 q _ => execResume m q s
  | .debug 2 q _ => execStep m q s
  | .debug 3 q _ => execDebugRead m q s
  | .debug 4 q _ => execDebugWrite m q s
  | .debug 5 q _ => execReadpc m q s
  | .debug 6 q blk => execWset m q blk s
  | .debug 7 q _ => execQuery m q s
  | .debug 8 q _ => execGrant m q s
  | .debug _ q _ => execRevoke m q s

/-- After a message has been performed no TAG is left. -/
def endMessage : Host.Outcome State Fault Refusal → Host.Outcome State Fault Refusal
  | .next s => .next (s.modSys (fun c => { c with tag := 0 }))
  | x => x

/-- A message arrives from a master (R454): it is performed, and its responses carry its TAG. While a reset runs, other masters are answered
BUSY, and the resetting one is not heard (R466). A message comes after the master's earlier ones have been performed (R453), and none but a
RESET to a controller that is stopped (R470). -/
def hearMessage (s : State) (m : Nat) (hdr : BitVec 256) (bs : List Byte) : Host.Outcome State Fault Refusal :=
  let tag := fld hdr.toNat 160 32
  if !s.sys.attached.contains m || bs.length ≠ payloadLen hdr.toNat || s.sys.writes.any (fun w => w.1 == m) then finish s
  else match s.sys.resetBy with
    | some (r, _) => finish (if r = m then s else replyTo s m tag 3 [])
    | none =>
      let t := s.modSys (fun c => { c with tag := tag })
      match parseMsg hdr bs with
      | .ok q => endMessage (performMsg t m q)
      | .error debug => finish (if s.sys.stopped then s else if debug then (debugAnswer t m 5 []).modSys (fun c => { c with tag := 0 }) else replyTo s m tag 2 [])

/-! ### Temperature and soft errors (R469, R470) -/

/-- A package fault (R470). -/
def packageFault (s : State) (code : Nat) : State :=
  if s.sys.stopped then s
  else
    let s := (s.ctxs.filter (fun c => c.2.st == .ready)).foldl (fun s c => ctxFault s c.1 5 code) s
    logEvent (s.modSys (fun c => { c with stopped := true })) 6 0 0 code 0 s.now

/-- THERMAL (R469): a die has reached a temperature. -/
def heat (s : State) (die temp : Nat) : State :=
  let old := nth 0 s.sys.temps die
  if 1 < die ∨ temp ≤ old then s
  else
    let s := s.modSys (fun c => { c with temps := setAt c.temps die temp })
    let s := if old < 105 ∧ 105 ≤ temp then logEvent s 4 0 0 0 0 s.now else s
    if 115 ≤ temp then packageFault s 0 else s

def execThermal (die temp : Nat) (s : State) : Host.Outcome State Fault Refusal := finish (heat s die temp)

def execTemperatureFall (die temp : Nat) (s : State) : Host.Outcome State Fault Refusal :=
  finish (if temp < nth 0 s.sys.temps die then s.modSys (fun c => { c with temps := setAt c.temps die temp }) else s)

/-- The counters of a die after an error (R474): core counts codes 1 and 4, refill counts code 6. -/
def bumpErr (now code : Nat) (corr : Bool) (e0 : ErrCtr) : ErrCtr :=
  let bump := fun (n : Nat) => (n + 1) % 2 ^ 32
  let e := { e0 with last := now }
  if code = 6 then { e with refill := bump e.refill }
  else if !corr then { e with uncorr := bump e.uncorr }
  else match code with
    | 1 | 4 => { e with core := bump e.core }
    | 2 => { e with tile := bump e.tile }
    | 3 => { e with l2 := bump e.l2 }
    | 5 => { e with hbm := bump e.hbm }
    | _ => e

/-- Counts an error of a structure on a die (R474). -/
def countErr (s : State) (die code : Nat) (corr : Bool) : State :=
  s.modSys (fun c => { c with errs := modAt (bumpErr s.now code corr) c.errs die })

/-- A context fault for the context of a team. -/
def faultTeam (s : State) (tid code : Nat) : State :=
  match s.team tid with
  | some t => ctxFault s (s.ctxOf t) 5 code
  | none => s

/-- The die on which an error lies. -/
def errDie (s : State) (code loc : Nat) : Nat :=
  match code with
  | 1 | 4 | 7 => match (s.team loc).bind Team.place with
    | some (c, _) => dieOf c
    | none => 0
  | 2 => loc % 2048 / 64 / 16
  | 3 | 5 => dieOfPa (loc % 2 ^ 52)
  | 6 => dieOf (loc % 128)
  | 8 => loc % 2
  | _ => 0

/-- A frame is retired: no pool holds it any more, now or when a context is created or restarted (R470). -/
def retireFrame (s : State) (f : Nat) : State :=
  { s with
    sys := { s.sys with retired := insNat f s.sys.retired }
    ctxs := s.ctxs.map (fun c => (c.1, { c.2 with pool := c.2.pool.flatMap (cutFrame f), used := c.2.used.filter (· != f) })) }

/-- SOFT_ERROR (R470). Where the error lies: a team for codes 1, 4 and 7; for code 2, cluster × 64 + bank, and times 2,048 the owning context or, of
a CACHE bank, the copy hit; for
codes 3 and 5 a physical address and, times 2^52, whose frame it is: 0 a free frame or a clean line, n + 1 context n, 65 firmware; for code 6,
core and, times 128, the copy; for code 8 the die. -/
def softError (s : State) (code loc : Nat) (corr : Bool) : State :=
  if code = 0 ∨ 8 < code ∨ ((code = 6) && !corr) ∨ ((code = 7) && corr) then s
  else
    let s := countErr s (errDie s code loc) code corr
    let owner := loc / 2 ^ 52
    match code, corr with
    | 6, _ => s.modCore (loc % 128) (fun c => { c with l1 := (c.l1.take (loc / 128)) ++ c.l1.drop (loc / 128 + 1) })
    | _, true => s
    | 1, _ | 4, _ | 7, _ => faultTeam s loc code
    | 2, _ =>
      let cl := loc % 2048 / 64
      if ((s.cluster cl).bank (loc % 64)).mode == .cache then s.modCluster cl (fun c => { c with cache := c.cache.take (loc / 2048) ++ c.cache.drop (loc / 2048 + 1) })
      else ctxFault s (loc / 2048) 5 2
    | 3, _ => if owner = 0 then s else ctxFault s (owner - 1) 5 3
    | 5, _ =>
      let s := if owner = 65 then s else retireFrame s (loc % 2 ^ 52 / 65536)
      if owner = 0 then logEvent s 5 0 0 0 0 s.now
      else if owner = 65 then packageFault s 5
      else ctxFault s (owner - 1) 5 5
    | _, _ => packageFault s 8

def execSoftError (code loc : Nat) (corr : Bool) (s : State) : Host.Outcome State Fault Refusal := finish (softError s code loc corr)

/-! ### Words (R472 to R474) -/

/-- featq for one lane (R473). -/
def featqAct (f : Nat) (a : Val) : Act :=
  if a.pl then .put (.w 0 true)
  else if 7 < a.lo.toNat then .trap 0xD8 a.lo
  else .put (.w (BitVec.ofNat 32 (fld f (32 * a.lo.toNat) 32)) false)

def execFeatq (g : Guard) (d : Code) (a : Src) (s : State) : Host.Outcome State Fault Refusal :=
  finish (runWord s (.featq g d a) (fun _ _ x _ _ => featqAct s.sys.featAcc x))
def execErrq (g : Guard) (d a : Code) (s : State) : Host.Outcome State Fault Refusal := finish (runCmd s (.errq g d a) false)
def execPwrq (g : Guard) (d a : Code) (s : State) : Host.Outcome State Fault Refusal := finish (runCmd s (.pwrq g d a) false)
def execIdq (g : Guard) (d a : Code) (s : State) : Host.Outcome State Fault Refusal := finish (runCmd s (.idq g d a) false)

/-- A query of the controller: its record goes to the pad (R474). -/
def queryRecord (s : State) (cid : Nat) (c : Cmd) (size rec detail : Nat) : Eng Unit :=
  if c.f 32 480 ≠ 0 then .fail 0x20 0 s
  else if c.f 0 32 % size ≠ 0 ∨ !padIn (cmdPadb s c) (c.f 0 32) size then .fail 0x22 0 s
  else .ok () (endCmd (cmdPadWrite s cid c (c.f 0 32) (leBytes size rec)) cid 0 detail)

/-- errq's record and DETAIL. -/
def errqStep (s : State) (cid : Nat) (c : Cmd) : Eng Unit :=
  let e := nth {} s.sys.errs (dieOf c.tags.core)
  queryRecord s cid c 32 (recOf [(192, e.last % 2 ^ 64), (160, e.uncorr), (128, e.hbm), (96, e.l2), (64, e.tile), (32, e.core), (0, e.refill)]).toNat
    (Nat.min 0xFFFFFF (e.hbm + e.l2 + e.tile + e.core))

/-- A die idles its arrays for a cycle, to keep its power within its limit (R469): THROTTLE rises by 1, once for the cycle. -/
def throttle (s : State) (die : Nat) : State :=
  s.modSys (fun c => { c with errs := modAt (fun e =>
    if e.throttled = s.cyc + 1 then e else { e with throttle := (e.throttle + 1) % 2 ^ 32, throttled := s.cyc + 1 }) c.errs die })

/-- pwrq's record and DETAIL (R474). -/
def pwrqStep (s : State) (cid : Nat) (c : Cmd) : Eng Unit :=
  let k := fun die => (s.point die).cls
  let p := fun die => nth 0 s.sys.power die
  queryRecord s cid c 32 (recOf [(192, (nth {} s.sys.errs (dieOf c.tags.core)).throttle), (176, p 1), (160, p 0), (152, nth 0 s.sys.temps 1 % 256), (144, nth 0 s.sys.temps 0 % 256),
    (128, powerLimit (k 1)), (112, powerLimit (k 0)), (4, k 1), (0, k 0)]).toNat (k (dieOf c.tags.core))

/-- idq's record. -/
def idqStep (s : State) (cid : Nat) (c : Cmd) : Eng Unit :=
  queryRecord s cid c 64 (leNat (s.sys.m.take 16) * 2 ^ 384 + s.sys.epidB * 2 ^ 336 + s.sys.epidA * 2 ^ 320 + Config.partCode.toNat * 2 ^ 256
    + s.sys.featAcc) 0

/-- A step of a class 0xC command. -/
def controlStep (s : State) (cid : Nat) (c : Cmd) : Eng Unit :=
  match c.instr with
  | .wpset _ _ _ _ => wpsetStep s cid c
  | .errq _ _ _ => errqStep s cid c
  | .pwrq _ _ _ => pwrqStep s cid c
  | .idq _ _ _ => idqStep s cid c
  | _ => .ok () s

end Sys2Proof.Machine
end

