-- ==== Sys2Proof/Machine/MemoryPort.lean ====
section
/-! DEFINITION. MemoryPort.lean: the meanings of class 0x2 (R133 to R153). -/

namespace Sys2Proof.Machine

open Sys2Proof

/-! ### Loads (R137, R140) -/

/-- ld for one lane: poison delivered for a poisoned address, alignment, watchpoints, the dead-letter window, the load. -/
def ldAct (i : Instr) (h : Hint) (sz : Sz) (off : BitVec 8) (s : State) (w : WordCtx) (e : Ent) (a : Val) : Act × State :=
  if a.poison then deliverLater s w e i poisonVal
  else
    let ea := eaOf a.d off (szBytes sz)
    if eaVa ea % szBytes sz ≠ 0 then (.trap 0x30 (ea.extractLsb' 0 32), s)
    else watched s w e true false ea (szBytes sz) (fun e s =>
      match if fld ea.toNat 56 4 = 0 then s.window w.grid.ctx (eaVa ea) else none with
      | some o => (oweD s i e, launch s (flightOf s w e i (.win o sz) ea))
      | none => loadLane s w e i (.ld sz h) .ld h ea (szBytes sz))

def execLd (g : Guard) (h : Hint) (sz : Sz) (d : Code) (a : Src) (off : BitVec 8) (s : State) : Host.Outcome State Fault Refusal :=
  finish (runLoad s (.ld g h sz d a off) (fun s w e x _ _ => ldAct (.ld g h sz d a off) h sz off s w e x))

/-- A pad access follows the pad writes of the lane's earlier ldps (R160). -/
def afterLdp (s : State) (w : WordCtx) (e : Ent) (r : Act × State) : Act × State :=
  if s.ldpDone w.group.tid e.lid then r else (.block .ldp, s)

/-- pld for one lane: the pad is read at issue, an instant that R160 leaves open (assumption log 108). -/
def pldAct (i : Instr) (sz : Sz) (off : BitVec 8) (s : State) (w : WordCtx) (e : Ent) (a : Val) : Act × State :=
  if a.pl then deliverLater s w e i poisonVal
  else
    let o := padOff a.lo off (szBytes sz)
    match padCheck w.team o (szBytes sz) with
    | some (c, n) => (.trap c n, s)
    | none => afterLdp s w e (oweD s i e,
        launch s { flightOf s w e i (.pld o sz) 0 with stage := .got (BitVec.ofNat 64 (leNat (padRead s w.group.tid o (szBytes sz)))) })

def execPld (g : Guard) (sz : Sz) (d : Code) (a : Src) (off : BitVec 8) (s : State) : Host.Outcome State Fault Refusal :=
  finish (runSeq s (.pld g sz d a off) (fun s w e x _ _ => pldAct (.pld g sz d a off) sz off s w e x))

/-- ldp for one lane: a poisoned operand gives a poisoned arrival without checks. -/
def ldpAct (i : Instr) (pt : BitVec 5) (s : State) (w : WordCtx) (e : Ent) (a b : Val) : Act × State :=
  if a.poison || b.pl then (.off, launch s { flightOf s w e i (.ldp 0 pt.toNat) a.d with stage := .bad })
  else
    let ea := eaOf a.d 0 16
    if eaVa ea % 16 ≠ 0 then (.trap 0x30 (ea.extractLsb' 0 32), s)
    else match padCheck w.team b.lo.toNat 16 with
      | some (c, n) => (.trap c n, s)
      | none => watched s w e true false ea 16 (fun e s => ldpLane s w e i b.lo.toNat pt.toNat ea)

def execLdp (g : Guard) (pt : BitVec 5) (a b : Src) (s : State) : Host.Outcome State Fault Refusal :=
  finish (runLoad s (.ldp g pt a b) (fun s w e x y _ => ldpAct (.ldp g pt a b) pt s w e x y))

/-! ### Stores (R138, R186) -/

/-- The lane registers that earlier loads of a lane are still to fill. -/
def Lane.owedLoads (l : Lane) : List Nat :=
  (upFrom 0 l.regs.length).filter (fun n => match (nth {} l.regs n).st with
    | .pend _ port => port
    | .full | .opn => false)

/-- A store to the dead-letter window: a release, performed after the lane's earlier loads (R158 point 3), or TRANSLATION_FAULT with cause
WINDOW (R186), for which no record is posted: the index in its info word is 0 (assumption log 125). -/
def windowStore (s : State) (w : WordCtx) (e : Ent) (sz : Sz) (o : Nat) (b : Val) : Act × State :=
  if sz = .b8 ∧ b.lo.toNat % 256 = 0 ∧ o % 32 = 0 then
    if mustPark s w then (.park, s)
    else if !e.lane.loadsDone then (.block (.regs e.lane.owedLoads), s)
    else afterLdp s w e (.off, raiseWct (windowRelease s w.grid.ctx o) w.group.tid e.lid (s.now + 1))
  else (.trap 0x40 9, s)

/-- st for one lane. -/
def stAct (i : Instr) (sz : Sz) (off : BitVec 8) (s : State) (w : WordCtx) (e : Ent) (a b : Val) : Act × State :=
  match consumed i.uses [(.A, a), (.B, b)] with
  | some (c, n) => (.trap c n, s)
  | none =>
    let ea := eaOf a.d off (szBytes sz)
    if eaVa ea % szBytes sz ≠ 0 then (.trap 0x30 (ea.extractLsb' 0 32), s)
    else watched s w e false true ea (szBytes sz) (fun e s =>
      match if fld ea.toNat 56 4 = 0 then s.window w.grid.ctx (eaVa ea) else none with
      | some o => windowStore s w e sz o b
      | none => storeLane s w e i (.st sz) .wr ea (szBytes sz) b.d false)

def execSt (g : Guard) (stream : Bool) (sz : Sz) (a b : Src) (off : BitVec 8) (s : State) : Host.Outcome State Fault Refusal :=
  finish (runStore s (.st g stream sz a b off) (fun s w e x y _ => stAct (.st g stream sz a b off) sz off s w e x y))

/-- pst for one lane, performed at issue (assumption log 108). -/
def pstAct (i : Instr) (sz : Sz) (off : BitVec 8) (s : State) (w : WordCtx) (e : Ent) (a b : Val) : Act × State :=
  match consumed i.uses [(.A, a), (.B, b)] with
  | some (c, n) => (.trap c n, s)
  | none =>
    let o := padOff a.lo off (szBytes sz)
    match padCheck w.team o (szBytes sz) with
    | some (c, n) => (.trap c n, s)
    | none => afterLdp s w e (.off, padWrite s w.group.tid (some (e.lid, s.ids)) o (leBytes (szBytes sz) b.d.toNat))

def execPst (g : Guard) (sz : Sz) (a b : Src) (off : BitVec 8) (s : State) : Host.Outcome State Fault Refusal :=
  finish (runSeq s (.pst g sz a b off) (fun s w e x y _ => pstAct (.pst g sz a b off) sz off s w e x y))

/-! ### Atomics and reductions (R141 to R144) -/

/-- rmw and red for one lane; `late` for rmw, whose D is owed. -/
def atomAct (i : Instr) (late : Bool) (kind : FKind) (ty : Ty) (off : BitVec 8) (s : State) (w : WordCtx) (e : Ent) (a b : Val) : Act × State :=
  match consumed i.uses [(.A, a), (.B, b)] with
  | some (c, n) => (.trap c n, s)
  | none =>
    let ea := eaOf a.d off (tyBytes ty)
    if eaVa ea % tyBytes ty ≠ 0 then (.trap 0x30 (ea.extractLsb' 0 32), s)
    else watched s w e true true ea (tyBytes ty) (fun e s => storeLane s w e i kind .wr ea (tyBytes ty) b.d late)

def execRmw (g : Guard) (fn : AFn) (ty : Ty) (d : Code) (a b : Src) (off : BitVec 8) (s : State) : Host.Outcome State Fault Refusal :=
  finish (runStore s (.rmw g fn ty d a b off) (fun s w e x y _ => atomAct (.rmw g fn ty d a b off) true (.rmw fn ty) ty off s w e x y))

def execRed (g : Guard) (fn : AFn) (ty : Ty) (a b : Src) (off : BitVec 8) (s : State) : Host.Outcome State Fault Refusal :=
  finish (runStore s (.red g fn ty a b off) (fun s w e x y _ => atomAct (.red g fn ty a b off) false (.red fn ty) ty off s w e x y))

/-- prmw for one lane: one step at the tile store, performed at issue (assumption log 108). -/
def prmwAct (i : Instr) (fn : AFn) (ty : Ty) (off : BitVec 8) (s : State) (w : WordCtx) (e : Ent) (a b : Val) : Act × State :=
  match consumed i.uses [(.A, a), (.B, b)] with
  | some (c, n) => (.trap c n, s)
  | none =>
    let n := tyBytes ty
    let o := padOff a.lo off n
    match padCheck w.team o n with
    | some (c, x) => (.trap c x, s)
    | none =>
      let old := leNat (padRead s w.group.tid o n)
      let s' := padWrite s w.group.tid (some (e.lid, s.ids)) o (leBytes n (atomicNew fn ty old b.d.toNat))
      afterLdp s w e (deliverLater s' w e i (if ty.is64 then .dw (BitVec.ofNat 64 old) false else .w (BitVec.ofNat 32 old) false))

def execPrmw (g : Guard) (fn : AFn) (ty : Ty) (d : Code) (a b : Src) (off : BitVec 8) (s : State) : Host.Outcome State Fault Refusal :=
  finish (runSeq s (.prmw g fn ty d a b off) (fun s w e x y _ => prmwAct (.prmw g fn ty d a b off) fn ty off s w e x y))

/-! ### Slice queues (R145, R146) -/

/-- qpush and qpop for one lane. -/
def queueLane (i : Instr) (late : Bool) (kind : FKind) (s : State) (w : WordCtx) (e : Ent) (ops : List (Pos × Val)) (a b : Val) : Act × State :=
  match consumed i.uses ops with
  | some (c, n) => (.trap c n, s)
  | none =>
    if eaVa a.d % 4096 ≠ 0 then (.trap 0x30 a.lo, s)
    else watched s w e true true a.d 4 (fun e s => storeLane s w e i kind .wr a.d 4 b.d late)

def execQpush (g : Guard) (a b : Src) (s : State) : Host.Outcome State Fault Refusal :=
  finish (runStore s (.qpush g a b) (fun s w e x y _ => queueLane (.qpush g a b) false .qpush s w e [(.A, x), (.B, y)] x y))

def execQpop (g : Guard) (d : Code) (a : Src) (s : State) : Host.Outcome State Fault Refusal :=
  finish (runStore s (.qpop g d a) (fun s w e x _ _ => queueLane (.qpop g d a) true .qpop s w e [(.A, x)] x {}))

/-! ### Fences (R152, R153) -/

/-- Every fabric store of a lane has been acknowledged, and every fabric atomic answered (R152, R415). -/
def State.fabStoresDone (s : State) (tid lid : Nat) : Bool :=
  s.flights.all (fun e => !(e.2.tid == tid && e.2.lid == lid && (match e.2.kind with
    | .fabSt _ => true
    | .fabRmw => e.2.stage == .ready
    | _ => false)))

/-- The condition of a fence's scope (R152). -/
def State.fenceHolds (s : State) (tid lid : Nat) (l : Lane) (sc : Scope) : Bool :=
  s.ldpDone tid lid && s.storesDone tid lid
    && (match sc with
      | .team => true
      | .cluster | .die | .package => decide (l.wct < s.now)
      | .fabric => decide (l.wct < s.now) && s.fabStoresDone tid lid && decide (l.fwct = 0 ∨ l.fwct + 64 < s.now))

/-- A fence that holds is passed; fence.fabric with the fabric error set raises FABRIC_STORE and empties it (R415). -/
def fenceAct (s : State) (w : WordCtx) (e : Ent) (sc : Scope) : Act × State :=
  if s.fenceHolds w.group.tid e.lid e.lane sc then
    match sc, e.lane.ferr with
    | .fabric, some info => (.trap 0xC0 info, s.modLane w.group.tid e.lid (fun l => { l with ferr := none }))
    | _, _ => (.off, s)
  else
    let l := advance w.group e.lane
    (.block (.fence sc l.h l.slot (hdrCount w.group.hdr)), s)

def execFence (g : Guard) (sc : Scope) (s : State) : Host.Outcome State Fault Refusal :=
  finish (runSeq s (.fence g sc) (fun s w e _ _ _ => fenceAct s w e sc))

def execFenceLd (g : Guard) (s : State) : Host.Outcome State Fault Refusal :=
  finish (runWord s (.fenceLd g) (fun w e _ _ _ =>
    if e.lane.loadsDone then .off else .block (.fenceLd (advance w.group e.lane).h (advance w.group e.lane).slot)))

/-! ### The tile store's banks (R149 to R151) -/

/-- Live pad allocations in a bank of a cluster (R151). -/
def State.bankPads (s : State) (cl bank : Nat) : Nat :=
  (s.teams.filter (fun e => match e.2.place with
    | some (c, _) => clusterOf c == cl && decide (0 < e.2.padb) && decide (e.2.padAt / 4096 ≤ bank) && decide (bank ≤ (e.2.padAt + e.2.padb / 64 - 1) / 4096)
    | none => false)).length

/-- 64-byte units of a bank that pads take. -/
def State.bankPadUnits (s : State) (cl bank : Nat) : Nat :=
  sumOf (s.teams.map (fun e => match e.2.place with
    | some (c, _) =>
      if clusterOf c = cl then Nat.min (e.2.padAt + e.2.padb / 64) (4096 * bank + 4096) - Nat.max e.2.padAt (4096 * bank) else 0
    | none => 0))

/-- busy(k) of R150. -/
def State.bankBusy (s : State) (cl : Nat) (m : BMode) (k : Nat) : Bool :=
  let b := (s.cluster cl).bank k
  b.sw.isSome || (b.mode == .pad && m != .pad && decide (0 < s.bankPads cl k))
    || (b.mode == .fifo && m != .fifo && decide (0 < s.bankHoles cl k))

/-- bank for one lane: the check and the start are one step. -/
def bankAct (m : BMode) (s : State) (w : WordCtx) (a b : Val) : Act × State :=
  if a.pl || b.pl then (.off, s)
  else
    let first := a.lo.toNat
    let n := b.lo.toNat
    let cl := clusterOf w.core
    if 63 < first ∨ n = 0 ∨ 64 < first + n then (.trap 0x32 (BitVec.ofNat 32 (first % 256 * 256 + n % 256)), s)
    else match firstWith (s.bankBusy cl m) (upFrom first n) with
      | some k => (.trap 0x33 (BitVec.ofNat 32 k), s)
      | none => (.off, s.modCluster cl (fun c => { c with
          banks := (upFrom first n).foldl (fun bs k => if (c.bank k).mode = m then bs else Tab.put k ⟨m, some s.cyc⟩ bs) c.banks
          cache := if (upFrom first n).any (fun k => (c.bank k).mode == .cache && m != .cache) then [] else c.cache }))

def execBank (g : Guard) (m : BMode) (a b : Src) (s : State) : Host.Outcome State Fault Refusal :=
  finish (runSeq s (.bank g m a b) (fun s w _ x y _ => bankAct m s w x y))

/-- bankq's word (R151); USERS and FREE of a bank that switches count by its target mode (assumption log 117). -/
def bankWord (s : State) (cl k : Nat) : Word :=
  let b := (s.cluster cl).bank k
  let md := match b.mode with
    | .cache => 0 | .pad => 1 | .fifo => 2
  let users := match b.mode with
    | .cache => 0
    | .pad => s.bankPads cl k
    | .fifo => s.bankHoles cl k
  let free := if b.mode = .pad then 4096 - s.bankPadUnits cl k else 0
  BitVec.ofNat 32 (md * 2 ^ 30 + b2n b.sw.isSome * 2 ^ 29 + Nat.min users 255 * 2 ^ 16 + free)

def execBankq (g : Guard) (d : Code) (a : Src) (s : State) : Host.Outcome State Fault Refusal :=
  finish (runWord s (.bankq g d a) (fun w _ x _ _ =>
    if x.pl then .put (.w 0 true)
    else if 63 < x.lo.toNat then .trap 0x32 (BitVec.ofNat 32 (x.lo.toNat % 256 * 256))
    else .put (.w (bankWord s (clusterOf w.core) x.lo.toNat) false)))

/-! ### Leases and prefetch (R147, R148) -/

def leaseNs : LLen → Nat
  | .l64 => 64 | .l128 => 128 | .l256 => 256 | .l512 => 512 | .l1024 => 1024 | .l2048 => 2048 | .l4096 => 4096

def execLease (g : Guard) (len : LLen) (s : State) : Host.Outcome State Fault Refusal :=
  finish (runWord s (.lease g len) (fun _ e _ _ _ => .upd { e.lane with lease := leaseNs len }))

/-- pref for one lane: an access on its way, or nothing. -/
def prefAct (i : Instr) (lvl : Lvl) (off : BitVec 8) (s : State) (w : WordCtx) (e : Ent) (a : Val) : Act × State :=
  if a.poison then (.off, s)
  else
    let ea := eaOf a.d off 128
    match translateOr s (clusterOf w.core) w.grid.ctx ea.toNat .rd 1 with
    | (.ok pa leaf _, s) =>
      (.off, launch s { flightOf s w e i (.pref (lvl == .l1)) ea with pa := pa, leaf := BitVec.ofNat 64 leaf })
    | (.fail _ _, s) => (.off, s)

def execPref (g : Guard) (lvl : Lvl) (a : Src) (off : BitVec 8) (s : State) : Host.Outcome State Fault Refusal :=
  finish (runSeq s (.pref g lvl a off) (fun s w e x _ _ => prefAct (.pref g lvl a off) lvl off s w e x))

end Sys2Proof.Machine
end

