-- ==== Sys2Proof/Machine/Fabric.lean ====
section
/-! DEFINITION. Fabric.lean: the fabric engine (R406 to R425): the meanings of class 0xB, its commands, requests that arrive, responses,
routes and notices. -/

namespace Sys2Proof.Machine

open Sys2Proof

/-! ### Requests that arrive (R406, R409, R419) -/

/-- What an arriving request comes to: an answer, or waiting for a page or a version's place. -/
inductive Ingress
  | wait (s : State)
  | done (r : FabResp) (s : State)
deriving DecidableEq, Repr

/-- Bytes that a request moves. -/
def fabSize : FabKind → Nat
  | .read n => n
  | .write bytes => bytes.length
  | .atomic _ ty _ => tyBytes ty
  | .other => 0

/-- An atomic that the domain has (R406). -/
def atomicKnown (fn : AFn) (ty : Ty) : Bool :=
  match fn with
  | .fadd => ty == .f32
  | .cas => ty == .b32
  | .add | .min | .max | .and | .or | .xor | .exch => ty != .f32

/-- A request that the device supports (R406): one of at most 256 bytes, wherever it lies; those that it issues cross no 256-byte boundary. -/
def reqSupported (q : FabReq) : Bool :=
  let n := fabSize q.kind
  decide (1 ≤ n) && decide (n ≤ 256) && (match q.kind with
    | .atomic fn ty _ => atomicKnown fn ty && q.off.toNat % n == 0
    | .read _ | .write _ => true
    | .other => false)

/-- The checks of R409 against the import table: the entry, or a cause. -/
def ingressEntry (s : State) (die : Nat) (q : FabReq) : Except Nat Export :=
  match Tab.find q.entry.toNat (s.fabDie die).table with
  | none => .error 0x30
  | some e =>
    let write := match q.kind with
      | .write _ => true
      | .read _ | .atomic _ _ _ | .other => false
    let atomic := match q.kind with
      | .atomic _ _ _ => true
      | .read _ | .write _ | .other => false
    if e.key ≠ q.key.toNat ∨ (!e.any && e.peer ≠ q.src) then .error 0x31
    else if 65536 * e.pages < q.off.toNat + fabSize q.kind then .error 0x32
    else if (write && !e.wr) || (atomic && !e.atomics) then .error 0x33
    else if write && q.tag.isSome && !e.vers then .error 0x34
    else .ok e

/-- The tags of an ingress access: carbon 0 and the plain task tag (R409). -/
def ingressTags (die ctx : Nat) : Tags := { core := 64 * die, ctx := ctx, carbon := 0, task := none }

/-- Whether a remote task lies in the view that a tagged read carries (R339, R419). -/
def tagSees (t : FabTag) (r : RemoteTask) : Bool :=
  (r.carbon == t.carbon && !keyLt (t.postmark, t.lseq) (r.postmark, r.lseq)) || t.lineage.any (fun e => e.1 == r.carbon && decide (r.postmark < e.2))

/-- The latest remote version, in key order with the reader latest of all, that wrote a byte (R419). -/
def remoteByte (s : State) (die src ctx pa : Nat) (t : FabTag) : Option Byte :=
  let cands := s.fab.remotes.filterMap (fun r =>
    if r.die = die ∧ r.src = src ∧ r.ctx = t.ctx ∧ tagSees t r then
      (firstWith (fun (v : Version) => v.ctx == ctx && v.line == pa / 512 && v.isOf die src r.ctx r.lseq) s.versions).bind (fun v =>
        (Mem.noted v.cells (pa % 512)).map (fun b => ((r.postmark, r.lseq), b)))
    else none)
  (cands.foldl (fun (best : Option ((Nat × Nat) × Byte)) (c : (Nat × Nat) × Byte) => match best with
    | none => some c
    | some (k, _) => if k ≠ (t.postmark, t.lseq) ∧ (keyLt k c.1 ∨ c.1 = (t.postmark, t.lseq)) then some c else best) none).map Prod.snd

/-- The bytes of an ingress read. -/
def ingressRead (s : State) (die : Nat) (e : Export) (q : FabReq) (pa n : Nat) : List Byte :=
  match q.tag with
  | none => Mem.read s.mem pa n
  | some t => (upFrom pa n).map (fun a => (remoteByte s die q.src e.ctx a t).getD (Mem.get s.mem a))

/-- Writes bytes into the remote version of a line (R419). -/
def remoteLine (s : State) (die : Nat) (e : Export) (q : FabReq) (t : FabTag) (pa : Nat) (bytes : List Byte) : Option State :=
  (noteVersion (touch s pa bytes.length) e.ctx 0 (.remote die q.src t.ctx t.lseq) pa bytes).map (fun s =>
    let es := match firstWith (fun r => r.is die q.src t.ctx t.lseq) s.fab.remotes with
      | some r => insNat q.entry.toNat r.entries
      | none => [q.entry.toNat]
    let r : RemoteTask := ⟨die, q.src, t.ctx, t.lseq, t.carbon, t.postmark, es⟩
    { s with fab := { s.fab with remotes := s.fab.remotes.filter (fun x => !x.is die q.src t.ctx t.lseq) ++ [r] } })

/-- Where a part of an ingress access lies: its offset in the access and its bytes, and its offset in the dead-letter window or its
address, with its leaf. -/
structure InPart where
  off : Nat
  n : Nat
  win : Option Nat := none
  pa : Nat := 0
  leaf : Nat := 0
deriving DecidableEq, Repr, Inhabited

/-- One part is translated as an engine access (R177, R409): NOT_MAPPED is served; a read is not tag-checked. -/
def ingressPart (s : State) (die ctx : Nat) (acc : Acc) (off p n : Nat) : Got InPart × State :=
  match s.window ctx p with
  | some o => (if acc = .rd then .ok { off := off, n := n, win := some o } else .fail 9, s)
  | none =>
    let page := p / 65536
    let wait := fun (s : State) => (Got.page page,
      request { s with fab := { s.fab with pages := s.fab.pages.filter (· != (ctx, page)) ++ [(ctx, page)] } } ctx page die)
    if (s.svc ctx (s.mapVa ctx p / 65536)).isSome then wait s
    else match xlWalk s ctx p acc n with
      | (.ok pa leaf _, s) => (.ok { off := off, n := n, pa := pa, leaf := leaf }, s)
      | (.fail 1 _, s) =>
        if s.fab.refused.contains (ctx, page) then (.fail 2, { s with fab := { s.fab with refused := s.fab.refused.filter (· != (ctx, page)) } })
        else wait s
      | (.fail 5 (some (leaf, big)), s) => (if acc = .rd then .ok { off := off, n := n, pa := physOf leaf p big, leaf := leaf } else .fail 5, s)
      | (.fail c _, s) => (.fail c, s)

/-- The parts of an ingress access, cut as R476 gives. -/
def ingressParts (s : State) (die ctx : Nat) (acc : Acc) (got : List InPart) : List (Nat × Nat × Nat) → Got (List InPart) × State
  | [] => (.ok got.reverse, s)
  | (o, p, n) :: t => match ingressPart s die ctx acc o p n with
    | (.ok x, s) => ingressParts s die ctx acc (x :: got) t
    | (.page p, s) => (.page p, s)
    | (.edge w p, s) => (.edge w p, s)
    | (.fail c, s) => (.fail c, s)

/-- An ingress write of the parts, tagged or not: the state and the largest WCT; none while a version has no place. -/
def ingressWrite (s : State) (die : Nat) (e : Export) (q : FabReq) (bytes : List Byte) (w : Nat) : List InPart → Option (State × Nat)
  | [] => some (s, w)
  | x :: t =>
    let bs := (bytes.drop x.off).take x.n
    match (match q.tag with
      | none => writeAt s (ingressTags die e.ctx) x.leaf x.pa bs
      | some g => (remoteLine s die e q g x.pa bs).map (fun s => (s, s.wctAt x.pa))) with
    | none => none
    | some (s, w1) => ingressWrite s die e q bytes (Nat.max w w1) t

/-- An ingress access at some of its places: performed, with its WCT; `pre` is what its parts performed before have given, the bytes read and
the largest WCT. An atomic has one part. -/
def ingressAct (s : State) (die : Nat) (e : Export) (q : FabReq) (pre : List Byte × Nat) (xs : List InPart) : Ingress :=
  let tg := ingressTags die e.ctx
  match q.kind with
  | .read _ => .done (.done (pre.1 ++ xs.flatMap (fun x => match x.win with
      | some o => s.windowRead e.ctx o x.n
      | none => ingressRead s die e q x.pa x.n)) 0) (xs.foldl (fun s x => if x.win.isSome then s else touch s x.pa x.n) s)
  | .write bytes => match ingressWrite s die e q bytes pre.2 xs with
    | some (s, w) => .done (.done [] w) s
    | none => .wait s
  | .atomic fn ty data =>
    let x := nth default xs 0
    match readAt s tg x.leaf x.pa (tyBytes ty) with
    | none => .wait s
    | some (old, s) => match writeAt s tg x.leaf x.pa (leBytes (tyBytes ty) (atomicNew fn ty (leNat old) data.toNat)) with
      | some (s, w) => .done (.done old w) s
      | none => .wait s
  | .other => .done .error s

/-- The access that a request makes, and the parts into which R476 cuts it. -/
def ingressAcc (q : FabReq) : Acc :=
  match q.kind with
  | .read _ => .rd
  | .write _ | .atomic _ _ _ | .other => .wr

def ingressPieces (e : Export) (q : FabReq) : List (Nat × Nat × Nat) := piecesOf (e.base + q.off.toNat) (fabSize q.kind)

/-- What the parts of a kept request that have been performed have given: their number, the bytes read, the largest WCT (R476). -/
def State.begun (s : State) (n : Nat) : Nat × List Byte × Nat := (Tab.find n s.fab.begun).getD (0, [], 0)

/-- A request that an entry has admitted is performed there (R409): the parts of it that are left. -/
def ingressAt (s : State) (n die : Nat) (e : Export) (q : FabReq) : Ingress :=
  match ingressParts s die e.ctx (ingressAcc q) [] (ingressPieces e q) with
  | (.ok xs, t) => ingressAct t die e q (s.begun n).2 (xs.drop (s.begun n).1)
  | (.fail c, s) => .done (.refused (0x40 + c)) s
  | (.page _, s) | (.edge _ _, s) => .wait s

/-- A request performed or refused at a die (R409); one that has been admitted under its number already is not checked again. -/
def ingress (s : State) (n die : Nat) (q : FabReq) : Ingress :=
  match Tab.find n s.fab.kept with
  | some (d, e, q) => ingressAt s n d e q
  | none =>
    if !reqSupported q then .done .error s
    else match ingressEntry s die q with
      | .error c => .done (.refused c) s
      | .ok e => ingressAt s n die e q

/-- A request waits: it is kept with the entry that has admitted it, and with what it was sent as. -/
def keepReq (s : State) (n die : Nat) (q : FabReq) : State :=
  match Tab.find n s.fab.kept, ingressEntry s die q with
  | none, .ok e => { s with fab := { s.fab with
      kept := Tab.put n (die, e, q) s.fab.kept
      keptOuts := match Tab.find n s.fab.outs with
        | some o => Tab.put n o s.fab.keptOuts
        | none => s.fab.keptOuts } }
  | _, _ => s

/-- A request waits no more. -/
def unkeep (s : State) (n : Nat) : State := { s with fab := s.fab.dropKept (fun k => k.1 == n) }

/-- The answer to a request of another endpoint is sent. -/
def sendReply (s : State) (die src : Nat) (r : FabResp) : State := { s with fab := { s.fab with replies := s.fab.replies ++ [(die, src, r)] } }

/-- INGRESS_REQUEST: a request of another endpoint; its answer is sent, at once or when it is performed. -/
def ingressEvent (s : State) (die : Nat) (q : FabReq) : State :=
  if 1 < die then s
  else match ingress s s.ids die q with
    | .wait t => keepReq { t with ids := t.ids + 1 } s.ids die q
    | .done r s => sendReply s die q.src r

def execIngressRequest (die : Nat) (req : FabReq) (s : State) : Host.Outcome State Fault Refusal := finish (ingressEvent s die req)

/-- Requests of this package that may still be performed at a die of it: those that await their response, and those that were found absent while
they wait there. -/
def State.ownReqs (s : State) : List (Nat × FabOut) := s.fab.outs ++ s.fab.keptOuts.filter (fun o => (Tab.find o.1 s.fab.outs).isNone)

/-- Whether a request to a die of this package waits behind an earlier one of its lane (R158 points 1 and 2, R416): same line, or two writes to one
home slice. One whose page is not mapped may come to lie there (assumption log 84). -/
def ownHolds (s : State) (die n : Nat) (o : FabOut) : Bool :=
  let writes := fun (q : FabReq) => match q.kind with
    | .read _ => false
    | .write _ | .atomic _ _ _ | .other => true
  let place := fun (n : Nat) (o : FabOut) => o.req.bind (fun q => match (match Tab.find n s.fab.kept with
      | some (_, e, _) => Except.ok e
      | none => ingressEntry s die q) with
    | .ok e => match (walk s e.ctx (s.mapVa e.ctx (e.base + q.off.toNat))).res with
      | .ok (leaf, big) => some (some (physOf leaf (s.mapVa e.ctx (e.base + q.off.toNat)) big), writes q)
      | .error c => if c = 1 then some (none, writes q) else none
    | .error _ => none)
  o.lane.isSome && s.ownReqs.any (fun x => decide (x.1 < n) && x.2.epid == o.epid && x.2.die == o.die && x.2.lane == o.lane
    && (match place x.1 x.2, place n o with
      | some (some a, v), some (some b, w) => a / 512 == b / 512 || (v && w && sliceOf a == sliceOf b)
      | some (none, v), some (_, w) => v || w
      | _, _ => false))

/-- Whether a tagged request's lane or command is no more: its task has aborted, and it is not performed. -/
def FabOut.orphan (o : FabOut) (s : State) : Bool :=
  ((o.req.bind (fun q => q.tag)).isSome) && (match o.owner with
    | .lane fid => (Tab.find fid s.flights).isNone
    | .cmd cid _ _ _ => (s.cmd cid).isNone
    | .fold _ => false)

/-- Whether a kept request waits behind an earlier one of its lane. -/
def State.keptHeld (s : State) (n die : Nat) : Bool :=
  match firstWith (fun (o : Nat × FabOut) => o.1 == n) s.ownReqs with
  | some (_, o) => ownHolds s die n o
  | none => false

/-- A request that has been admitted and waits is performed once it can be. One of this package whose response is still awaited is performed
with that; of one that nothing awaits any more the answer is dropped (R425). -/
def keptEvent (s : State) (n : Nat) : State :=
  match Tab.find n s.fab.kept with
  | none => s
  | some (die, e, q) =>
    if (Tab.find n s.fab.outs).isSome || s.keptHeld n die then s
    else match ingressAt s n die e q with
      | .wait s => s
      | .done r s => if q.src = s.epid 0 ∨ q.src = s.epid 1 then unkeep s n else sendReply (unkeep s n) die q.src r

/-- The next part of a request that has been admitted is performed, but for its last one, with which the request is (R476). All parts must be
translated, since a refused request performs nothing. -/
def partEvent (s : State) (n : Nat) : State :=
  match Tab.find n s.fab.kept with
  | none => s
  | some (die, e, q) =>
    let k := (s.begun n).1
    if (ingressPieces e q).length ≤ k + 1 || s.keptHeld n die then s
    else match ingressParts s die e.ctx (ingressAcc q) [] (ingressPieces e q) with
      | (.ok xs, t) => match ingressAct t die e q (s.begun n).2 ((xs.drop k).take 1) with
        | .done (.done bytes w) t => { t with fab := { t.fab with begun := Tab.put n (k + 1, bytes, w) t.fab.begun } }
        | .done _ _ | .wait _ => s
      | (.page _, t) => t
      | (.edge _ _, _) | (.fail _, _) => s

/-- A request of another endpoint arrives and is admitted; it is performed later (R409, R477). -/
def admitEvent (s : State) (die : Nat) (q : FabReq) : State :=
  if 1 < die || !reqSupported q then s else keepReq { s with ids := s.ids + 1 } s.ids die q

/-! ### Requests of this package -/

/-- The FABRIC leaf that a pointer reaches, if it does; R410. -/
def fabLeaf (s : State) (w : WordCtx) (ptr : DWord) (acc : Acc) (n : Nat) : Option Nat × State :=
  match translate s (clusterOf w.core) w.grid.ctx ptr.toNat acc n with
  | (.fail 2 (some (leaf, _)), s) => (some leaf, s)
  | (_, s) => (none, s)

/-- A lane's access goes out as a request, or is absent at its send (R407, R414). -/
def fabLane (s : State) (w : WordCtx) (e : Ent) (i : Instr) (kind : FKind) (ptr : DWord) (leaf : Nat) (ask : FabKind) (tag : Option FabTag)
    (d : Nat) : State :=
  let die := dieOf w.core
  let epid := fld leaf 42 10
  let fid := s.ids
  let up := s.routeUp die epid
  let s := launch s { flightOf s w e i kind ptr with leaf := BitVec.ofNat 64 leaf, d := d, stage := if up then .ready else .fail 0x35 }
  let q : FabReq := { src := s.epid die, entry := BitVec.ofNat 12 (fld leaf 30 12), key := BitVec.ofNat 14 (fld leaf 16 14),
                      off := ptr.extractLsb' 0 28, kind := ask, tag := tag }
  if up then sendReq s die epid q (.lane fid) else s

/-- After a word of fabric accesses: the records of those absent at their send, and of those that failed here. -/
def fabAfter (s : State) (w : WordCtx) : State := postLoads (postFabric s w.group.tid w.core) w.group.tid w.core

/-! ### fld, fst, frmw (R414 to R416, R418) -/

/-- fld for one lane. -/
def fldAct (i : Instr) (sz : Sz) (off : BitVec 8) (s : State) (w : WordCtx) (e : Ent) (a : Val) : Act × State :=
  if a.poison then deliverLater s w e i poisonVal
  else
    let ea := eaOf a.d off (szBytes sz)
    if eaVa ea % szBytes sz ≠ 0 then (.trap 0x30 (ea.extractLsb' 0 32), s)
    else watched s w e true false ea (szBytes sz) (fun e s =>
      match if fld ea.toNat 56 4 = 0 then s.window w.grid.ctx (eaVa ea) else none with
      | some o => (oweD s i e, launch s (flightOf s w e i (.win o sz) ea))
      | none => match fabLeaf s w ea .rd (szBytes sz) with
        | (none, s) => loadLane s w e i (.ld sz .dflt) .rd .dflt ea (szBytes sz)
        | (some leaf, s) =>
          (oweD s i e, fabLane s w e i (.fabLd sz) ea leaf (.read (szBytes sz)) (fabTag s w.core w.team.lseq (fld leaf 42 10)) (flightOf s w e i .fabRmw ea).d))

def execFld (g : Guard) (sz : Sz) (d : Code) (a : Src) (off : BitVec 8) (s : State) : Host.Outcome State Fault Refusal :=
  finish (match s.wordCtx with
    | none => s
    | some w => fabAfter (runSeq s (.fld g sz d a off) (fun s w e x _ _ => fldAct (.fld g sz d a off) sz off s w e x)) w)

/-- A write that reaches a FABRIC leaf: WRITABLE is checked, and the lane parks where the write is irrevocable. -/
def fabWrite (s : State) (e : Ent) (ptr : DWord) (leaf : Nat) (parks : Bool) (k : State → Act × State) : Act × State :=
  if !leafWritable leaf then (.block (.post 0), { s with wfails := s.wfails ++ [⟨e.lid, ptr, 3⟩] })
  else if parks then (.park, s)
  else k s

/-- fst for one lane: a task that is not at the frontier sends a tagged write to a KLN-8800, and parks otherwise. -/
def fstAct (i : Instr) (sz : Sz) (off : BitVec 8) (s : State) (w : WordCtx) (e : Ent) (a b : Val) : Act × State :=
  match consumed i.uses [(.A, a), (.B, b)] with
  | some (c, n) => (.trap c n, s)
  | none =>
    let ea := eaOf a.d off (szBytes sz)
    if eaVa ea % szBytes sz ≠ 0 then (.trap 0x30 (ea.extractLsb' 0 32), s)
    else watched s w e false true ea (szBytes sz) (fun e s =>
      match if fld ea.toNat 56 4 = 0 then s.window w.grid.ctx (eaVa ea) else none with
      | some o => windowStore s w e sz o b
      | none => match fabLeaf s w ea .wr (szBytes sz) with
        | (none, s) => storeLane s w e i (.st sz) .wr ea (szBytes sz) b.d false
        | (some leaf, s) =>
          let die := dieOf w.core
          let epid := fld leaf 42 10
          fabWrite s e ea leaf (mustPark s w && !s.isKln die epid) (fun s =>
            let tag := fabTag s w.core w.team.lseq epid
            let s := if tag.isSome then noteWrote s w.team.lseq die epid else s
            (.off, fabLane s w e i (.fabSt sz) ea leaf (.write (leBytes (szBytes sz) b.d.toNat)) tag
              (((useAt .B i.uses).map (fun u => u.code.toNat)).getD 0))))

def execFst (g : Guard) (sz : Sz) (a b : Src) (off : BitVec 8) (s : State) : Host.Outcome State Fault Refusal :=
  finish (match s.wordCtx with
    | none => s
    | some w => fabAfter (runStore s (.fst g sz a b off) (fun s w e x y _ => fstAct (.fst g sz a b off) sz off s w e x y)) w)

/-- The function and type of frmw (R411, R414). -/
def frmwFn (fop : FrOp) (w : Bool) : AFn × Ty :=
  let b : Ty := if w then .b64 else .b32
  let i : Ty := if w then .i64 else .i32
  let n : Ty := if w then .n64 else .n32
  match fop with
  | .add => (.add, b) | .smin => (.min, i) | .smax => (.max, i) | .umin => (.min, n) | .umax => (.max, n)
  | .and => (.and, b) | .or => (.or, b) | .xor => (.xor, b) | .exch => (.exch, b) | .cas => (.cas, .b32) | .fadd => (.fadd, .f32)

/-- frmw for one lane: irrevocable on a FABRIC leaf. -/
def frmwAct (i : Instr) (fop : FrOp) (wd : Bool) (off : BitVec 8) (s : State) (w : WordCtx) (e : Ent) (a b : Val) : Act × State :=
  let fn := (frmwFn fop wd).1
  let ty := (frmwFn fop wd).2
  match consumed i.uses [(.A, a), (.B, b)] with
  | some (c, n) => (.trap c n, s)
  | none =>
    let ea := eaOf a.d off (tyBytes ty)
    if eaVa ea % tyBytes ty ≠ 0 then (.trap 0x30 (ea.extractLsb' 0 32), s)
    else watched s w e true true ea (tyBytes ty) (fun e s =>
      if fld ea.toNat 56 4 = 0 ∧ (s.window w.grid.ctx (eaVa ea)).isSome then (.trap 0x40 9, s)
      else match fabLeaf s w ea .wr (tyBytes ty) with
        | (none, s) => storeLane s w e i (.rmw fn ty) .wr ea (tyBytes ty) b.d true
        | (some leaf, s) => fabWrite s e ea leaf (mustPark s w) (fun s =>
            (oweD s i e, fabLane s w e i .fabRmw ea leaf (.atomic fn ty b.d) none (flightOf s w e i .fabRmw ea).d)))

def execFrmw (g : Guard) (fop : FrOp) (w : Bool) (d : Code) (a b : Src) (off : BitVec 8) (s : State) : Host.Outcome State Fault Refusal :=
  finish (match s.wordCtx with
    | none => s
    | some c => fabAfter (runStore s (.frmw g fop w d a b off) (fun s c e x y _ => frmwAct (.frmw g fop w d a b off) fop w off s c e x y)) c)

/-! ### Groups and exports (R408, R420, R424) -/

def execFexpGrant (g : Guard) (d a b : Code) (s : State) : Host.Outcome State Fault Refusal := finish (runCmd s (.fexpGrant g d a b) false)
def execFexpRevoke (g : Guard) (d a b : Code) (s : State) : Host.Outcome State Fault Refusal := finish (runCmd s (.fexpRevoke g d a b) false)
def execFexpGroup (g : Guard) (d a b : Code) (s : State) : Host.Outcome State Fault Refusal := finish (runCmd s (.fexpGroup g d a b) false)
def execFexpQuery (g : Guard) (d a b : Code) (s : State) : Host.Outcome State Fault Refusal := finish (runCmd s (.fexpQuery g d a b) false)

/-- The bits of an entry (R408). -/
def Export.bits (e : Export) : Nat :=
  e.base * 2 ^ 72 + e.key * 2 ^ 58 + e.pages * 2 ^ 45 + e.peer * 2 ^ 35 + b2n e.any * 2 ^ 34 + e.ctx * 2 ^ 28 + b2n e.wr * 2 ^ 27
    + b2n e.atomics * 2 ^ 26 + b2n e.vers * 2 ^ 25 + 2 ^ 24

/-- fexp.grant. -/
def grantStep (s : State) (cid : Nat) (c : Cmd) : Eng Unit :=
  let die := dieOf c.tags.core
  let base := c.f 0 56
  let pages := c.f 64 13
  let was := Tab.find c.b.toNat (s.fabDie die).table
  if !cmdFront s c then holdCmd s cid
  else if c.f 56 8 ≠ 0 ∨ c.f 77 3 ≠ 0 ∨ c.f 94 2 ≠ 0 ∨ c.f 110 402 ≠ 0 then .fail 0x20 0 s
  else if 4095 < c.b.toNat ∨ pages = 0 ∨ 4096 < pages ∨ base % 65536 ≠ 0 then .fail 0x21 0 s
  else if 2 ^ 56 < base + 65536 * pages then .fail 0x23 0 s
  else match was with
    | some e => .fail (if e.ctx = c.tags.ctx then 0x24 else 0x26) 0 s
    | none =>
      let e : Export := { base := base, key := c.f 80 14, pages := pages, peer := c.f 96 10, any := c.f 106 1 == 1, ctx := c.tags.ctx,
                          wr := c.f 107 1 == 1, atomics := c.f 108 1 == 1, vers := c.f 109 1 == 1 }
      .ok () (endCmd (s.modFabDie die (fun x => { x with table := Tab.put c.b.toNat e x.table })) cid 0 (s.epid die))

/-- fexp.revoke: the entry is not live from its first step on; it completes when the requests that were admitted before have been performed. -/
def revokeStep (s : State) (cid : Nat) (c : Cmd) : Eng Unit :=
  let die := dieOf c.tags.core
  let n := c.b.toNat
  if c.step ≠ 0 then (if s.fab.kept.any (fun k => c.vals.contains k.1) then .wait s else .ok () (endCmd s cid 0 0))
  else if !cmdFront s c then holdCmd s cid
  else if 4095 < n then .fail 0x21 0 s
  else match Tab.find n (s.fabDie die).table with
    | none => .fail 0x25 0 s
    | some e =>
      if e.ctx ≠ c.tags.ctx then .fail 0x26 0 s
      else if s.fab.remotes.any (fun r => r.die == die && r.entries.contains n) then .ok () (endCmd s cid 1 0)
      else
        let s := s.modFabDie die (fun x => { x with table := Tab.del n x.table })
        match (s.fab.kept.filter (fun k => k.2.1 == die && k.2.2.2.entry.toNat == n)).map Prod.fst with
        | [] => .ok () (endCmd s cid 0 0)
        | ks => .ok () (nextStep s cid (fun c => { c with vals := ks }))

/-- fexp.query. -/
def queryStep (s : State) (cid : Nat) (c : Cmd) : Eng Unit :=
  let die := dieOf c.tags.core
  let off := c.f 0 32
  if c.f 32 480 ≠ 0 then .fail 0x20 0 s
  else if 4095 < c.b.toNat then .fail 0x21 0 s
  else if off % 16 ≠ 0 ∨ cmdPadb s c < off + 16 then .fail 0x22 0 s
  else
    let v := match Tab.find c.b.toNat (s.fabDie die).table with
      | some e => if e.ctx = c.tags.ctx then e.bits else 0
      | none => 0
    .ok () (endCmd (cmdPadWrite s cid c off (leBytes 16 v)) cid 0 (s.epid die))

/-- The member words of a group block (R420). -/
def memberWords (c : Cmd) : List Nat := (upFrom 0 8).map (fun m => c.f (64 * m) 64)

/-- fexp.group. -/
def groupStep (s : State) (cid : Nat) (c : Cmd) : Eng Unit :=
  let die := dieOf c.tags.core
  let g := c.b.toNat
  let ws := memberWords c
  let n := (ws.takeWhile (fun v => bit v 36)).length
  if !cmdFront s c then holdCmd s cid
  else if ws.any (fun v => fld v 37 27 != 0) || (ws.drop n).any (fun v => bit v 36) then .fail 0x20 0 s
  else if 63 < g then .fail 0x21 0 s
  else if ((Tab.find g (s.fabDie die).groups).map (fun x => x.ctx != c.tags.ctx)).getD false then .fail 0x26 0 s
  else
    let ms := (ws.take n).map (fun v => (fld v 26 10, fld v 14 12, fld v 0 14))
    .ok () (endCmd (s.modFabDie die (fun x => { x with
      groups := if n = 0 then Tab.del g x.groups else Tab.put g ⟨c.tags.ctx, ms⟩ x.groups })) cid 0 n)

/-! ### fstm and fldr (R421 to R423) -/

def execFstm (g : Guard) (d a : Code) (s : State) : Host.Outcome State Fault Refusal := finish (runCmd s (.fstm g d a) false)
def execFldr (g : Guard) (d a : Code) (s : State) : Host.Outcome State Fault Refusal := finish (runCmd s (.fldr g d a) false)

/-- A member as a number, kept with the command (R420). -/
def memberNum (m : Nat × Nat × Nat) : Nat := m.1 * 2 ^ 26 + m.2.1 * 2 ^ 14 + m.2.2

/-- The group that a command names, if it is live for its context. -/
def cmdGroup (s : State) (c : Cmd) : Option (List Nat) :=
  match Tab.find (c.f 80 6) (s.fabDie (dieOf c.tags.core)).groups with
  | some g => if g.ctx = c.tags.ctx then some (g.members.map memberNum) else none
  | none => none

/-- Offset and length of each piece of a range cut at 256-byte boundaries, from an offset on. -/
def cuts (off n : Nat) : Nat → List (Nat × Nat)
  | 0 => []
  | k + 1 => if n = 0 then [] else (off, Nat.min n (256 - off % 256)) :: cuts (off + Nat.min n (256 - off % 256)) (n - Nat.min n (256 - off % 256)) k

/-- The acceptance checks of fstm and fldr: a cause, or the members copied. -/
def fabCheck (s : State) (c : Cmd) : Except Nat (List Nat) :=
  let padb := cmdPadb s c
  match c.instr with
  | .fstm _ _ _ =>
    if c.f 60 4 ≠ 0 ∨ c.f 77 3 ≠ 0 ∨ c.f 86 426 ≠ 0 then .error 0x20
    else if c.f 64 13 = 0 ∨ 4096 < c.f 64 13 then .error 0x21
    else if padb < c.f 0 32 + c.f 64 13 then .error 0x22
    else (cmdGroup s c).elim (.error 0x27) .ok
  | _ =>
    if c.f 60 4 ≠ 0 ∨ c.f 76 4 ≠ 0 ∨ c.f 86 426 ≠ 0 then .error 0x20
    else if c.f 64 12 = 0 ∨ 2048 < c.f 64 12 ∨ c.f 32 28 % 2 ≠ 0 then .error 0x21
    else if c.f 0 32 % 4 ≠ 0 ∨ padb < c.f 0 32 + 4 * c.f 64 12 then .error 0x22
    else (cmdGroup s c).elim (.error 0x27) .ok

/-- Acceptance of a class 0xB command. fstm keeps its steps still to run in `data`, and in `vals` its earliest refusal, its absent members and
the members; fldr keeps in `vals` whether its step's requests are out, and the members, and in `data` the bytes that members have sent. -/
def fabricAccept (s : State) (cid : Nat) (c : Cmd) : State :=
  match c.instr with
  | .fstm _ _ _ => match fabCheck s c with
    | .error k => failCmd s cid c k 0
    | .ok ms => s.modCmd cid (fun c => { c with vals := 0 :: 0 :: ms, data := upFrom 0 (cuts (c.f 32 28) (c.f 64 13) 18).length })
  | .fldr _ _ _ => match fabCheck s c with
    | .error k => failCmd s cid c k 0
    | .ok ms => s.modCmd cid (fun c => { c with vals := 0 :: ms })
  | _ => s

/-- Requests of a command that are out. -/
def State.cmdOuts (s : State) (cid : Nat) : List (Nat × FabOut) := s.fab.outs.filter (fun o => (o.2.stepOf cid).isSome)

/-- How the sends of a step came out: for each member that could not be reached, whether it refuses (an offset that no export has) or is
absent. -/
def sendAll (s : State) (cid : Nat) (c : Cmd) (step : Nat) (parts : List (Nat × Nat)) (ask : Nat → Nat → FabKind) (m : Nat) :
    List Nat → List (Nat × Nat) × State
  | [] => ([], s)
  | v :: t =>
    let die := dieOf c.tags.core
    let epid := fld v 26 10
    let bad := if parts.any (fun p => decide (2 ^ 28 ≤ p.1)) then some 0x32 else if s.routeUp die epid then none else some 0x35
    match bad with
    | some k => let (r, s) := sendAll s cid c step parts ask (m + 1) t; ((m, k) :: r, s)
    | none =>
      let s := (parts.zip (upFrom 0 parts.length)).foldl (fun (s : State) (p : (Nat × Nat) × Nat) =>
        sendReq s die epid { src := s.epid die, entry := BitVec.ofNat 12 (fld v 14 12), key := BitVec.ofNat 14 (fld v 0 14),
                             off := BitVec.ofNat 28 p.1.1, kind := ask p.1.1 p.1.2,
                             tag := fabTag s c.tags.core (cmdLseq s c) epid } (.cmd cid step m p.2)) s
      sendAll s cid c step parts ask (m + 1) t

/-- A member's write of a step has been refused (R421): the earliest step's lowest member counts. -/
def fstmResult (c : Cmd) (step m k : Nat) : Cmd :=
  if k = 0x35 then { c with vals := setAt c.vals 1 (nth 0 c.vals 1 ||| 2 ^ m) }
  else
    let v := 1 + (step * 8 + m) * 256 + k
    { c with vals := setAt c.vals 0 (if nth 0 c.vals 0 = 0 then v else Nat.min v (nth 0 c.vals 0)) }

/-- fstm's next step: one write to every member; at the end the outcome (R421), a failure at the step that was refused (R25). -/
def fstmStep (s : State) (cid : Nat) (c : Cmd) : Eng Unit :=
  let ms := c.vals.drop 2
  let die := dieOf c.tags.core
  match c.data with
  | k :: more =>
    if !cmdFront s c && ms.any (fun v => !s.isKln die (fld v 26 10)) then holdCmd s cid
    else
      let p := nth (0, 0) (cuts (c.f 32 28) (c.f 64 13) 18) k
      let bytes := cmdPad s c (c.f 0 32 + (p.1 - c.f 32 28)) p.2
      let s := if cmdFront s c then s else ms.foldl (fun s v => noteWrote s (cmdLseq s c) die (fld v 26 10)) s
      let (bad, s) := sendAll s cid c k [p] (fun _ _ => .write bytes) 0 ms
      .ok () (nextStep s cid (fun c => { (bad.foldl (fun c b => fstmResult c k b.1 b.2) c) with data := more }))
  | [] =>
    if !(s.cmdOuts cid).isEmpty then .ok () s
    else if nth 0 c.vals 0 ≠ 0 then
      .ok () (failCmd s cid { c with step := (nth 0 c.vals 0 - 1) / 2048 } ((nth 0 c.vals 0 - 1) % 256) 0)
    else if nth 0 c.vals 1 ≠ 0 then .ok () (endCmd s cid 3 (nth 0 c.vals 1))
    else .ok () (endCmd s cid 0 ms.length)

/-- Members of fldr's step refuse or are absent: the first instant at which one does is that at which the step ends (R423). -/
def fldrNote (s : State) (cid : Nat) (bad : List (Nat × Nat)) : State :=
  s.modCmd cid (fun c => { c with bad := if c.bad.all (fun b => b.1 == s.now) then c.bad ++ bad.map (fun b => (s.now, b)) else c.bad })

/-- A fldr step that has ended so: the lowest member that refused at that instant counts, else the absent ones; the requests that it still
awaits are given up. -/
def fldrBad (s : State) (cid : Nat) (c : Cmd) (bad : List (Nat × Nat)) : State :=
  let s := { s with fab := { s.fab with outs := s.fab.outs.filter (fun o => (o.2.stepOf cid).isNone) } }
  match leastBy Prod.fst (bad.filter (fun b => b.2 != 0x35)) with
  | some b => failCmd s cid c b.2 0
  | none => endCmd s cid 3 (c.step % 65536 * 256 + bad.foldl (fun (m : Nat) b => m ||| 2 ^ b.1) 0)

/-- A BF16 element as a binary32 value. -/
def bfWord (v i : Nat) : Word := BitVec.ofNat 32 (fld v (16 * i) 16 * 65536)

/-- NaNs written are 0x7FC0_0000. -/
def quietNan (w : Word) : Word := if 0x7F800000 < fld w.toNat 0 31 then 0x7FC00000 else w

/-- The sums of a step, in member order. -/
def fldrSums (data : List Nat) (n : Nat) : List Byte :=
  (upFrom 0 n).flatMap (fun i => match data with
    | [] => leBytes 4 0
    | v :: t => leBytes 4 (quietNan (t.foldl (fun acc x => fAdd false .rn false acc (bfWord x i)) (bfWord v i))).toNat)

/-- fldr's step: its reads go out; once all are answered, the sums are written. Members absent or refused at the send end the step there: no
response can have come yet. Of later ones, the step ends as soon as the instant has passed at which one first was: no other can refuse at that
instant any more. -/
def fldrStep (s : State) (cid : Nat) (c : Cmd) : Eng Unit :=
  let ms := c.vals.drop 1
  let n := c.f 64 12
  let k := c.step
  if n ≤ 128 * k then .ok () (endCmd s cid 0 ms.length)
  else if !c.bad.isEmpty then (if c.bad.all (fun b => decide (b.1 < s.now)) then .ok () (fldrBad s cid c (c.bad.map Prod.snd)) else .wait s)
  else
    let cnt := Nat.min 128 (n - 128 * k)
    if nth 0 c.vals 0 = 0 then
      let parts := cuts (c.f 32 28 + 256 * k) (2 * cnt) 3
      let (bad, s) := sendAll s cid c k parts (fun _ m => .read m) 0 ms
      let s := s.modCmd cid (fun c => { c with vals := setAt c.vals 0 1, data := ms.map (fun _ => 0) })
      .ok () (if bad.isEmpty then s else fldrBad s cid c bad)
    else if !(s.cmdOuts cid).isEmpty then .ok () s
    else .ok () (nextStep (cmdPadWrite s cid c (c.f 0 32 + 512 * k) (fldrSums c.data cnt)) cid (fun c => { c with vals := setAt c.vals 0 0, data := [] }))

/-- A step of a class 0xB command. -/
def fabricStep (s : State) (cid : Nat) (c : Cmd) : Eng Unit :=
  match c.instr with
  | .fstm _ _ _ => fstmStep s cid c
  | .fldr _ _ _ => fldrStep s cid c
  | .fexpGrant _ _ _ _ => grantStep s cid c
  | .fexpRevoke _ _ _ _ => revokeStep s cid c
  | .fexpGroup _ _ _ _ => groupStep s cid c
  | .fexpQuery _ _ _ _ => queryStep s cid c
  | _ => .ok () s

/-! ### Responses, absences, routes (R407, R415, R417, R425) -/

/-- A lane's latest fabric WCT rises. -/
def raiseFwct (s : State) (tid lid w : Nat) : State := s.modLane tid lid (fun l => { l with fwct := Nat.max l.fwct w })

/-- A lane's access is refused or absent. -/
def fabFailed (s : State) (fid cause : Nat) : State :=
  match Tab.find fid s.flights with
  | none => s
  | some f => postFabric (setStage s fid (.fail cause)) f.tid f.tags.core

/-- A lane's access is answered. -/
def fabAnswered (s : State) (fid : Nat) (bytes : List Byte) (w : Nat) : State :=
  match Tab.find fid s.flights with
  | none => s
  | some f => match f.kind with
    | .fabSt _ => postFabric (landed (raiseFwct s f.tid f.lid w) fid) f.tid f.tags.core
    | .fabRmw => postFabric (setStage (raiseFwct s f.tid f.lid w) fid (.got (BitVec.ofNat 64 (leNat bytes)))) f.tid f.tags.core
    | .fabLd _ => postFabric (setStage s fid (.got (BitVec.ofNat 64 (leNat bytes)))) f.tid f.tags.core
    | _ => s

/-- A part of a command's step is answered. -/
def cmdAnswered (s : State) (cid m part : Nat) (n w : Nat) (bytes : List Byte) : State :=
  match s.cmd cid with
  | none => s
  | some c => match c.instr with
    | .fstm _ _ _ => raiseFwct s c.tid c.lid w
    | .fldr _ _ _ =>
      let at_ := if part = 0 then 0 else (256 - (c.f 32 28 + 256 * c.step) % 256)
      s.modCmd cid (fun c => { c with data := modAt (fun v => v + leNat (bytes.take n) * 2 ^ (8 * at_)) c.data m })
    | _ => s

/-- Parts of a command's step are refused or absent at one instant. -/
def cmdFailed (s : State) (cid : Nat) (bad : List (Nat × Nat × Nat)) : State :=
  match s.cmd cid with
  | none => s
  | some c => match c.instr with
    | .fstm _ _ _ => s.modCmd cid (fun c => bad.foldl (fun c b => fstmResult c b.1 b.2.1 b.2.2) c)
    | .fldr _ _ _ => if c.st == .run then fldrNote s cid (bad.map Prod.snd) else s
    | _ => s

/-- The response to a request that is out reaches it; the request is out no more. -/
def respond (s : State) (n : Nat) (o : FabOut) (r : FabResp) : State :=
  let s := dropOut s n
  match o.owner, r with
  | .lane fid, .done bytes w => fabAnswered s fid bytes w
  | .lane fid, .refused c => fabFailed s fid c
  | .cmd cid _ m part, .done bytes w => match o.req with
    | some q => cmdAnswered s cid m part (fabSize q.kind) w bytes
    | none => s
  | .cmd cid k m _, .refused c => cmdFailed s cid [(k, m, c)]
  | _, _ => s

/-- The causes with which an endpoint refuses a request (R409, R413). -/
def refusalCode (c : Nat) : Bool := (decide (0x30 ≤ c) && decide (c ≤ 0x34)) || (decide (0x41 ≤ c) && decide (c ≤ 0x49))

/-- FABRIC_RESPONSE (R407, R415): within 20,000 ns of the send. A request to a die of this package is performed there at the same instant, and its
response is what that comes to; the response of another endpoint is the event's, and an error response of one has no effect (assumption log
132). -/
def responseEvent (s : State) (n : Nat) (r : FabResp) : State :=
  match Tab.find n s.fab.outs with
  | none => s
  | some o => match o.owner with
    | .fold _ => if r = .foldAck then dropOut s n else s
    | .lane _ | .cmd _ _ _ _ =>
      if o.sent + 20000 < s.now then s
      else match s.ownDie o.die o.epid, o.req with
        | some d, some q =>
          if o.orphan s then dropOut s n
          else if ownHolds s d n o then s
          else match ingress s n d q with
            | .wait t => keepReq t n d q
            | .done r s => respond (unkeep s n) n o r
        | _, _ => match r with
          | .done _ _ => respond s n o r
          | .refused c => if refusalCode c then respond s n o r else s
          | .error | .foldAck => s

def execFabricResponse (req : Nat) (resp : FabResp) (s : State) : Host.Outcome State Fault Refusal := finish (responseEvent s req resp)

/-- Requests are found absent at one instant. -/
def absentAll (s : State) (p : Nat × FabOut → Bool) : State :=
  let gone := s.fab.outs.filter p
  let s := { s with fab := { s.fab with outs := s.fab.outs.filter (fun o => !p o) } }
  let cids := distinct (gone.filterMap (fun o => match o.2.owner with
    | .cmd cid _ _ _ => some cid
    | .lane _ | .fold _ => none))
  let s := cids.foldl (fun s cid => cmdFailed s cid (gone.filterMap (fun o => match o.2.owner with
    | .cmd c k m _ => if c = cid then some (k, m, 0x35) else none
    | .lane _ | .fold _ => none))) s
  gone.foldl (fun s o => match o.2.owner with
    | .lane fid => fabFailed s fid 0x35
    | .cmd _ _ _ _ | .fold _ => s) s

/-- REQUEST_ABSENT (R407): no response within 20,000 ns; requests of one command sent together are absent together. -/
def absentEvent (s : State) (n : Nat) : State :=
  match Tab.find n s.fab.outs with
  | none => s
  | some o =>
    if s.now < o.sent + 20000 then s
    else match o.owner with
      | .lane _ => absentAll s (fun x => x.1 == n)
      | .cmd cid _ _ _ => absentAll s (fun x => (x.2.stepOf cid).isSome && decide (x.2.sent + 20000 ≤ s.now))
      | .fold _ => s

def execRequestAbsent (req : Nat) (s : State) : Host.Outcome State Fault Refusal := finish (absentEvent s req)

/-- PEER_ROUTE_CHANGE (R407, R425): a route that falls makes the requests that commands still await there absent. -/
def routeEvent (s : State) (die epid : Nat) (up kln : Bool) : State :=
  if 1 < die ∨ 1023 < epid then s
  else
    let s := s.modFabDie die (fun d => { d with peers := if up || kln then Tab.put epid (up, kln) d.peers else Tab.del epid d.peers })
    if s.routeUp die epid then s
    else absentAll s (fun o => o.2.die == die && o.2.epid == epid && (match o.2.owner with
      | .cmd _ _ _ _ => true
      | .lane _ | .fold _ => false))

def execPeerRouteChange (die epid : Nat) (up kln : Bool) (s : State) : Host.Outcome State Fault Refusal := finish (routeEvent s die epid up kln)

/-! ### Notices that arrive (R419) -/

/-- FOLD_NOTICE; its acknowledgement is sent. -/
def execFoldNotice (die : Nat) (key : RemoteKey) (s : State) : Host.Outcome State Fault Refusal :=
  finish (if 1 < die then s
    else
      let t := foldRemote s die key.src key.ctx key.lseq
      { t with fab := { t.fab with replies := t.fab.replies ++ [(die, key.src, .foldAck)] } })

/-- DISCARD_NOTICE. -/
def execDiscardNotice (die : Nat) (key : RemoteKey) (s : State) : Host.Outcome State Fault Refusal :=
  finish (dropRemote s die key.src key.ctx key.lseq)

/-- RETAG_NOTICE. -/
def execRetagNotice (die : Nat) (key : RemoteKey) (carbon : Nat) (s : State) : Host.Outcome State Fault Refusal :=
  finish (retagRemote s die key.src key.ctx key.lseq carbon)

end Sys2Proof.Machine
end

