-- ==== Sys2Proof/Machine/HoleEngine.lean ====
section
/-! DEFINITION. HoleEngine.lean: the commands of the pigeonhole engine (R239 to R241, R246). -/

namespace Sys2Proof.Machine

open Sys2Proof

def execPhcfgCreate (g : Guard) (d a b : Code) (s : State) : Host.Outcome State Fault Refusal :=
  finish (runCmd s (.phcfgCreate g d a b) false)
def execPhcfgDestroy (g : Guard) (d a b : Code) (s : State) : Host.Outcome State Fault Refusal :=
  finish (runCmd s (.phcfgDestroy g d a b) false)
def execPhq (g : Guard) (d a b : Code) (s : State) : Host.Outcome State Fault Refusal :=
  finish (runCmd s (.phq g d a b) false)

/-- The parts of a handle (R219). -/
def hScope (h : Word) : Nat := fld h.toNat 30 2
def hNum (h : Word) : Nat := fld h.toNat 0 12

/-- The pigeonhole that a command's handle names, live or not. -/
def cmdHole (s : State) (c : Cmd) : Option Pigeon := s.pigeon (hScope c.b) (handleOwner (hScope c.b) c.tid c.tags.core) (hNum c.b)

/-- The first three checks of R239. -/
def holeChecks (s : State) (c : Cmd) (k : State → Eng Unit) : Eng Unit :=
  if hScope c.b = 3 ∨ fld c.b.toNat 12 18 ≠ 0 ∨ holeNumbers (hScope c.b) ≤ hNum c.b then .fail 0x21 0 s
  else match cmdHole s c with
    | some p => if p.ctx = c.tags.ctx then k s else .fail 0x22 0 s
    | none => k s

/-- A step on a cluster or package pigeonhole waits for the frontier (R246). -/
def holeFront (s : State) (cid : Nat) (c : Cmd) (k : State → Eng Unit) : Eng Unit :=
  if (hScope c.b == 1 || hScope c.b == 2) && !cmdFront s c then holdCmd s cid else k s

/-- phcfg.create (R239). -/
def phcfgMake (s : State) (cid : Nat) (c : Cmd) : Eng Unit :=
  holeFront s cid c (fun s =>
    if c.f 40 472 ≠ 0 then .fail 0x20 0 s
    else holeChecks s c (fun s =>
      let scope := hScope c.b
      let kind := c.f 32 8
      let depth := c.f 0 32
      let p : Pigeon := { scope := scope, owner := handleOwner scope c.tid c.tags.core, num := hNum c.b, ctx := c.tags.ctx, kind := kind, depth := depth }
      if (cmdHole s c).isSome then .fail 0x23 0 s
      else if 2 < kind ∨ depth = 0 ∨ (scope ≤ 1 ∧ 4096 < depth) ∨ (scope = 2 ∧ 4096 < depth * kindWidth kind) then .fail 0x21 0 s
      else if scope = 2 then
        if s.agentRoom (hNum c.b) < holeUnits kind depth then .fail 0x25 0 s
        else .ok () (endCmd { s with pigeons := s.pigeons ++ [p] } cid 0 0)
      else match holeBacking s (clusterOf c.tags.core) kind depth with
        | none => .fail 0x25 0 s
        | some us => .ok () (endCmd { s with pigeons := s.pigeons ++ [{ p with units := us }] } cid 0 0)))

/-- phcfg.destroy (R239). -/
def phcfgEnd (s : State) (cid : Nat) (c : Cmd) : Eng Unit :=
  holeFront s cid c (fun s => holeChecks s c (fun s => match cmdHole s c with
    | none => .fail 0x24 0 s
    | some p =>
      if 0 < p.count ∨ p.spill ≠ [] ∨ 0 < p.resv ∨ !(s.waiting p (fun _ => true)).isEmpty then .ok () (endCmd s cid 1 0)
      else .ok () (endCmd { s with pigeons := s.pigeons.filter (fun q => !q.same p) } cid 0 0)))

/-- The state record of a pigeonhole (R222). -/
def holeRec (s : State) (p : Pigeon) : Nat :=
  let sat := fun (sort : PActKind → Bool) => Nat.min 127 (s.waiting p sort).length
  (recOf [(96, p.headt), (72, p.spill.length % 2 ^ 24), (59, p.count), (46, p.resv), (33, p.depth), (31, p.kind),
    (24, sat (fun k => k.isPush || k.isPut)), (17, sat PActKind.isTake), (10, sat PActKind.isStamp), (9, b2n p.spm)]).toNat

/-- The state record of a point (R232). -/
def pointRec (s : State) (tid num : Nat) (p : Point) : Nat :=
  let w := (s.pacts.filter (fun e => e.2.scope == 3 && e.2.owner == tid && e.2.num == num)).length
  (recOf [(96, p.phase), (64, p.plast), (63, b2n p.pvalid), (47, p.expect), (31, p.dflt), (30, b2n p.once), (14, p.arrived), (7, Nat.min 127 w),
    (6, b2n p.pcur), (0, 1)]).toNat

/-- phq (R240): the record and DETAIL. -/
def phqStep (s : State) (cid : Nat) (c : Cmd) : Eng Unit :=
  let scope := hScope c.b
  let off := c.f 0 32
  if c.f 32 480 ≠ 0 then .fail 0x20 0 s
  else if fld c.b.toNat 12 18 ≠ 0 ∨ (if scope = 3 then 24 else holeNumbers scope) ≤ hNum c.b then .fail 0x21 0 s
  else
    let hole := if scope = 3 then none else cmdHole s c
    if (hole.map (fun p => p.ctx != c.tags.ctx)).getD false then .fail 0x22 0 s
    else if off % 16 ≠ 0 ∨ !padIn (cmdPadb s c) off 16 then .fail 0x26 0 s
    else
      let pt := if scope = 3 then (s.team c.tid).bind (fun t => Tab.find (hNum c.b) t.points) else none
      let r := match hole, pt with
        | some p, _ => (holeRec s p, Nat.min 0xFFFFFF (p.count + p.spill.length))
        | none, some p => (pointRec s c.tid (hNum c.b) p, p.arrived)
        | none, none => (if scope = 3 then 0 else 3 * 2 ^ 31, 0)
      .ok () (endCmd (cmdPadWrite s cid c off (leBytes 16 r.1)) cid 0 r.2)

/-- A step of a class 0x5 command. -/
def holeStep (s : State) (cid : Nat) (c : Cmd) : Eng Unit :=
  match c.instr with
  | .phcfgCreate _ _ _ _ => phcfgMake s cid c
  | .phcfgDestroy _ _ _ _ => phcfgEnd s cid c
  | .phq _ _ _ _ => phqStep s cid c
  | _ => .ok () s

end Sys2Proof.Machine
end

