-- ==== Sys2Proof/Machine/Matrix.lean ====
section
/-! DEFINITION. Matrix.lean: the matrix engine (R286 to R309): the meanings of class 0x7 and its checks and steps. -/

namespace Sys2Proof.Machine

open Sys2Proof

/-! ### The words (R292) -/

def execMmul (g : Guard) (scb sca acc : Bool) (d a : Code) (s : State) : Host.Outcome State Fault Refusal :=
  finish (runCmd s (.mmul g scb sca acc d a) false)
def execBfill (g : Guard) (tr sp : Bool) (d a : Code) (s : State) : Host.Outcome State Fault Refusal :=
  finish (runCmd s (.bfill g tr sp d a) false)
def execAzero (g : Guard) (d a : Code) (s : State) : Host.Outcome State Fault Refusal := finish (runCmd s (.azero g d a) false)
def execAread (g : Guard) (scl dp sat : Bool) (rm : RMode) (d a : Code) (s : State) : Host.Outcome State Fault Refusal :=
  finish (runCmd s (.aread g scl dp sat rm d a) false)
def execAepi (g : Guard) (resc exp : Bool) (d a : Code) (s : State) : Host.Outcome State Fault Refusal :=
  finish (runCmd s (.aepi g resc exp d a) false)
def execRqt (g : Guard) (bd : Bool) (d a : Code) (s : State) : Host.Outcome State Fault Refusal := finish (runCmd s (.rqt g bd d a) false)
def execMattn (g : Guard) (scb sca acc : Bool) (d a : Code) (s : State) : Host.Outcome State Fault Refusal :=
  finish (runCmd s (.mattn g scb sca acc d a) false)
def execAalloc (g : Guard) (d a b : Code) (s : State) : Host.Outcome State Fault Refusal := finish (runCmd s (.aalloc g d a b) false)
def execMstat (g : Guard) (d a : Code) (s : State) : Host.Outcome State Fault Refusal := finish (runCmd s (.mstat g d a) false)

/-! ### Formats and elements (R105 to R108, R287) -/

/-- The width class of an operand format. -/
def opWidth (f : Nat) : Nat := nth 0 [8, 8, 8, 8, 4, 16, 16, 8, 4] f
/-- The float format of codes 0 to 6. -/
def opFmt (f : Nat) : FFmt := nth e4m3 [e4m3, e5m2, e3m2, e2m3, e2m1, bf16, f16] f
/-- Elements along K that a column consumes in a cycle. -/
def opRate (f : Nat) : Nat := 2048 / opWidth f
def opInt (f : Nat) : Bool := f == 7 || f == 8
/-- Bytes of `n` elements of a width. -/
def elemBytes (w n : Nat) : Nat := (n * w + 7) / 8

def halves : List Byte → List Nat
  | a :: b :: t => (a.toNat + 256 * b.toNat) :: halves t
  | [a] => [a.toNat]
  | [] => []
def nibbles (bs : List Byte) : List Nat := bs.flatMap (fun b => [b.toNat % 16, b.toNat / 16])

/-- The first `n` elements of a width in some bytes (R108). -/
def elemsOf (w n : Nat) (bs : List Byte) : List Nat :=
  (if w = 16 then halves bs else if w = 4 then nibbles bs else bs.map BitVec.toNat).take n

/-- Pairs of nibbles as bytes; a last one alone leaves the high nibble 0. -/
def packNibbles : List Nat → List Byte
  | a :: b :: t => BitVec.ofNat 8 (a % 16 + 16 * b) :: packNibbles t
  | [a] => [BitVec.ofNat 8 (a % 16)]
  | [] => []

/-- Elements of a width in bytes: 4, 8, 16 or 32 bits (R108). -/
def packElems (w : Nat) (xs : List Nat) : List Byte := if w = 4 then packNibbles xs else xs.flatMap (leBytes (w / 8))

/-- The value of an E8M0 scale applied (R106). -/
def scaleBy (sc : Nat) (x : FX) : FX := if sc = 255 then .nan else fxScale ((sc : Int) - 127) x

/-- Values of elements, element 0 standing at the start of a block of 32, with its blocks' scales if there are any. -/
def valuesOf (f : Nat) (scales : Option (List Nat)) (es : List Nat) : List FX :=
  match scales with
  | none => es.map (opFmt f).read
  | some ss => (es.zip (upFrom 0 es.length)).map (fun e => scaleBy (nth 255 ss (e.2 / 32)) ((opFmt f).read e.1))

/-! ### The exact block sum (R116, R117) -/

/-- The exact sum of a block's products: −0 if every product is −0. -/
def blockSum (as bs : List FX) : FX := (as.zip bs).foldl (fun acc e => fxAdd .rn acc (fxMul e.1 e.2)) (.fin true 0 0 false)

/-- Blocks of 32 accumulated, each with one rounding, for at most `n` blocks. -/
def dotBlocks (acc : Nat) (as bs : List FX) : Nat → Nat
  | 0 => acc
  | n + 1 => if as.isEmpty then acc
    else dotBlocks (f32.put .rn false (fxAdd .rn (f32.read acc) (blockSum (as.take 32) (bs.take 32)))) (as.drop 32) (bs.drop 32) n

/-- The accumulator after float products (R116). -/
def dotFloat (acc : Nat) (as bs : List FX) : Nat := dotBlocks acc as bs (as.length / 32 + 1)

/-- The accumulator after integer products (R117). -/
def dotInt (w acc : Nat) (as bs : List Nat) : Nat :=
  wrap 32 ((as.zip bs).foldl (fun (t : Int) e => t + sx w e.1 * sx w e.2) (acc : Int))

/-! ### The team's allocation (R289, R290) -/

def cmdTeam (s : State) (c : Cmd) : Team := (s.team c.tid).getD { lseq := 0, tlin := 0, loc := .saved }
def State.modAcc (s : State) (tid : Nat) (f : AccStore → AccStore) : State := s.modTeam tid (fun t => { t with acc := f t.acc })

/-- The accumulator word of a team's row and an array column. -/
def AccStore.word (x : AccStore) (row col : Nat) : Nat := (Tab.get 0 (256 * row + col) x.rows).toNat
def AccStore.setWord (x : AccStore) (row col v : Nat) : AccStore :=
  { x with rows := if v % 2 ^ 32 = 0 then Tab.del (256 * row + col) x.rows else Tab.put (256 * row + col) (BitVec.ofNat 32 v) x.rows }
/-- Words of a row from a column on. -/
def AccStore.setRow (x : AccStore) (row col : Nat) : List Nat → AccStore
  | [] => x
  | v :: t => AccStore.setRow (x.setWord row col v) row (col + 1) t
/-- Bytes of a column slice. -/
def AccStore.slice (x : AccStore) (col off n : Nat) : List Byte := Mem.read x.slices (65536 * col + off) n
def AccStore.setSlice (x : AccStore) (col off : Nat) (bs : List Byte) : AccStore := { x with slices := Mem.write x.slices (65536 * col + off) bs }

/-- Rows and B-slice bytes within a team's allocation. -/
def rowsIn (t : Team) (row n : Nat) : Bool := decide (row + n ≤ 32 * t.acc.runits)
def sliceIn (t : Team) (off n : Nat) : Bool := n == 0 || decide (off + n ≤ 1024 * t.acc.bunits)

/-- Units of rows and of B slice in use on a core. -/
def State.unitsOn (s : State) (core : Nat) : Nat × Nat :=
  (sumOf ((s.slotsOf core).map (fun e => e.2.acc.runits)), sumOf ((s.slotsOf core).map (fun e => e.2.acc.bunits)))

/-- aalloc (R290). -/
def allocStep (s : State) (cid : Nat) (c : Cmd) : Eng Unit :=
  let b := c.b.toNat
  let ru := fld b 0 9
  let bu := fld b 16 7
  let mine := ((cmdTeam s c).place.map Prod.snd).getD 16
  let others := (s.slotsOf c.tags.core).filter (fun e => e.1 != mine)
  if fld b 9 7 ≠ 0 ∨ fld b 23 9 ≠ 0 then .fail 0x20 0 s
  else if 256 < ru ∨ 64 < bu then .fail 0x21 0 s
  else match placeRun 256 ru (others.map (fun e => (e.2.acc.rowAt, e.2.acc.runits))) [] (fun _ => true),
      placeRun 64 bu (others.map (fun e => (e.2.acc.bAt, e.2.acc.bunits))) [] (fun _ => true) with
    | some r, some k =>
      let s := s.modAcc c.tid (fun _ => ⟨ru, bu, r, k, [], []⟩)
      let u := s.unitsOn c.tags.core
      .ok () (endCmd s cid 0 ((256 - u.1) + (64 - u.2) * 2 ^ 16))
    | _, _ => .fail 0x27 0 s

/-! ### Ranges -/

/-- Rows of `len` bytes at a stride in the team's pad, each row's offset a multiple of `al`. -/
def padRows (padb off stride len count al : Nat) : Bool :=
  padIn padb off (if count = 0 ∨ len = 0 then 0 else (count - 1) * stride + len) && off % al == 0 && (count ≤ 1 || stride % al == 0)

/-- Rows at a stride from a pointer on run past the last address. -/
def pastEnd (ptr stride len count : Nat) : Bool :=
  !(count == 0 || len == 0) && decide (2 ^ 56 < fld ptr 0 56 + (count - 1) * stride + len)

/-- A step is done: the next one, or the end if it was the last of `count`. -/
def stepDone (s : State) (cid : Nat) (c : Cmd) (count : Nat) : State :=
  if c.step + 1 < count then nextStep s cid id else endCmd s cid 0 0

/-! ### Products (R298 to R300) -/

def Cmd.mxK (c : Cmd) : Nat := c.f 192 32
def Cmd.mxM (c : Cmd) : Nat := c.f 224 16
def Cmd.mxRow (c : Cmd) : Nat := c.f 240 16
def Cmd.mxCol (c : Cmd) : Nat := c.f 256 8
def Cmd.mxN (c : Cmd) : Nat := c.f 264 8 + 1
def Cmd.mxA (c : Cmd) : Nat := c.f 272 4
def Cmd.mxB (c : Cmd) : Nat := c.f 276 4
def Cmd.mxQ (c : Cmd) : Nat := c.f 296 8
def Cmd.mxKn (c : Cmd) : Nat := c.f 304 8
def Cmd.mxTree (c : Cmd) : Nat := c.f 312 8

/-- The checks of a product (R298): the cause of the first that fails. -/
def productCheck (t : Team) (attn sca scb : Bool) (c : Cmd) : Option Nat :=
  let k := c.mxK
  let m := c.mxM
  let sc := ceilDiv k 32
  if (if attn then c.f 320 192 ≠ 0 ∨ c.f 292 4 ≠ 0 ∨ c.f 280 8 ≠ 0 else c.f 280 232 ≠ 0) then some 0x20
  else if 8 < c.mxA ∨ 8 < c.mxB ∨ opWidth c.mxA ≠ opWidth c.mxB ∨ opInt c.mxA ≠ opInt c.mxB ∨ (sca ∧ 4 < c.mxA) ∨ (scb ∧ 4 < c.mxB)
      ∨ (attn ∧ opInt c.mxA) then some 0x24
  else if m = 0 ∨ 8192 < m ∨ k = 0 ∨ 256 < c.mxCol + c.mxN
      ∨ (attn ∧ (256 < c.mxQ + m ∨ c.mxN < c.mxTree ∨ (c.mxTree < c.mxN ∧ 256 < c.mxKn + (c.mxN - c.mxTree)))) then some 0x21
  else if !rowsIn t c.mxRow m then some 0x25
  else if !sliceIn t (c.f 128 32) (elemBytes (opWidth c.mxB) k) || (scb && !sliceIn t (c.f 160 32) sc) then some 0x26
  else
    let al := if opWidth c.mxA = 16 then 2 else 1
    if !padRows t.padb (c.f 0 32) (c.f 32 32) (elemBytes (opWidth c.mxA) k) m al || c.f 32 32 % al ≠ 0
      || (sca && !padRows t.padb (c.f 64 32) (c.f 96 32) sc m 1) then some 0x22
    else none

/-- Node i and its ancestors in a tree of given parents (R374, R375). -/
def treeChain (ps : List Nat) : Nat → Nat → List Nat
  | 0, _ => []
  | n + 1, i => if i < ps.length then i :: (if nth 255 ps i = 255 then [] else treeChain ps n (nth 255 ps i)) else []

/-- Bit j of row i of an ancestor mask. -/
def maskBit (ps : List Nat) (i j : Nat) : Bool := (treeChain ps 256 i).contains j

/-- Whether a column of a row of mattn is visible (R300); the parents of the tree are those taken at acceptance. -/
def attnSees (c : Cmd) (m n : Nat) : Bool :=
  decide (n < c.mxTree) || maskBit c.data (c.mxQ + m) (c.mxKn + (n - c.mxTree))

/-- One row and K segment of a product (R296, R299, R300). -/
def productStep (s : State) (cid : Nat) (c : Cmd) (attn sca scb acc : Bool) : Eng Unit :=
  let t := cmdTeam s c
  let segs := ceilDiv c.mxK 8192
  let m := c.step / segs
  let g := c.step % segs
  let n := Nat.min 8192 (c.mxK - 8192 * g)
  let wd := opWidth c.mxA
  let off := 8192 * g * wd / 8
  let as := elemsOf wd n (cmdPad s c (c.f 0 32 + m * c.f 32 32 + off) (elemBytes wd n))
  let asc := if sca then some ((cmdPad s c (c.f 64 32 + m * c.f 96 32 + 256 * g) (ceilDiv n 32)).map BitVec.toNat) else none
  let av := valuesOf c.mxA asc as
  let row := c.mxRow + m
  let res := (upFrom 0 c.mxN).map (fun j =>
    let col := c.mxCol + j
    let old := if g = 0 && !acc then 0 else t.acc.word row col
    let bs := elemsOf wd n (t.acc.slice col (c.f 128 32 + off) (elemBytes wd n))
    let bsc := if scb then some ((t.acc.slice col (c.f 160 32 + 256 * g) (ceilDiv n 32)).map BitVec.toNat) else none
    if attn && g + 1 == segs && !attnSees c m j then 0xFF800000
    else if opInt c.mxA then dotInt wd old as bs
    else dotFloat old av (valuesOf c.mxB bsc bs))
  let s := s.modAcc c.tid (fun x => x.setRow row c.mxCol res)
  let s := s.modCore c.tags.core (fun x => { x with array := (x.array + ceilDiv n (opRate c.mxA)) % 2 ^ 64 })
  .ok () (stepDone s cid c (c.mxM * segs))

/-! ### bfill and azero (R301, R302) -/

def bfillWidth (c : Cmd) : Nat := nth 0 [4, 8, 16] (c.f 176 2)

/-- Steps, and bytes of the source that each reads. -/
def bfillRows (tr : Bool) (c : Cmd) : Nat × Nat :=
  if tr then (c.f 128 32, elemBytes (bfillWidth c) (c.f 168 8 + 1)) else (c.f 168 8 + 1, c.f 128 32)

def bfillCheck (t : Team) (tr sp : Bool) (c : Cmd) : Option Nat :=
  let r := bfillRows tr c
  if c.f 178 334 ≠ 0 ∨ (!tr ∧ c.f 176 2 ≠ 0) ∨ (sp ∧ c.f 32 32 ≠ 0) then some 0x20
  else if c.f 176 2 = 3 ∨ 255 < c.f 160 8 + c.f 168 8 then some 0x21
  else if !sliceIn t (c.f 96 32) (if tr then elemBytes (bfillWidth c) (c.f 128 32) else c.f 128 32) then some 0x26
  else if sp && !padRows t.padb (c.f 0 32) (c.f 64 32) r.2 r.1 1 then some 0x22
  else if !sp && pastEnd (c.f 0 64) (c.f 64 32) r.2 r.1 then some 0x23
  else none

/-- Element k of a width put into a column slice; a last nibble of an odd count leaves the high nibble 0 (R301). -/
def putElem (x : AccStore) (w col off k v : Nat) (last : Bool) : AccStore :=
  if w = 4 then
    let o := off + k / 2
    let old := leNat (x.slice col o 1)
    x.setSlice col o [BitVec.ofNat 8 (if k % 2 = 1 then old % 16 + 16 * v else (if last then 0 else old / 16 * 16) + v)]
  else x.setSlice col (off + k * (w / 8)) (leBytes (w / 8) v)

def bfillStep (s : State) (cid : Nat) (c : Cmd) (tr sp : Bool) : Eng Unit :=
  let r := bfillRows tr c
  if r.1 ≤ c.step then .ok () (endCmd s cid 0 0)
  else
    let src := if sp then Eng.ok (cmdPad s c (c.f 0 32 + c.step * c.f 64 32) r.2) s
      else cmdRead s cid c (ptrOn (c.f 0 64) (c.step * c.f 64 32)) r.2
    src.bind (fun bs s =>
      let put := fun (x : AccStore) =>
        if tr then
          let es := elemsOf (bfillWidth c) (c.f 168 8 + 1) bs
          (es.zip (upFrom 0 es.length)).foldl (fun x e =>
            putElem x (bfillWidth c) (c.f 160 8 + e.2) (c.f 96 32) c.step e.1 (c.step + 1 == r.1)) x
        else x.setSlice (c.f 160 8 + c.step) (c.f 96 32) bs
      .ok () (stepDone (s.modAcc c.tid put) cid c r.1))

def azeroCheck (t : Team) (c : Cmd) : Option Nat :=
  if c.f 32 480 ≠ 0 then some 0x20
  else if c.f 16 16 = 0 then some 0x21
  else if !rowsIn t (c.f 0 16) (c.f 16 16) then some 0x25
  else none

def azeroStep (s : State) (cid : Nat) (c : Cmd) : Eng Unit :=
  .ok () (stepDone (s.modAcc c.tid (fun x => x.setRow (c.f 0 16 + c.step) 0 (List.replicate 256 0))) cid c (c.f 16 16))

/-! ### The requantiser's rule (R307) -/

/-- The exponent of the largest finite value of codes 0 to 4. -/
def fmtEmax (f : Nat) : Nat := nth 2 [8, 15, 4, 2, 2] f

def fxMagnitude : FX → Option Int
  | .fin _ m e _ => if m = 0 then none else some (e + Nat.log2 m)
  | .inf _ | .nan => none
def fxFinite : FX → Bool
  | .fin _ _ _ _ => true
  | .inf _ | .nan => false
def fxNegative : FX → Bool
  | .fin a _ _ _ => a
  | .inf a => a
  | .nan => false

/-- floor(log2) of the largest magnitude of some values; none if all are zero. -/
def maxLog : List FX → Option Int
  | [] => none
  | x :: t => match fxMagnitude x, maxLog t with
    | none, r => r
    | some a, none => some a
    | some a, some b => some (max a b)

/-- The scale and the element codes of a block of 32 values (R307). -/
def quantBlock (f : Nat) (xs : List FX) : Nat × List Nat :=
  if !xs.all fxFinite then (255, xs.map (fun _ => 0))
  else match maxLog xs with
    | none => (0, xs.map (fun x => (opFmt f).sign (fxNegative x)))
    | some l =>
      let code : Nat := (min 254 (max 0 (l - (fmtEmax f : Nat) + 127))).toNat
      (code, xs.map (fun x => (opFmt f).pack true (fxScale (127 - (code : Int)) x)))

/-- Blocks of 32 values of a row. -/
def blocksOf32 (xs : List FX) : Nat → List (List FX)
  | 0 => []
  | n + 1 => xs.take 32 :: blocksOf32 (xs.drop 32) n

/-- A row requantised: the bytes of its scales and of its elements. -/
def quantRow (f : Nat) (xs : List FX) : List Byte × List Byte :=
  let bs := (blocksOf32 xs (xs.length / 32)).map (quantBlock f)
  (bs.map (fun b => BitVec.ofNat 8 b.1), packElems (opWidth f) (bs.flatMap Prod.snd))

/-! ### aread (R303) -/

def areadFmt (c : Cmd) : Nat := c.f 144 4
/-- The operand format code of OFMT 3 to 7. -/
def areadCode (o : Nat) : Nat := o - 3
/-- The width of a result element. -/
def areadWidth (o : Nat) : Nat := nth 8 [32, 16, 16, 8, 8, 8, 8, 4, 32, 8] o

def areadCheck (t : Team) (scl dp : Bool) (rm : RMode) (c : Cmd) : Option Nat :=
  let o := areadFmt c
  let n := c.f 136 8 + 1
  let m := c.f 112 16
  let al := if areadWidth o = 4 then 1 else areadWidth o / 8
  if c.f 288 224 ≠ 0 ∨ c.f 148 12 ≠ 0 ∨ (!scl ∧ (c.f 192 64 ≠ 0 ∨ c.f 256 32 ≠ 0)) then some 0x20
  else if 9 < o ∨ (scl ∧ (o < 3 ∨ 7 < o)) ∨ (!scl ∧ 5 ≤ o ∧ o ≤ 7) ∨ (rm ≠ .rn ∧ 3 ≤ o) then some 0x24
  else if m = 0 ∨ 8192 < m ∨ 256 < c.f 128 8 + n ∨ (scl ∧ n % 32 ≠ 0) then some 0x21
  else if !rowsIn t (c.f 96 16) m then some 0x25
  else if dp && !(padRows t.padb (c.f 0 32) (c.f 64 32) (elemBytes (areadWidth o) n) m al
      && (!scl || padRows t.padb (c.f 192 32) (c.f 256 32) (n / 32) m 1)) then some 0x22
  else if !dp && (pastEnd (c.f 0 64) (c.f 64 32) (elemBytes (areadWidth o) n) m || (scl && pastEnd (c.f 192 64) (c.f 256 32) (n / 32) m)) then some 0x23
  else if !dp && c.f 0 56 % al ≠ 0 then some 0x28
  else none

/-- One result element without block scales. -/
def areadElem (o : Nat) (rm : RMode) (sat : Bool) (scale wd : Nat) : Nat :=
  let x := fxMul (f32.read wd) (f32.read scale)
  match o with
  | 0 => f32.put rm sat x
  | 1 => bf16.put rm sat x
  | 2 => f16.put rm sat x
  | 3 => e4m3.pack sat x
  | 4 => e5m2.pack sat x
  | 9 => wrap 8 (toInt .rn (-128) 127 (fxMul (fxInt false (sx 32 wd) 0) (f32.read scale)))
  | _ => wd

/-- The bytes of a row's results, and of its scales. -/
def areadRow (t : Team) (scl sat : Bool) (rm : RMode) (c : Cmd) (m : Nat) : List Byte × List Byte :=
  let o := areadFmt c
  let ws := (upFrom (c.f 128 8) (c.f 136 8 + 1)).map (fun col => t.acc.word (c.f 96 16 + m) col)
  if scl then
    let q := quantRow (areadCode o) (ws.map (fun w => fxMul (f32.read w) (f32.read (c.f 160 32))))
    (q.2, q.1)
  else (packElems (areadWidth o) (ws.map (areadElem o rm sat (c.f 160 32))), [])

def areadStep (s : State) (cid : Nat) (c : Cmd) (scl dp sat : Bool) (rm : RMode) : Eng Unit :=
  let m := c.step
  let r := areadRow (cmdTeam s c) scl sat rm c m
  if dp then
    let s := cmdPadWrite s cid c (c.f 0 32 + m * c.f 64 32) r.1
    let s := if scl then cmdPadWrite s cid c (c.f 192 32 + m * c.f 256 32) r.2 else s
    .ok () (stepDone s cid c (c.f 112 16))
  else (cmdWriteMany s cid c ((ptrOn (c.f 0 64) (m * c.f 64 32), r.1)
      :: (if scl then [(ptrOn (c.f 192 64) (m * c.f 256 32), r.2)] else []))).bind (fun _ s => .ok () (stepDone s cid c (c.f 112 16)))

/-! ### aepi (R304) -/

def epiFmt (p : Nat) : FFmt := nth f32 [f32, bf16, f16, e4m3, e5m2] p
def epiWidth (p : Nat) : Nat := nth 32 [32, 16, 16, 8, 8] p

def epiCheck (t : Team) (resc exp : Bool) (c : Cmd) : Option Nat :=
  let p := c.f 144 4
  let n := c.f 136 8 + 1
  let m := c.f 112 16
  if c.f 256 256 ≠ 0 ∨ c.f 192 48 ≠ 0 ∨ c.f 148 12 ≠ 0 ∨ (!resc ∧ c.f 240 16 ≠ 0) then some 0x20
  else if 4 < p ∨ (!exp ∧ p ≠ 0) then some 0x24
  else if m = 0 ∨ 8192 < m ∨ 256 < c.f 128 8 + n then some 0x21
  else if !rowsIn t (c.f 96 16) m || (resc && !rowsIn t (c.f 240 16) m) then some 0x25
  else if !padRows t.padb (c.f 0 32) (c.f 32 32) (n * (epiWidth p / 8)) m (epiWidth p / 8)
      || !padRows t.padb (c.f 64 32) 16 16 m 16 then some 0x22
  else none

/-- A rounded binary32 product and difference of codes. -/
def mul32 (a b : Nat) : Nat := f32.put .rn false (fxMul (f32.read a) (f32.read b))
def sub32 (a b : Nat) : Nat := f32.put .rn false (fxAdd .rn (f32.read a) (fxNeg (f32.read b)))
def nan32 (a : Nat) : Bool := isNan32 (BitVec.ofNat 32 a)
def max32 (a b : Nat) : Nat := (fMinMax true false true (BitVec.ofNat 32 a) (BitVec.ofNat 32 b)).toNat
def ex2 (a : Nat) : Nat := (fEx2 false .rn false (BitVec.ofNat 32 a)).toNat

/-- One row of the running softmax: (m, s, alpha) and the weights' codes. -/
def epiRow (exp : Bool) (p mo so : Nat) (xs : List Nat) : Nat × Nat × Nat × List Nat :=
  let f := epiFmt p
  let mn := xs.foldl max32 mo
  if nan32 mo || xs.any nan32 then (f32.nan, f32.nan, f32.nan, xs.map (fun _ => f.nan))
  else if mn = 0xFF800000 then (mn, so, 0x3F800000, xs.map (fun _ => if exp then 0 else 0xFF800000))
  else
    let alpha := if fxCmp (f32.read mo) (f32.read mn) == some 0 then 0x3F800000 else ex2 (sub32 mo mn)
    if exp then
      let q := xs.map (fun x => f.pack true (f32.read (ex2 (sub32 x mn))))
      (mn, f32.put .rn false (q.foldl (fun a y => fxAdd .rn a (f.read y)) (fxMul (f32.read so) (f32.read alpha))), alpha, q)
    else (mn, so, alpha, xs.map (fun x => sub32 x mn))

def epiStep (s : State) (cid : Nat) (c : Cmd) (resc exp : Bool) : Eng Unit :=
  let m := c.step
  let t := cmdTeam s c
  let st := cmdPad s c (c.f 64 32 + 16 * m) 8
  let xs := (upFrom (c.f 128 8) (c.f 136 8 + 1)).map (fun col => mul32 (t.acc.word (c.f 96 16 + m) col) (c.f 160 32))
  let r := epiRow exp (c.f 144 4) (leNat (st.take 4)) (leNat (st.drop 4)) xs
  let s := cmdPadWrite s cid c (c.f 64 32 + 16 * m) (leBytes 4 r.1 ++ leBytes 4 r.2.1 ++ leBytes 4 r.2.2.1 ++ leBytes 4 0)
  let s := cmdPadWrite s cid c (c.f 0 32 + m * c.f 32 32) (packElems (epiWidth (c.f 144 4)) r.2.2.2)
  let s := if resc then s.modAcc c.tid (fun x => x.setRow (c.f 240 16 + m) 0
      ((upFrom 0 256).map (fun col => mul32 (t.acc.word (c.f 240 16 + m) col) r.2.2.1))) else s
  .ok () (stepDone s cid c (c.f 112 16))

/-! ### rqt (R306, R307) -/

def Cmd.rqRows (c : Cmd) : Nat := c.f 256 16
def Cmd.rqCols (c : Cmd) : Nat := c.f 272 16
def Cmd.rqSrc (c : Cmd) : Nat := c.f 288 4
def Cmd.rqDst (c : Cmd) : Nat := c.f 292 4

def rqtCheck (t : Team) (bd : Bool) (c : Cmd) : Option Nat :=
  let bad := fun (n : Nat) => n < 32 ∨ 4096 < n ∨ n % 32 ≠ 0
  let db := elemBytes (opWidth c.rqDst) c.rqRows
  if c.f 304 208 ≠ 0 ∨ (bd ∧ (c.f 224 32 ≠ 0 ∨ c.f 160 32 ≠ 0)) ∨ (!bd ∧ c.f 296 8 ≠ 0) then some 0x20
  else if 4 < c.rqSrc ∨ 4 < c.rqDst then some 0x24
  else if bad c.rqRows ∨ bad c.rqCols ∨ (bd ∧ 256 < c.f 296 8 + c.rqCols) then some 0x21
  else if bd && !(sliceIn t (c.f 128 32) db && sliceIn t (c.f 192 32) (c.rqRows / 32)) then some 0x26
  else if !padRows t.padb (c.f 0 32) (c.f 32 32) (elemBytes (opWidth c.rqSrc) c.rqCols) c.rqRows 1
      || !padRows t.padb (c.f 64 32) (c.f 96 32) (c.rqCols / 32) c.rqRows 1
      || (!bd && !(padRows t.padb (c.f 128 32) (c.f 160 32) db c.rqCols 1 && padRows t.padb (c.f 192 32) (c.f 224 32) (c.rqRows / 32) c.rqCols 1))
    then some 0x22
  else none

/-- Element `col` of source row i with its scale. -/
def rqtValue (s : State) (c : Cmd) (col i : Nat) : FX :=
  let w := opWidth c.rqSrc
  let e := nth 0 (elemsOf w 2 (cmdPad s c (c.f 0 32 + i * c.f 32 32 + col * w / 8) 1)) (if w = 4 then col % 2 else 0)
  scaleBy (leNat (cmdPad s c (c.f 64 32 + i * c.f 96 32 + col / 32) 1)) ((opFmt c.rqSrc).read e)

def rqtStep (s : State) (cid : Nat) (c : Cmd) (bd : Bool) : Eng Unit :=
  let k := c.step
  let q := quantRow c.rqDst ((upFrom 0 c.rqRows).map (rqtValue s c k))
  let s := if bd then s.modAcc c.tid (fun x => (x.setSlice (c.f 296 8 + k) (c.f 128 32) q.2).setSlice (c.f 296 8 + k) (c.f 192 32) q.1)
    else cmdPadWrite (cmdPadWrite s cid c (c.f 128 32 + k * c.f 160 32) q.2) cid c (c.f 192 32 + k * c.f 224 32) q.1
  .ok () (stepDone s cid c c.rqCols)

/-! ### mstat (R308) -/

/-- mstat. The reserved bits are checked before the offset (assumption log 129). -/
def mstatStep (s : State) (cid : Nat) (c : Cmd) : Eng Unit :=
  let t := cmdTeam s c
  let off := c.f 0 32
  if c.f 32 480 ≠ 0 then .fail 0x20 0 s
  else if off % 32 ≠ 0 ∨ !padIn t.padb off 32 then .fail 0x22 0 s
  else
    let u := s.unitsOn c.tags.core
    let pend := s.accepted (fun x => x.cls == 7 && x.tags.core == c.tags.core) - 1
    let r := recOf [(192, (s.core c.tags.core).array), (176, pend), (167, 256 - u.1), (160, 64 - u.2), (151, t.acc.runits),
      (144, t.acc.bunits), (128, 32 * t.acc.rowAt)]
    .ok () (endCmd (cmdPadWrite s cid c off (leBytes 32 r.toNat)) cid 0 0)

/-! ### Acceptance, order and steps (R294 to R296) -/

/-- mattn takes the mask of its slot at acceptance: the parents of the tree, none for a slot that its team does not hold (R300, R375). -/
def matrixAccept (s : State) (cid : Nat) (c : Cmd) : State :=
  match c.instr with
  | .mattn _ _ _ _ _ _ => s.modCmd cid (fun x => { x with data :=
      ((Tab.find (c.f 288 4) (cmdTeam s c).trees).map (fun (t : Tree) => t.nodes.map TNode.parent)).getD [] })
  | _ => s

/-- A command whose turn has come on its core: no command accepted earlier still runs there, or has left a part of a step to be performed
(R294). -/
def State.coreTurn (s : State) (cid : Nat) (c : Cmd) : Bool :=
  s.cmds.all (fun e => !(e.1 != cid && e.2.cls == c.cls && e.2.tags.core == c.tags.core && ((e.2.st == .run && !e.2.suspended) || !e.2.late.isEmpty)
    && decide (e.2.accepted < c.accepted)))

/-- The checks of a matrix command, made before step 0 when its turn has come. -/
def matrixCheck (s : State) (c : Cmd) : Option Nat :=
  let t := cmdTeam s c
  match c.instr with
  | .mmul _ scb sca _ _ _ => productCheck t false sca scb c
  | .mattn _ scb sca _ _ _ => productCheck t true sca scb c
  | .bfill _ tr sp _ _ => bfillCheck t tr sp c
  | .azero _ _ _ => azeroCheck t c
  | .aread _ scl dp _ rm _ _ => areadCheck t scl dp rm c
  | .aepi _ resc exp _ _ => epiCheck t resc exp c
  | .rqt _ bd _ _ => rqtCheck t bd c
  | _ => none

/-- A step of a matrix command. -/
def matrixStep (s : State) (cid : Nat) (c : Cmd) : Eng Unit :=
  if !s.coreTurn cid c then .wait s
  else match if c.step = 0 then matrixCheck s c else none with
    | some cause => .fail cause 0 s
    | none => match c.instr with
      | .mmul _ scb sca acc _ _ => productStep s cid c false sca scb acc
      | .mattn _ scb sca acc _ _ => productStep s cid c true sca scb acc
      | .bfill _ tr sp _ _ => bfillStep s cid c tr sp
      | .azero _ _ _ => azeroStep s cid c
      | .aread _ scl dp sat rm _ _ => areadStep s cid c scl dp sat rm
      | .aepi _ resc exp _ _ => epiStep s cid c resc exp
      | .rqt _ bd _ _ => rqtStep s cid c bd
      | .aalloc _ _ _ _ => allocStep s cid c
      | .mstat _ _ _ => mstatStep s cid c
      | _ => .ok () s

end Sys2Proof.Machine
end

