-- ==== Sys2Proof/Machine/Copy.lean ====
section
/-! DEFINITION. Copy.lean: the copy engine (R194 to R217): the meanings of class 0x4 and its checks and steps. -/

namespace Sys2Proof.Machine

open Sys2Proof

/-! ### The words (R195) -/

def execCopy (g : Guard) (stream sig dp sp : Bool) (d a : Code) (s : State) : Host.Outcome State Fault Refusal :=
  finish (runCmd s (.copy g stream sig dp sp d a) false)
def execFill (g : Guard) (stream sig dp : Bool) (d a b : Code) (s : State) : Host.Outcome State Fault Refusal :=
  finish (runCmd s (.fill g stream sig dp d a b) false)
def execGath (g : Guard) (stream sig dp sp : Bool) (d a : Code) (s : State) : Host.Outcome State Fault Refusal :=
  finish (runCmd s (.gath g stream sig dp sp d a) false)
def execScat (g : Guard) (stream sig dp sp : Bool) (d a : Code) (s : State) : Host.Outcome State Fault Refusal :=
  finish (runCmd s (.scat g stream sig dp sp d a) false)
def execCopy2d (g : Guard) (stream sig dp sp : Bool) (d a : Code) (s : State) : Host.Outcome State Fault Refusal :=
  finish (runCmd s (.copy2d g stream sig dp sp d a) false)
/-- publish parks at the word under R348. -/
def execPublish (g : Guard) (d a b : Code) (s : State) : Host.Outcome State Fault Refusal :=
  finish (runCmd s (.publish g d a b) true)
def execSmerge (g : Guard) (ord : Bool) (d a : Code) (s : State) : Host.Outcome State Fault Refusal :=
  finish (runCmd s (.smerge g ord d a) false)
def execShadow (g : Guard) (d a b : Code) (s : State) : Host.Outcome State Fault Refusal :=
  finish (runCmd s (.shadow g d a b) false)
/-- A close parks at the word under R348. -/
def execShadowClose (g : Guard) (d a b : Code) (s : State) : Host.Outcome State Fault Refusal :=
  finish (runCmd s (.shadowClose g d a b) true)
def execCpq (g : Guard) (occ : Bool) (d a b : Code) (s : State) : Host.Outcome State Fault Refusal :=
  finish (runCmd s (.cpq g occ d a b) false)

/-! ### Data commands: fields and checks (R197 to R199) -/

/-- Which data command a command is: 0 copy, 1 fill, 2 copy2d, 3 gath, 4 scat; and SIG, DP, SP. -/
def dataForm : Instr → Option (Nat × Bool × Bool × Bool)
  | .copy _ _ sig dp sp _ _ => some (0, sig, dp, sp)
  | .fill _ _ sig dp _ _ _ => some (1, sig, dp, false)
  | .copy2d _ _ sig dp sp _ _ => some (2, sig, dp, sp)
  | .gath _ _ sig dp sp _ _ => some (3, sig, dp, sp)
  | .scat _ _ sig dp sp _ _ => some (4, sig, dp, sp)
  | _ => none

def Cmd.cpSrc (c : Cmd) : Nat := c.f 0 64
def Cmd.cpDst (c : Cmd) : Nat := c.f 64 64
def Cmd.cpLen (c : Cmd) : Nat := c.f 128 32
def Cmd.cpCount (c : Cmd) : Nat := c.f 160 32
def Cmd.cpSS (c : Cmd) : Int := c.sf 192 64
def Cmd.cpDS (c : Cmd) : Int := c.sf 256 64
def Cmd.cpIdx (c : Cmd) : Nat := c.f 320 32
def Cmd.cpSigOff (c : Cmd) : Nat := c.f 352 32
def Cmd.cpSigVal (c : Cmd) : Nat := c.f 384 32

/-- R199 check 1: fields that the command does not use are zero (R198). -/
def dataReserved (form : Nat) (sig dp sp : Bool) (c : Cmd) : Bool :=
  c.f 416 96 == 0 && (!dp || c.f 96 32 == 0) && (!sp || c.f 32 32 == 0) && (sig || (c.cpSigOff == 0 && c.cpSigVal == 0))
    && (form != 1 || c.cpSrc == 0)
    && (decide (2 ≤ form) || c.cpCount == 0)
    && (form == 2 || form == 3 || c.f 192 64 == 0)
    && (form == 2 || form == 4 || c.f 256 64 == 0)
    && (decide (3 ≤ form) || c.cpIdx == 0)

/-- R199 check 2. -/
def dataLimit (form : Nat) (c : Cmd) : Bool :=
  if form ≤ 1 then true
  else if form = 2 then decide (c.cpCount ≤ 65535)
  else decide (1 ≤ c.cpLen) && decide (c.cpLen ≤ 4096) && decide (c.cpCount ≤ 65536)

/-- The hull, first byte and length, of rows of `len` bytes at a stride; length 0 for no byte. -/
def hull (base stride : Int) (len count : Nat) : Int × Nat :=
  if len = 0 ∨ count = 0 then (base, 0)
  else
    let last := base + (count - 1 : Nat) * stride
    (min base last, (max base last - min base last).toNat + len)

/-- The contiguous or strided source of a data command (gath has none), by its address part. -/
def srcHull (form : Nat) (sp : Bool) (c : Cmd) : Int × Nat :=
  let base : Int := if sp then fld c.cpSrc 0 32 else fld c.cpSrc 0 56
  if form = 0 then hull base 0 c.cpLen 1
  else if form = 2 then hull base c.cpSS c.cpLen c.cpCount
  else if form = 4 then hull base 0 (c.cpLen * c.cpCount) 1
  else (base, 0)

/-- The contiguous or strided destination of a data command (scat has none). -/
def dstHull (form : Nat) (dp : Bool) (c : Cmd) : Int × Nat :=
  let base : Int := if dp then fld c.cpDst 0 32 else fld c.cpDst 0 56
  if form ≤ 1 then hull base 0 c.cpLen 1
  else if form = 2 then hull base c.cpDS c.cpLen c.cpCount
  else if form = 3 then hull base 0 (c.cpLen * c.cpCount) 1
  else (base, 0)

/-- Two ranges share a byte. -/
def meets (a b : Int × Nat) : Bool := decide (0 < a.2) && decide (0 < b.2) && decide (a.1 < b.1 + b.2) && decide (b.1 < a.1 + a.2)

/-- The acceptance checks of a data command (R199): the cause of the first that fails. -/
def dataCheck (padb form : Nat) (sig dp sp : Bool) (c : Cmd) : Option Nat :=
  let sh := srcHull form sp c
  let dh := dstHull form dp c
  let idx : Int × Nat := if 3 ≤ form then (c.cpIdx, 4 * c.cpCount) else (0, 0)
  if !dataReserved form sig dp sp c then some 0x20
  else if !dataLimit form c then some 0x21
  else if !((!sp || padIn padb sh.1 sh.2) && (!dp || padIn padb dh.1 dh.2) && padIn padb idx.1 idx.2 && c.cpIdx % 4 == 0
      && (!sig || (c.cpSigOff % 4 == 0 && padIn padb c.cpSigOff 4))) then some 0x22
  else if (!sp && decide (0 < sh.2) && decide (2 ^ 56 < sh.1 + sh.2)) || (!dp && decide (0 < dh.2) && decide (2 ^ 56 < dh.1 + dh.2)) then some 0x23
  else if ((form == 0 || form == 2) && sp == dp && meets sh dh) || (form == 3 && dp && meets idx dh) then some 0x24
  else none

/-! ### Data steps (R200 to R204) -/

/-- The address of a side: a pad offset or a pointer, moved by x; none outside its space. -/
def sideAdd (pad : Bool) (base : Nat) (x : Int) : Option Nat :=
  if pad then (let a := (fld base 0 32 : Int) + x; if 0 ≤ a then some a.toNat else none) else ptrAdd base x

/-- The cause of an address outside its space. -/
def sideCause (pad : Bool) : Nat := if pad then 0x22 else 0x23

/-- The pages of a side of a step. -/
def sidePages (pad : Bool) (a : Option Nat) (n : Nat) : List Nat :=
  match a with
  | none => []
  | some a => if pad then [] else pagesIn (piecesOf a n)

/-- Reads the source bytes of a step. -/
def sideRead (s : State) (cid : Nat) (c : Cmd) (pad : Bool) (a : Option Nat) (n : Nat) (keep : List Nat) : Eng (List Byte) :=
  match a with
  | none => .fail (sideCause pad) 0 s
  | some a =>
    if pad then if a + n ≤ cmdPadb s c then .ok (cmdPad s c a n) s else .fail 0x22 0 s
    else if 2 ^ 56 < fld a 0 56 + n then .fail 0x23 0 s
    else cmdRead s cid c a n keep

/-- Writes the destination bytes of a step. -/
def sideWrite (s : State) (cid : Nat) (c : Cmd) (pad : Bool) (a : Option Nat) (bytes : List Byte) (keep : List Nat) : Eng Unit :=
  match a with
  | none => .fail (sideCause pad) 0 s
  | some a =>
    if pad then if a + bytes.length ≤ cmdPadb s c then .ok () (cmdPadWrite s cid c a bytes) else .fail 0x22 0 s
    else if 2 ^ 56 < fld a 0 56 + bytes.length then .fail 0x23 0 s
    else cmdWrite s cid c a bytes keep

/-- The bytes of fill: byte (y modulo 4) of B at address y (R201). -/
def fillBytes (b : Word) (y : Nat) : Nat → List Byte
  | 0 => []
  | n + 1 => BitVec.ofNat 8 (fld b.toNat (8 * (y % 4)) 8) :: fillBytes b (y + 1) n

/-- The last step of a data command: once every payload write has been performed, the signal word, then OK (R203, R206). -/
def dataEnd (s : State) (cid : Nat) (c : Cmd) (sig : Bool) : Eng Unit :=
  if !sig then .ok () (endCmd s cid 0 0)
  else if !c.late.isEmpty then .wait s
  else .ok () (endCmd (padWrite s c.tid none c.cpSigOff (leBytes 4 c.cpSigVal)) cid 0 0)

/-- The bytes of one step go from source to destination (R200). -/
def sideMove (s : State) (cid : Nat) (c : Cmd) (sp : Bool) (sa : Option Nat) (dp : Bool) (da : Option Nat) (n : Nat) : Eng Unit :=
  let keep := sidePages sp sa n ++ sidePages dp da n
  (sideRead s cid c sp sa n keep).bind (fun bytes s => sideWrite s cid c dp da bytes keep)

/-- Where a copy, fill or copy2d stands: row and offset in the row. -/
def Cmd.cpRow (c : Cmd) : Nat := nth 0 c.vals 0
def Cmd.cpOff (c : Cmd) : Nat := nth 0 c.vals 1

/-- One piece of a copy, fill or copy2d: up to the next 512-byte boundary of the destination (R200). -/
def pieceStep (s : State) (cid : Nat) (c : Cmd) (form : Nat) (sig dp sp : Bool) : Eng Unit :=
  let rows := if form = 2 then c.cpCount else 1
  let r := c.cpRow
  let i := c.cpOff
  if c.cpLen = 0 ∨ rows ≤ r then dataEnd s cid c sig
  else
    let da := sideAdd dp c.cpDst ((r : Int) * (if form = 2 then c.cpDS else 0) + i)
    let y := fld (da.getD 0) 0 56
    let n := Nat.min (c.cpLen - i) (512 - y % 512)
    let sa := sideAdd sp c.cpSrc ((r : Int) * (if form = 2 then c.cpSS else 0) + i)
    (if form = 1 then sideWrite s cid c dp da (fillBytes c.b y n) [] else sideMove s cid c sp sa dp da n).bind (fun _ s =>
      .ok () (nextStep s cid (fun c => { c with vals := if i + n < c.cpLen then [r, i + n] else [r + 1, 0] })))

/-- One element of a gath or scat (R200, R201). -/
def elemStep (s : State) (cid : Nat) (c : Cmd) (form : Nat) (sig dp sp : Bool) : Eng Unit :=
  let k := c.step
  if c.cpCount ≤ k then dataEnd s cid c sig
  else
    let j : Int := leNat (cmdPad s c (c.cpIdx + 4 * k) 4)
    let sa := sideAdd sp c.cpSrc (if form = 3 then j * c.cpSS else (k * c.cpLen : Nat))
    let da := sideAdd dp c.cpDst (if form = 3 then ((k * c.cpLen : Nat) : Int) else j * c.cpDS)
    (sideMove s cid c sp sa dp da c.cpLen).bind (fun _ s => .ok () (nextStep s cid id))

/-- A step of a data command. -/
def dataStep (s : State) (cid : Nat) (c : Cmd) (form : Nat) (sig dp sp : Bool) : Eng Unit :=
  if form ≤ 2 then pieceStep s cid c form sig dp sp else elemStep s cid c form sig dp sp

/-! ### Shadow pairs (R207 to R212) -/

def State.pair (s : State) (ctx num : Nat) : Option Pair := firstWith (fun p => p.ctx == ctx && p.num == num) s.pairs

/-- Puts a pair slot. -/
def State.setPair (s : State) (p : Pair) : State :=
  { s with pairs := s.pairs.filter (fun q => !(q.ctx == p.ctx && q.num == p.num)) ++ [p] }

/-- A page fit for a pair (R208). -/
def pairPage (s : State) (ctx va : Nat) : Bool :=
  match (walk s ctx va).res with
  | .ok (leaf, big) => !big && leafWritable leaf && leafPinned leaf && leafShadow leaf && !leafVersioned leaf
  | .error _ => false

/-- Two page ranges of `n` and `m` pages share a page. -/
def pagesMeet (a n b m : Nat) : Bool := decide (a < b + m * 65536) && decide (b < a + n * 65536)

/-- shadow with CLOSE = 0 (R208): an irrevocable act (R211). -/
def shadowStep (s : State) (cid : Nat) (c : Cmd) : Eng Unit :=
  let ctx := c.tags.ctx
  let num := c.b.toNat
  let front := c.f 0 56
  let back := c.f 64 56
  let n := c.f 128 32
  if !cmdFront s c then holdCmd s cid
  else if c.f 160 352 ≠ 0 then .fail 0x20 0 s
  else if 15 < num ∨ n = 0 ∨ 4096 < n then .fail 0x21 0 s
  else if ((s.pair ctx num).map Pair.live).getD false then .fail 0x2A 0 s
  else if front % 65536 ≠ 0 ∨ back % 65536 ≠ 0 ∨ 2 ^ 56 < front + n * 65536 ∨ 2 ^ 56 < back + n * 65536 ∨ pagesMeet front n back n
      ∨ !(upFrom 0 n).all (fun k => pairPage s ctx (front + 65536 * k) && pairPage s ctx (back + 65536 * k)) then .fail 0x29 0 s
  else if s.pairs.any (fun p => p.ctx == ctx && p.live && (pagesMeet front n p.front p.pages || pagesMeet front n p.back p.pages
      || pagesMeet back n p.front p.pages || pagesMeet back n p.back p.pages)) then .fail 0x2B 0 s
  else
    let was := s.pair ctx num
    let p : Pair := { ctx := ctx, num := num, front := front, back := back, pages := n,
                      wlast := (was.map Pair.wlast).getD 0, old := was.bind Pair.old }
    .ok () (endCmd (s.setPair p) cid 0 0)

/-- The frames of a range, as walked. -/
def rangeFrames (s : State) (ctx va n : Nat) : List Nat :=
  (upFrom 0 n).filterMap (fun k => match (walk s ctx (va + 65536 * k)).res with
    | .ok (leaf, big) => some (physOf leaf (va + 65536 * k) big / 65536)
    | .error _ => none)

/-- Largest L (R155) over the lines of some frames. -/
def State.leaseMaxFrames (s : State) (fs : List Nat) : Nat :=
  Nat.max (maxOf ((s.leases.filter (fun e => fs.contains (e.1 * 512 / 65536))).map Prod.snd))
    (if s.horizon.isEmpty then 0
     else maxOf (fs.flatMap (fun f => (upFrom 0 16).map (fun k => Tab.get 0 (sliceOf (f * 65536 + 4096 * k)) s.horizon))))

/-- The perform of a publication or a close (R210, R208): the pair as changed, and its WCT. -/
def pairPerform (s : State) (p : Pair) (close : Bool) : State × Nat × Pair :=
  let fs := rangeFrames s p.ctx p.front p.pages ++ rangeFrames s p.ctx p.back p.pages
  let w := Nat.max s.now (s.leaseMaxFrames fs) + 1
  let q := { p with
    flip := if close then p.flip else !p.flip
    gen := if close then p.gen else (p.gen + 1) % 2 ^ 22
    live := !close
    wlast := w
    old := if p.flip then some (p.front, p.back, p.pages) else none }
  (s.setPair q, w, q)

/-- The arrival of a publication or close at the slice agent: a pair number above 15 fails; else it waits its turn (R210). -/
def pairArrive (s : State) (cid : Nat) (c : Cmd) : Eng Unit :=
  if c.step ≠ 0 then .ok () s
  else if 15 < c.b.toNat then .fail 0x28 0 s
  else .ok () { nextStep s cid (fun c => { c with vals := [s.ids] }) with ids := s.ids + 1 }

/-- Whether an instruction is a publication (false) or a close (true). -/
def pairForm : Instr → Option Bool
  | .publish _ _ _ _ => some false
  | .shadowClose _ _ _ _ => some true
  | _ => none

/-- The first page of a pair's ranges, with the cause, whose leaf does not serve a publication (R172). -/
def pairFails (s : State) (p : Pair) : Option (Nat × Nat) :=
  firstSome (fun va => match (walk s p.ctx va).res with
    | .error c => some (c, va)
    | .ok (leaf, _) => if leafWritable leaf then none else some (3, va))
    ((upFrom 0 p.pages).map (fun k => p.front + 65536 * k) ++ (upFrom 0 p.pages).map (fun k => p.back + 65536 * k))

/-- PUBLICATION_PERFORM (R210, R211): in arrival order for each pair, at the frontier, later than the last WCT; then D is filled. -/
def publishNow (s : State) (cid : Nat) : State :=
  match s.cmd cid with
  | none => s
  | some c => match pairForm c.instr with
    | none => s
    | some close =>
      if c.st != .run || c.suspended || c.lost s || c.page.isSome || c.step ≠ 1 || s.cmds.any (fun e => e.1 != cid && e.2.st == .run && (pairForm e.2.instr).isSome
          && e.2.step == 1 && e.2.b == c.b && e.2.tags.ctx == c.tags.ctx && decide (nth 0 e.2.vals 0 < nth 0 c.vals 0)) then s
      else if !cmdFront s c then s.modCmd cid (fun c => { c with held := true })
      else match s.pair c.tags.ctx c.b.toNat with
        | none => failCmd s cid { c with step := 0 } 0x28 0
        | some p =>
          if !p.live then failCmd s cid { c with step := 0 } 0x28 0
          else if s.now ≤ p.wlast then s
          else match if close then none else pairFails s p with
          | some (1, va) =>
            if c.refused = some (va / 65536) then failCmd s cid { c with step := 0 } 2 va
            else (request s c.tags.ctx (va / 65536) (dieOf c.tags.core)).modCmd cid (fun c => { c with page := some (va / 65536), keep := [va / 65536] })
          | some (k, va) => failCmd s cid { c with step := 0 } k va
          | none =>
            let (s, w, q) := pairPerform s p close
            let c := { c with wct := Nat.max c.wct w }
            fillStatus s cid c (statusWord 0 4 (if close then 0 else b2n q.flip * 2 ^ 22 + q.gen)) false

/-- cpq with OCC = 0 (R212): of a pair that is not live it delivers LIVE = 0, as R212 says; the row NOPAIR of R205 is read as speaking of
such a pair for publish and close only (assumption log 114). -/
def cpqStep (s : State) (cid : Nat) (c : Cmd) : Eng Unit :=
  if 15 < c.b.toNat then .fail 0x28 0 s
  else
    let p := s.pair c.tags.ctx c.b.toNat
    .ok () (endCmd s cid 0 (b2n ((p.map Pair.live).getD false) * 2 ^ 23 + b2n ((p.map Pair.flip).getD false) * 2 ^ 22 + (p.map Pair.gen).getD 0))

/-- Commands that a cluster's copy engine has accepted and not completed. -/
def State.copyBusy (s : State) (cl : Nat) : Nat := s.accepted (fun c => c.cls == 4 && clusterOf c.tags.core == cl)

/-! ### Softmax merge (R213 to R217) -/

/-- The checks of step 0, with the partial's n (R214). -/
def mergeCheck (s : State) (c : Cmd) : Except Nat Nat :=
  let part := c.f 64 32
  if c.f 96 416 ≠ 0 then .error 0x20
  else if part % 16 ≠ 0 || !padIn (cmdPadb s c) part 16 then .error 0x22
  else
    let n := leNat (cmdPad s c (part + 12) 2)
    if n = 0 ∨ 1020 < n then .error 0x25
    else if !padIn (cmdPadb s c) part (16 + 4 * n) then .error 0x22
    else .ok n

/-- The n, ticket and partial of an smerge, as read at acceptance. -/
def Cmd.mgN (c : Cmd) : Nat := nth 0 c.vals 0
def Cmd.mgIdx (c : Cmd) : Nat := fld (leNat (c.data.map (BitVec.ofNat 8))) 64 32
/-- Where its partial is: 0 not yet sent, 1 held at the slice, 2 refused by a full hold; and the slice, and the cycle of that. -/
def Cmd.mgAt (c : Cmd) : Nat := nth 0 c.vals 1
def Cmd.mgSlice (c : Cmd) : Nat := nth 0 c.vals 2
def Cmd.mgSince (c : Cmd) : Nat := nth 0 c.vals 3

/-- The weight of a side (R215): 1 where its maximum is the larger, else 2 to the rounded difference. -/
def mergeWeight (m mx : Nat) : FX :=
  if fxCmp (f32.read m) (f32.read mx) == some 0 then .fin false 1 0 false
  else f32.read (fEx2 false .rn false (BitVec.ofNat 32 (f32.put .rn false (fxAdd .rn (f32.read m) (fxNeg (f32.read mx)))))).toNat

/-- One rounding of x × a + y × b (R215). -/
def mergeSum (a b : FX) (x y : Nat) : Nat := f32.put .rn false (fxAdd .rn (fxMul (f32.read x) a) (fxMul (f32.read y) b))

/-- Words of 4 bytes. -/
def wordsOf (bytes : List Byte) : Nat → List Nat
  | 0 => []
  | n + 1 => leNat (bytes.take 4) :: wordsOf (bytes.drop 4) n

/-- The record after a merge (R215); `n` and the reserved half-word are not among the bytes written. -/
def mergeBytes (old part : List Byte) (n : Nat) : List (Nat × List Byte) :=
  let m := leNat (old.take 4)
  let mp := leNat (part.take 4)
  let nan := isNan32 (BitVec.ofNat 32 m) || isNan32 (BitVec.ofNat 32 mp)
  let mx := (fMinMax true false true (BitVec.ofNat 32 m) (BitVec.ofNat 32 mp)).toNat
  let a := mergeWeight m mx
  let b := mergeWeight mp mx
  let sum := fun (x y : Nat) => if nan then 0x7FC00000 else mergeSum a b x y
  let count := leNat ((old.drop 8).take 4)
  [(0, leBytes 4 (if nan then 0x7FC00000 else mx) ++ leBytes 4 (sum (leNat ((old.drop 4).take 4)) (leNat ((part.drop 4).take 4)))
      ++ leBytes 4 ((count + 1) % 2 ^ 32)),
   (16, ((wordsOf (old.drop 16) n).zip (wordsOf (part.drop 16) n)).flatMap (fun e => leBytes 4 (sum e.1 e.2)))]

/-- Partials held at a slice (R216). -/
def State.partialsAt (s : State) (slice : Nat) : Nat :=
  (s.cmds.filter (fun e => (match e.2.instr with
    | .smerge _ _ _ _ => true
    | _ => false) && e.2.st == .run && e.2.mgAt == 1 && e.2.mgSlice == slice)).length

/-- Whether an smerge is in ordered mode. -/
def mergeOrd : Instr → Bool
  | .smerge _ ord _ _ => ord
  | _ => false

/-- Performs the merge as one indivisible write (R214, R215). -/
def mergePerform (s : State) (cid : Nat) (c : Cmd) (pa leaf count : Nat) (old : List Byte) : Eng Unit :=
  match cmdWriteParts s c (((mergeBytes old (c.data.map (BitVec.ofNat 8)) c.mgN).map Prod.snd).flatten) 0
      [(0, ⟨false, 0, pa, leaf⟩, 12), (12, ⟨false, 0, pa + 16, leaf⟩, 4 * c.mgN)] with
  | none => .wait (s.modCmd cid (fun c => { c with full := true }))
  | some (s, w) => .ok () (endCmd (s.modCmd cid (fun c => { c with wct := Nat.max c.wct w })) cid 0 (count % 2 ^ 24))

/-- The partial meets its record at the home slice (R214 step 1, R216). `arrive` says that it has just been sent. -/
def mergeStep (s : State) (cid : Nat) (c : Cmd) (arrive : Bool) : Eng Unit :=
  let ptr := c.f 0 64
  let n := 16 + 4 * c.mgN
  if fld ptr 0 56 % 16 ≠ 0 ∨ 4096 < fld ptr 0 12 + n then .fail 0x25 (fld ptr 0 56) s
  else if fld ptr 56 4 = 0 && (s.window c.tags.ctx (fld ptr 0 56)).isSome then .fail 9 (fld ptr 0 56) s
  else (cmdXl s cid c ptr .wr n []).bind (fun x s =>
    if !leafVersioned x.2 && !cmdFront s c then holdCmd s cid
    else match readOr s c.tags x.2 x.1 n with
      | .error w => edgeCmd s cid ptr w
      | .ok (old, s') =>
        let rn := leNat ((old.drop 12).take 2)
        let count := leNat ((old.drop 8).take 4)
        if rn = 0 ∨ 1020 < rn then .fail 0x25 (fld ptr 0 56) s'
        else if rn ≠ c.mgN then .fail 0x26 (fld ptr 0 56) s'
        else if !mergeOrd c.instr || c.mgIdx == count then mergePerform s' cid c x.1 x.2 count old
        else if c.mgIdx < count then .fail 0x27 (fld ptr 0 56) s'
        else if !arrive then .wait s
        else if s.partialsAt (sliceOf x.1) < 64 then
          .wait (s'.modCmd cid (fun c => { c with vals := [c.mgN, 1, sliceOf x.1, s.cyc], held := false, page := none }))
        else .wait (s'.modCmd cid (fun c => { c with vals := [c.mgN, 2, sliceOf x.1, s.cyc], held := false, page := none })))

/-- HELD_PARTIAL_MERGE (R216): a held partial whose ticket its task's view of COUNT has reached is merged, or fails. -/
def heldMerge (s : State) (cid : Nat) : State :=
  match s.cmd cid with
  | none => s
  | some c => match c.instr with
    | .smerge _ _ _ _ => if c.st == .run && !c.lost s && c.mgAt == 1 then runStep cid c (mergeStep s cid c false) else s
    | _ => s

/-- PARTIAL_RESEND (R216). -/
def resendPartial (s : State) (cid : Nat) : State :=
  match s.cmd cid with
  | none => s
  | some c => match c.instr with
    | .smerge _ _ _ _ =>
      if c.st == .run && !c.lost s && !c.suspended && c.mgAt == 2 && decide (c.mgSince + 64 ≤ s.cyc) then runStep cid c (mergeStep s cid c true) else s
    | _ => s

/-! ### Acceptance and steps of class 0x4 -/

/-- What the copy engine does at acceptance (R199, R214). -/
def copyAccept (s : State) (cid : Nat) (c : Cmd) : State :=
  match dataForm c.instr with
  | some (form, sig, dp, sp) => match dataCheck (cmdPadb s c) form sig dp sp c with
    | some cause => failCmd s cid c cause 0
    | none => s
  | none => match c.instr with
    | .smerge _ _ _ _ => match mergeCheck s c with
      | .error cause => failCmd s cid c cause 0
      | .ok n => nextStep s cid (fun c => { c with vals := [n, 0, 0, 0], data := (cmdPad s c (c.f 64 32) (16 + 4 * n)).map BitVec.toNat })
    | _ => s

/-- A step of a copy command. -/
def copyStep (s : State) (cid : Nat) (c : Cmd) : Eng Unit :=
  match dataForm c.instr with
  | some (form, sig, dp, sp) => dataStep s cid c form sig dp sp
  | none => match c.instr with
    | .smerge _ _ _ _ => if c.mgAt = 0 then mergeStep s cid c true else .ok () s
    | .shadow _ _ _ _ => shadowStep s cid c
    | .publish _ _ _ _ | .shadowClose _ _ _ _ => pairArrive s cid c
    | .cpq _ occ _ _ _ => if occ then .ok () (endCmd s cid 0 0) else cpqStep s cid c
    | _ => .ok () s

end Sys2Proof.Machine
end

