-- ==== Sys2Proof/Machine/Select.lean ====
section
/-! DEFINITION. Select.lean: the select engine (R310 to R326): the meanings of class 0x8 and its checks and steps. -/

namespace Sys2Proof.Machine

open Sys2Proof

/-! ### The words (R312) -/

def execTopk (g : Guard) (dp sp : Bool) (d a : Code) (s : State) : Host.Outcome State Fault Refusal :=
  finish (runCmd s (.topk g dp sp d a) false)
def execSelm (g : Guard) (dp sp : Bool) (d a : Code) (s : State) : Host.Outcome State Fault Refusal :=
  finish (runCmd s (.selm g dp sp d a) false)
def execSdraw (g : Guard) (raw greedy dp sp : Bool) (d a b : Code) (s : State) : Host.Outcome State Fault Refusal :=
  finish (runCmd s (.sdraw g raw greedy dp sp d a b) false)
def execHook (g : Guard) (d a : Code) (s : State) : Host.Outcome State Fault Refusal := finish (runCmd s (.hook g d a) false)
def execHist (g : Guard) (acc sp : Bool) (d a : Code) (s : State) : Host.Outcome State Fault Refusal :=
  finish (runCmd s (.hist g acc sp d a) false)

/-! ### Keys and lists (R310, R311) -/

def keyWidth (kf : Nat) : Nat := nth 32 [32, 16, 16, 32] kf
def keyFmt (kf : Nat) : FFmt := nth f32 [f32, f16, bf16] kf

/-- Whether a key is a NaN. -/
def keyNan (kf x : Nat) : Bool := kf != 3 && (keyFmt kf).read x == .nan

/-- The rank value of a key (R310). -/
def rankVal (kf x0 : Nat) : Nat :=
  let w := keyWidth kf
  let x := x0 % 2 ^ w
  let h := 2 ^ (w - 1)
  if kf = 3 then (x + h) % 2 ^ w
  else if keyNan kf x then 0
  else if x = h then h
  else if h ≤ x then 2 ^ w - 1 - x else x + h

/-- Entries (index, key) in rank order. -/
def ranked (kf : Nat) (es : List (Nat × Nat)) : List (Nat × Nat) :=
  sortBy (fun e => (2 ^ keyWidth kf - 1 - rankVal kf e.2) * 2 ^ 32 + e.1) es

/-- The bytes of a list of k entries, the missing ones empty. -/
def listBytes (k : Nat) (es : List (Nat × Nat)) : List Byte :=
  (upFrom 0 k).flatMap (fun r => let e := nth (0xFFFFFFFF, 0) es r; leBytes 4 e.1 ++ leBytes 4 e.2)

/-- The entries of a list, empty ones left out. -/
def listEntries (bs : List Byte) : Nat → List (Nat × Nat)
  | 0 => []
  | n + 1 =>
    let i := leNat (bs.take 4)
    let t := listEntries (bs.drop 8) n
    if i = 0xFFFFFFFF then t else (i, leNat ((bs.drop 4).take 4)) :: t

/-- The first occurrence of each index stands (R319). -/
def collapse : List (Nat × Nat) → List (Nat × Nat)
  | [] => []
  | e :: t => e :: (collapse t).filter (fun x => x.1 != e.1)

/-! ### Ranges (R313) -/

/-- The place some bytes into a pad or global range. -/
def selAt (pad : Bool) (base n : Nat) : Nat := if pad then fld base 0 32 + n else ptrOn base n

/-- A range of a block: pad or global, its field, its length, its alignment. -/
structure SelRange where
  pad : Bool
  base : Nat
  len : Nat
  align : Nat
deriving DecidableEq, Repr

/-- PAD_BOUNDS, VA_RANGE and ALIGN, in that order. -/
def rangesCheck (padb : Nat) (rs : List SelRange) : Option Nat :=
  if rs.any (fun r => r.pad && !(padIn padb (fld r.base 0 32) r.len && fld r.base 0 32 % r.align == 0)) then some 0x22
  else if rs.any (fun r => !r.pad && decide (2 ^ 56 < fld r.base 0 56 + r.len)) then some 0x23
  else if rs.any (fun r => !r.pad && fld r.base 0 56 % r.align != 0) then some 0x25
  else none

/-- A pad offset has its high half zero. -/
def padField (pad : Bool) (f : Nat) : Bool := !pad || fld f 32 32 == 0

/-- Chunks of a row of n elements (R316). -/
def chunks (n : Nat) : Nat := ceilDiv n 4096

/-- Reads chunk k of a row: its elements. -/
def chunkRead (s : State) (cid : Nat) (c : Cmd) (sp : Bool) (src kf n k : Nat) (keep : List Nat) : Eng (List Nat) :=
  let b := keyWidth kf / 8
  let m := Nat.min 4096 (n - 4096 * k)
  (sideRead s cid c sp (some (selAt sp src (4096 * k * b))) (m * b) keep).bind (fun bs s => .ok (elemsOf' b bs m) s)
where
  /-- Elements of `b` bytes. -/
  elemsOf' (b : Nat) (bs : List Byte) : Nat → List Nat
    | 0 => []
    | n + 1 => leNat (bs.take b) :: elemsOf' b (bs.drop b) n

/-- Counts of digits: one more in a bin. -/
def bump (bins : List Nat) (d : Nat) : List Nat := modAt (· + 1) bins d

/-! ### topk (R314 to R317) -/

def Cmd.tkK (c : Cmd) : Nat := c.f 192 8
def Cmd.tkFmt (c : Cmd) : Nat := c.f 200 4
def Cmd.tkN (c : Cmd) : Nat := c.f 64 32
def Cmd.tkBase (c : Cmd) : Nat := c.f 96 32

def topkCheck (padb : Nat) (dp sp : Bool) (c : Cmd) : Option Nat :=
  if c.f 204 308 ≠ 0 ∨ !padField sp (c.f 0 64) ∨ !padField dp (c.f 128 64) then some 0x20
  else if 3 < c.tkFmt then some 0x24
  else if c.tkK = 0 ∨ 64 < c.tkK ∨ c.tkN = 0 ∨ 262144 < c.tkN ∨ 0xFFFFFFFF < c.tkBase + c.tkN then some 0x21
  else rangesCheck padb [⟨sp, c.f 0 64, c.tkN * (keyWidth c.tkFmt / 8), keyWidth c.tkFmt / 8⟩, ⟨dp, c.f 128 64, 8 * c.tkK, 8⟩]

/-- Progress: histogram passes done, prefix, A, and whether the collection pass runs. -/
def Cmd.tkPass (c : Cmd) : Nat := nth 0 c.vals 0
def Cmd.tkPrefix (c : Cmd) : Nat := nth 0 c.vals 1
def Cmd.tkAbove (c : Cmd) : Nat := nth 0 c.vals 2
def Cmd.tkCollect (c : Cmd) : Bool := nth 0 c.vals 3 == 1

/-- A histogram pass over some elements (R316 point 1). -/
def digitCounts (kf q pre : Nat) (bins keys : List Nat) : List Nat :=
  let w := keyWidth kf
  keys.foldl (fun bs x =>
    let t := rankVal kf x
    if t / 2 ^ (w - 8 * q) = pre then bump bs (t / 2 ^ (w - 8 - 8 * q) % 256) else bs) bins

/-- The threshold bin: the highest at which A and the counts from it upwards reach m, else bin 0 (R316 point 2). -/
def thresholdBin (bins : List Nat) (above m : Nat) : Nat → Nat
  | 0 => 0
  | b + 1 => if m ≤ above + sumOf (bins.drop (b + 1)) then b + 1 else thresholdBin bins above m b

/-- After a histogram pass: passes done, prefix, A, and whether to collect (R316 points 2 and 3). -/
def afterPass (kf m q pre above : Nat) (bins : List Nat) : List Nat :=
  let b := thresholdBin bins above m 255
  let a := above + sumOf (bins.drop (b + 1))
  [q + 1, pre * 256 + b, a, b2n (a + nth 0 bins b == m || q + 1 == keyWidth kf / 8)]

/-- The list that the collection pass keeps, ranked (R316 point 4). -/
def collected (kf m passes pre : Nat) (keys : List Nat) : List (Nat × Nat) :=
  let top := fun x => rankVal kf x / 2 ^ (keyWidth kf - 8 * passes)
  let es := (upFrom 0 keys.length).zip keys
  ranked kf (((es.filter (fun e => decide (pre < top e.2))) ++ (es.filter (fun e => top e.2 == pre))
    ++ (es.filter (fun e => decide (top e.2 < pre)))).take m)

def topkStep (s : State) (cid : Nat) (c : Cmd) (dp sp : Bool) : Eng Unit :=
  let kf := c.tkFmt
  let m := Nat.min c.tkK c.tkN
  let n := chunks c.tkN
  let k := c.step % n
  let last := k + 1 == n
  (chunkRead s cid c sp (c.f 0 64) kf c.tkN k (sidePages dp (some (c.f 128 64)) (8 * c.tkK))).bind (fun keys s =>
    if !c.tkCollect then
      let bins := digitCounts kf c.tkPass c.tkPrefix (if k = 0 then List.replicate 256 0 else c.data) keys
      .ok () (nextStep s cid (fun c =>
        if last then { c with vals := afterPass kf m c.tkPass c.tkPrefix c.tkAbove bins, data := [] } else { c with data := bins }))
    else
      let all := c.data ++ keys
      if !last then .ok () (nextStep s cid (fun c => { c with data := all }))
      else
        let r := collected kf m c.tkPass c.tkPrefix all
        let t := rankVal kf ((r.getLast?.map Prod.snd).getD 0)
        let ties := (all.filter (fun x => rankVal kf x == t)).length
        (sideWrite s cid c dp (some (c.f 128 64)) (listBytes c.tkK (r.map (fun e => (c.tkBase + e.1, e.2)))) []).bind (fun _ s =>
          .ok () (endCmd s cid 0 (c.tkPass + 16 * Nat.min 0xFFFFF ties))))

/-! ### hist (R318) -/

def Cmd.hsFmt (c : Cmd) : Nat := c.f 192 4
def Cmd.hsWidth (c : Cmd) : Nat := if c.f 196 1 = 1 then 8 else 4

def histCheck (padb : Nat) (sp : Bool) (c : Cmd) : Option Nat :=
  let w := keyWidth c.hsFmt
  if c.f 205 307 ≠ 0 ∨ c.f 197 3 ≠ 0 ∨ !padField sp (c.f 0 64) then some 0x20
  else if 3 < c.hsFmt then some 0x24
  else if c.f 64 32 = 0 ∨ 262144 < c.f 64 32 ∨ w < c.f 200 5 + c.hsWidth ∨ 2 ^ w ≤ c.f 96 32 ∨ c.f 128 32 &&& c.f 96 32 ≠ c.f 128 32 then some 0x21
  else rangesCheck padb [⟨sp, c.f 0 64, c.f 64 32 * (w / 8), w / 8⟩, ⟨true, c.f 160 32, 4 * 2 ^ c.hsWidth, 4⟩]

/-- Matched elements and bins so far. -/
def histStep (s : State) (cid : Nat) (c : Cmd) (acc sp : Bool) : Eng Unit :=
  let n := 2 ^ c.hsWidth
  let bins := if c.step = 0 then List.replicate n 0 else c.data
  let matched := nth 0 c.vals 0
  if c.step < chunks (c.f 64 32) then
    (chunkRead s cid c sp (c.f 0 64) c.hsFmt (c.f 64 32) c.step []).bind (fun keys s =>
      let hits := (keys.map (rankVal c.hsFmt)).filter (fun t => (t &&& c.f 96 32) == c.f 128 32)
      .ok () (nextStep s cid (fun x => { x with
        data := hits.foldl (fun bs t => bump bs (t / 2 ^ c.f 200 5 % n)) bins, vals := [matched + hits.length] })))
  else
    let old := fun (b : Nat) => if acc then leNat (cmdPad s c (c.f 160 32 + 4 * b) 4) else 0
    .ok () (endCmd (cmdPadWrite s cid c (c.f 160 32) ((upFrom 0 n).flatMap (fun b => leBytes 4 ((old b + nth 0 bins b) % 2 ^ 32)))) cid 0
      (Nat.min matched 0xFFFFFF))

/-! ### selm (R319) -/

def selmCheck (padb : Nat) (dp sp : Bool) (c : Cmd) : Option Nat :=
  let k := c.f 192 8
  let len := c.f 96 8
  let nl := c.f 104 5
  if c.f 204 308 ≠ 0 ∨ c.f 109 19 ≠ 0 ∨ !padField sp (c.f 0 64) ∨ !padField dp (c.f 128 64) then some 0x20
  else if 3 < c.f 200 4 then some 0x24
  else if k = 0 ∨ 64 < k ∨ len = 0 ∨ 64 < len ∨ nl = 0 ∨ 16 < nl then some 0x21
  else if sp ∧ c.f 64 32 % 8 ≠ 0 then some 0x22
  else match rangesCheck padb [⟨sp, c.f 0 64, (nl - 1) * c.f 64 32 + 8 * len, 8⟩, ⟨dp, c.f 128 64, 8 * k, 8⟩] with
    | some x => some x
    | none => if c.f 64 32 % 8 ≠ 0 then some 0x25 else none

/-- Entries as numbers: index, then key above. -/
def packEntry (e : Nat × Nat) : Nat := e.1 + e.2 * 2 ^ 32
def unpackEntry (x : Nat) : Nat × Nat := (x % 2 ^ 32, x / 2 ^ 32)

/-- selm (R319): lists are merged a list a step, and the best are written. Keys of 16 bits are ranked by their low 16 bits, and their whole
field is copied (assumption log 130). -/
def selmStep (s : State) (cid : Nat) (c : Cmd) (dp sp : Bool) : Eng Unit :=
  if c.step < c.f 104 5 then
    (sideRead s cid c sp (some (selAt sp (c.f 0 64) (c.step * c.f 64 32))) (8 * c.f 96 8) []).bind (fun bs s =>
      .ok () (nextStep s cid (fun x => { x with data := (collapse (x.data.map unpackEntry ++ listEntries bs (c.f 96 8))).map packEntry })))
  else
    let es := c.data.map unpackEntry
    (sideWrite s cid c dp (some (c.f 128 64)) (listBytes (c.f 192 8) (ranked (c.f 200 4) es)) []).bind (fun _ s =>
      .ok () (endCmd s cid 0 es.length))

/-! ### sdraw (R320, R321) -/

/-- TOPP in (0, 1]; C finite and not negative. -/
def toppGood (v : Nat) : Bool := decide (0 < v) && decide (v ≤ 0x3F800000)
def scaleGood (v : Nat) : Bool := v == 0x80000000 || decide (v < 0x7F800000)

def sdrawCheck (padb : Nat) (greedy dp sp : Bool) (c : Cmd) : Option Nat :=
  let len := c.f 320 8
  if c.f 332 180 ≠ 0 ∨ !padField sp (c.f 0 64) ∨ !padField dp (c.f 64 64) then some 0x20
  else if 3 < c.f 328 4 then some 0x24
  else if len = 0 ∨ 64 < len ∨ (!greedy ∧ (!toppGood (c.f 224 32) ∨ !scaleGood (c.f 192 32))) then some 0x21
  else rangesCheck padb ([⟨sp, c.f 0 64, 8 * len, 8⟩, ⟨dp, c.f 64 64, 4, 4⟩] ++ (if c.f 128 64 = 0 then [] else [⟨false, c.f 128 64, 4, 4⟩]))

/-- x_j: a key's value as binary32. -/
def drawValue (kf x : Nat) : FX :=
  if kf = 3 then f32.read (f32.put .rn false (fxInt false (sx 32 x) 0)) else (keyFmt kf).read x

/-- w_j. -/
def drawWeight (scale : Nat) (x0 x : FX) : Nat :=
  if fxCmp x x0 == some 0 || scale % 2 ^ 31 == 0 then 0x3F800000
  else ex2 (f32.put .rn false (fxMul (fxAdd .rn x (fxNeg x0)) (f32.read scale)))

/-- S_0, S_1, … from the sum so far. -/
def runningSums (acc : Nat) : List Nat → List Nat
  | [] => []
  | w :: t =>
    let x := f32.put .rn false (fxAdd .rn (f32.read acc) (f32.read w))
    x :: runningSums x t

/-- a < b and a ≤ b for binary32 numbers. -/
def lt32 (a b : Nat) : Bool := fxCmp (f32.read a) (f32.read b) == some (-1)
def le32 (a b : Nat) : Bool := lt32 a b || fxCmp (f32.read a) (f32.read b) == some 0

/-- m and j of a draw over ranked values, with the random word r. -/
def drawPick (scale topp r : Nat) (xs : List FX) : Nat × Nat :=
  let ss := runningSums 0 (xs.map (drawWeight scale (nth .nan xs 0)))
  let h := mul32 topp (nth 0 ss (xs.length - 1))
  let m := (lowest (fun j => le32 h (nth 0 ss j)) 0 xs.length).getD (xs.length - 1)
  let g := f32.put .rn false (fxMul (fxInt false ((r / 2 ^ 8 : Nat) : Int) (-24)) (f32.read (nth 0 ss m)))
  (m, (lowest (fun i => lt32 g (nth 0 ss i)) 0 (m + 1)).getD m)

/-- Reads STAT, if there is one. -/
def readStat (s : State) (cid : Nat) (c : Cmd) (keep : List Nat) : Eng Nat :=
  if c.f 128 64 = 0 then .ok 0 s
  else (cmdRead s cid c (c.f 128 64) 4 keep).bind (fun bs s => .ok (leNat bs) s)

def sdrawStep (s : State) (cid : Nat) (c : Cmd) (raw greedy dp sp : Bool) : Eng Unit :=
  if c.step = 0 then
    let kf := c.f 328 4
    (readStat s cid c (sidePages sp (some (c.f 0 64)) (8 * c.f 320 8))).bind (fun st s =>
      if c.f 128 64 ≠ 0 ∧ st / 2 ^ 28 = 4 then .ok () (nextStep s cid (fun c => { c with vals := [4, 0xFFFFFFFF, 0] }))
      else (sideRead s cid c sp (some (c.f 0 64)) (8 * c.f 320 8) (if c.f 128 64 = 0 then [] else pagesIn (piecesOf (c.f 128 64) 4))).bind (fun bs s =>
        let es := (ranked kf (collapse (listEntries bs (c.f 320 8)))).filter (fun e => !keyNan kf (e.2 % 2 ^ keyWidth kf))
        if es.isEmpty then .fail 0x26 0 s
        else
          let r := if raw then c.b.toNat else rnd32 (c.f 256 32) (c.f 288 32) c.b.toNat
          let p := if greedy then (0, 0) else drawPick (c.f 192 32) (c.f 224 32) r (es.map (fun e => drawValue kf (e.2 % 2 ^ keyWidth kf)))
          .ok () (nextStep s cid (fun c => { c with vals := [0, (nth (0, 0) es p.2).1, (p.1 + 1) * 2 ^ 16 + p.2] }))))
  else (sideWrite s cid c dp (some (c.f 64 64)) (leBytes 4 (nth 0 c.vals 1)) []).bind (fun _ s =>
    .ok () (endCmd s cid (nth 0 c.vals 0) (nth 0 c.vals 2)))

/-! ### hook (R322, R323) -/

def hookCheck (c : Cmd) : Option Nat :=
  if c.f 144 368 ≠ 0 then some 0x20
  else if c.f 128 16 = 0 then some 0x21
  else if 2 ^ 56 < c.f 0 56 + 128 then some 0x23
  else if c.f 0 56 % 128 ≠ 0 then some 0x25
  else none

/-- Step 0: at the frontier the record is read, changed and checked, once; it then waits for an entry of the out-tray, and is posted as post
does; step 1 waits for the retirement. -/
def hookStep (s : State) (cid : Nat) (c : Cmd) : Eng Unit :=
  if c.step ≠ 0 then .wait s
  else if !cmdFront s c then holdCmd s cid
  else
  let t := cmdTeam s c
  let depth := ((s.grid t.lseq).map Grid.depth).getD 1
  let put := fun (s : State) (l : Launch) =>
    if 4096 ≤ s.disp.tray.length then Eng.wait (s.modCmd cid (fun c => { c with record := some l }))
    else .ok () (nextStep (trayAdd s c.tags.ctx depth c.tid t.lseq l) cid (fun c => { c with vals := [s.disp.lseq], record := none }))
  match c.record with
  | some l => put s l
  | none => (cmdRead s cid c (c.f 0 64) 128).bind (fun bs s =>
    let v := putFld (leNat bs) 320 16 (c.f 128 16)
    let v := if c.f 64 64 = 0 then v else putFld v 512 64 (c.f 64 64)
    let r := parseRec v
    match checkRec s c.tags v (some ⟨t.lseq, c.tags.carbon⟩) (fun p => c.refused == some p) with
    | (.page p, s) => .wait ((request s c.tags.ctx p (dieOf c.tags.core)).modCmd cid (fun x => { x with page := some p, keep := p :: pagesIn (piecesOf (c.f 0 64) 128) }))
    | (.edge w p, s) => edgeCmd s cid p w
    | (.fail k, s) => .fail (if k < 0x20 then k else 0x27) 0 s
    | (.ok l, s) =>
      if r.budget = 0 ∨ r.sigAddr = 0 ∨ r.pm ∨ r.gdy ≠ 1 ∨ r.gdz ≠ 1 then .fail 0x27 0 s
      else if depth = 10 then .fail 0x28 0 s
      else put s l)

/-- A hook grid has retired: its command ends with the number of its teams that were returned. -/
def hookDone (s : State) (lseq returned : Nat) : State :=
  { s with cmds := s.cmds.map (fun (e : Nat × Cmd) => match e.2.instr with
    | .hook _ _ _ =>
      if e.2.st = .run ∧ e.2.step = 1 ∧ e.2.vals = [lseq] then
        (e.1, { e.2 with st := .ended (statusWord 0 8 (Nat.min 0xFFFFFF returned)) false })
      else e
    | _ => e) }

/-! ### Acceptance and steps -/

/-- The acceptance checks of a select command (R313). -/
def selectAccept (s : State) (cid : Nat) (c : Cmd) : State :=
  let padb := cmdPadb s c
  let r := match c.instr with
    | .topk _ dp sp _ _ => topkCheck padb dp sp c
    | .selm _ dp sp _ _ => selmCheck padb dp sp c
    | .sdraw _ _ greedy dp sp _ _ _ => sdrawCheck padb greedy dp sp c
    | .hist _ _ sp _ _ => histCheck padb sp c
    | .hook _ _ _ => hookCheck c
    | _ => none
  match r with
  | some cause => failCmd s cid c cause 0
  | none => s

/-- A step of a select command. -/
def selectStep (s : State) (cid : Nat) (c : Cmd) : Eng Unit :=
  match c.instr with
  | .topk _ dp sp _ _ => topkStep s cid c dp sp
  | .selm _ dp sp _ _ => selmStep s cid c dp sp
  | .sdraw _ raw greedy dp sp _ _ _ => sdrawStep s cid c raw greedy dp sp
  | .hist _ acc sp _ _ => histStep s cid c acc sp
  | .hook _ _ _ => hookStep s cid c
  | _ => .ok () s

end Sys2Proof.Machine
end

