-- ==== Sys2Proof/Machine/Tree.lean ====
section
/-! DEFINITION. Tree.lean: the draft tree file of the sequence engine (R372 to R387): the words of the tree commands and their steps,
redact's apart. -/

namespace Sys2Proof.Machine

open Sys2Proof

/-! ### The words (R377) -/

def execDtload (g : Guard) (save sp : Bool) (d a : Code) (s : State) : Host.Outcome State Fault Refusal :=
  finish (runCmd s (.dtload g save sp d a) false)
def execDtnode (g : Guard) (d a : Code) (s : State) : Host.Outcome State Fault Refusal := finish (runCmd s (.dtnode g d a) false)
def execDtclr (g : Guard) (d a b : Code) (s : State) : Host.Outcome State Fault Refusal := finish (runCmd s (.dtclr g d a b) false)
def execDtmask (g : Guard) (d a : Code) (s : State) : Host.Outcome State Fault Refusal := finish (runCmd s (.dtmask g d a) false)
def execDtpos (g : Guard) (d a : Code) (s : State) : Host.Outcome State Fault Refusal := finish (runCmd s (.dtpos g d a) false)
def execDtacc (g : Guard) (sp : Bool) (d a : Code) (s : State) : Host.Outcome State Fault Refusal := finish (runCmd s (.dtacc g sp d a) false)

/-! ### Nodes (R373, R374) -/

/-- A node record without its derived depth, and whether its reserved bits are zero. -/
def parseNode (v : Nat) : TNode := { token := fld v 0 32, score := fld v 32 32, parent := fld v 64 8, flags := fld v 72 8 }
def nodeReserved (v : Nat) : Bool := fld v 88 40 == 0
def TNode.bits (n : TNode) : Nat := n.token + n.score * 2 ^ 32 + n.parent * 2 ^ 64 + n.flags * 2 ^ 72 + n.depth * 2 ^ 80

/-- A PARENT that node i may have. -/
def parentGood (i p : Nat) : Bool := p == 255 || decide (p < i)

/-- Depths derived from the parents: those of the nodes so far are given. -/
def deriveDepths (done : List TNode) : List TNode → List TNode
  | [] => done
  | n :: t => deriveDepths (done ++ [{ n with depth := if n.parent = 255 then 0 else (nth {} done n.parent).depth + 1 }]) t

/-! ### Slots (R372) -/

def Cmd.trSlot (c : Cmd) : Nat := c.f 160 4
def Cmd.trFirst (c : Cmd) : Nat := c.f 168 8
def Cmd.trCount (c : Cmd) : Nat := c.f 176 9

/-- A slot of the core as a command's team sees it: its own tree; none if it is free or another team's. -/
def myTree (s : State) (c : Cmd) (slot : Nat) : Option Tree := Tab.find slot (cmdTeam s c).trees

/-- Whether another team of the core holds a slot, or is about to (R372). -/
def heldByOther (s : State) (c : Cmd) (slot : Nat) : Bool :=
  (s.onCore c.tags.core).any (fun e => e.1 != c.tid && ((Tab.find slot e.2.trees).isSome || (s.claims e.1).contains slot))

def State.setTree (s : State) (tid slot : Nat) (t : Tree) : State := s.modTeam tid (fun x => { x with trees := Tab.put slot t x.trees })

/-- The tree commands, redact among them (R380). -/
def isTree : Instr → Bool
  | .dtload _ _ _ _ _ | .dtnode _ _ _ | .dtclr _ _ _ _ | .dtmask _ _ _ | .dtpos _ _ _ | .dtacc _ _ _ _ | .redact _ _ _ => true
  | _ => false

/-- The turn of a tree command on its core (R380). -/
def State.treeTurn (s : State) (cid : Nat) (c : Cmd) : Bool :=
  s.cmds.all (fun e => !(e.1 != cid && isTree e.2.instr && e.2.tags.core == c.tags.core
    && ((e.2.st == .run && !e.2.suspended) || !e.2.late.isEmpty) && decide (e.2.accepted < c.accepted)))

/-! ### Checks (R381) -/

/-- Which fields of the block a tree command uses: NODE, POOL, COUNT, FIRST, SLOT, SEQ, KV0, AUX, ADDR. -/
def treeUses : Instr → List Bool
  | .dtload _ save _ _ _ => [false, false, !save, false, true, !save, !save, !save, true]
  | .dtnode _ _ _ => [true, false, false, true, true, false, false, false, false]
  | .dtclr _ _ _ _ => [false, false, false, false, false, false, false, false, false]
  | .dtmask _ _ _ | .dtpos _ _ _ => [false, false, true, true, true, false, false, false, true]
  | .dtacc _ _ _ _ => [false, false, false, false, true, false, false, true, true]
  | .redact _ _ _ => [false, true, false, false, true, false, false, false, false]
  | _ => []

/-- Whether ADDR is a pad offset. -/
def treePad : Instr → Bool
  | .dtload _ _ sp _ _ => sp
  | .dtacc _ sp _ _ => sp
  | _ => true

/-- BLOCK_RESERVED of a tree command. -/
def treeReserved (c : Cmd) : Bool :=
  let fields := [(256, 128), (192, 64), (176, 9), (168, 8), (160, 4), (128, 20), (96, 32), (64, 32), (0, 64)]
  c.f 384 128 == 0 && c.f 185 7 == 0 && c.f 164 4 == 0 && c.f 148 12 == 0
    && (fields.zip (treeUses c.instr)).all (fun e => e.2 || c.f e.1.1 e.1.2 == 0)
    && (!treePad c.instr || c.f 32 32 == 0)
    && (match c.instr with
      | .dtnode _ _ _ => nodeReserved (c.f 256 128)
      | _ => true)

/-- LIMIT of a tree command. -/
def treeLimit (c : Cmd) : Bool :=
  match c.instr with
  | .dtload _ save _ _ _ => save || decide (c.trCount ≤ 256)
  | .dtmask _ _ _ | .dtpos _ _ _ => decide (1 ≤ c.trCount) && decide (c.trFirst + c.trCount ≤ 256)
  | .dtclr _ _ _ _ => c.b.toNat / 2 ^ 16 == 0
  | _ => true

/-- SLOT_OWNER of a tree command. -/
def treeOwner (s : State) (c : Cmd) : Bool :=
  match c.instr with
  | .dtload _ save _ _ _ => if save then (myTree s c c.trSlot).isSome else !heldByOther s c c.trSlot
  | .dtnode _ _ _ => !heldByOther s c c.trSlot
  | .dtclr _ _ _ _ => (upFrom 0 16).all (fun k => !bit c.b.toNat k || !heldByOther s c k)
  | _ => (myTree s c c.trSlot).isSome

/-- The bytes at ADDR and the alignment that a tree command needs there. -/
def treeAddr (s : State) (c : Cmd) : Nat × Nat :=
  let n := ((myTree s c c.trSlot).map (fun t => t.nodes.length)).getD 0
  match c.instr with
  | .dtload _ save _ _ _ => (16 * (if save then n else c.trCount), 16)
  | .dtmask _ _ _ => (32 * c.trCount, 32)
  | .dtpos _ _ _ => (4 * c.trCount, 4)
  | .dtacc _ _ _ _ => (4 * (n + 1), 4)
  | _ => (0, 1)

/-- The checks of a tree command in their order: the cause of the first that fails. -/
def treeCheck (s : State) (c : Cmd) : Option Nat :=
  let padb := cmdPadb s c
  let (n, al) := treeAddr s c
  let aux := match c.instr with
    | .dtacc _ _ _ _ => c.f 64 32 % 16 == 0 && padIn padb (c.f 64 32) 16
    | _ => true
  if !treeReserved c then some 0x20
  else if !treeLimit c then some 0x21
  else if !treeOwner s c then some 0x24
  else if !aux || (treePad c.instr && !(c.f 0 32 % al == 0 && padIn padb (c.f 0 32) n)) then some 0x22
  else if !treePad c.instr && decide (0 < n) && decide (2 ^ 56 < c.f 0 56 + n) then some 0x23
  else if !treePad c.instr && c.f 0 56 % al ≠ 0 then some 0x2F
  else none

/-! ### Steps -/

/-- dtload without SAVE (R382): step k reads record k; the last one changes the slot. -/
def dtloadStep (s : State) (cid : Nat) (c : Cmd) (sp : Bool) : Eng Unit :=
  let fin := fun (s : State) (recs : List Nat) =>
    let t : Tree := ⟨c.f 128 20, c.f 96 32, c.f 64 32, deriveDepths [] (recs.map parseNode)⟩
    endCmd (s.setTree c.tid c.trSlot t) cid 0 c.trCount
  if c.trCount = 0 then .ok () (fin s [])
  else (sideRead s cid c sp (some (if sp then c.f 0 32 + 16 * c.step else ptrOn (c.f 0 64) (16 * c.step))) 16 []).bind (fun bs s =>
    let v := leNat bs
    if !nodeReserved v then .fail 0x20 0 s
    else if !parentGood c.step (fld v 64 8) then .fail 0x25 0 s
    else if c.step + 1 < c.trCount then .ok () (nextStep s cid (fun c => { c with data := c.data ++ [v] }))
    else .ok () (fin s (c.data ++ [v])))

/-- dtload with SAVE (R382): step k writes record k. -/
def dtsaveStep (s : State) (cid : Nat) (c : Cmd) (sp : Bool) (t : Tree) : Eng Unit :=
  let n := t.nodes.length
  if n ≤ c.step then .ok () (endCmd s cid 0 n)
  else (sideWrite s cid c sp (some (if sp then c.f 0 32 + 16 * c.step else ptrOn (c.f 0 64) (16 * c.step)))
      (leBytes 16 (nth {} t.nodes c.step).bits) []).bind (fun _ s =>
    if c.step + 1 < n then .ok () (nextStep s cid id) else .ok () (endCmd s cid 0 n))

/-- dtnode (R383). -/
def dtnodeStep (s : State) (cid : Nat) (c : Cmd) : Eng Unit :=
  let t := (myTree s c c.trSlot).getD {}
  let i := c.trFirst
  let nd := parseNode (c.f 256 128)
  if t.nodes.length < i ∨ !parentGood i nd.parent then .fail 0x25 0 s
  else
    let ns := if i = t.nodes.length then t.nodes ++ [nd] else setAt t.nodes i nd
    .ok () (endCmd (s.setTree c.tid c.trSlot { t with nodes := deriveDepths [] ns }) cid 0 ns.length)

/-- dtclr (R384). -/
def dtclrStep (s : State) (cid : Nat) (c : Cmd) : Eng Unit :=
  let gone := (cmdTeam s c).trees.filter (fun e => bit c.b.toNat e.1)
  .ok () (endCmd (s.modTeam c.tid (fun t => { t with trees := t.trees.filter (fun e => !bit c.b.toNat e.1) })) cid 0 gone.length)

/-- Row i of a tree's ancestor mask (R375). -/
def maskRow (ps : List Nat) (i : Nat) : Nat := sumOf ((treeChain ps 256 i).map (fun j => 2 ^ j))

/-- dtmask and dtpos (R385): row or node k from FIRST. -/
def dtrowStep (s : State) (cid : Nat) (c : Cmd) (mask : Bool) (t : Tree) : Eng Unit :=
  let i := c.trFirst + c.step
  let bytes := if mask then leBytes 32 (maskRow (t.nodes.map TNode.parent) i)
    else leBytes 4 (if i < t.nodes.length then (t.basePos + (nth {} t.nodes i).depth) % 2 ^ 32 else 0)
  let s := cmdPadWrite s cid c (c.f 0 32 + bytes.length * c.step) bytes
  .ok () (if c.step + 1 < c.trCount then nextStep s cid id else endCmd s cid 0 0)

/-- acc(i) of R386 for the nodes in order, given those before. -/
def acceptNodes (ws : List Nat) (done : List Bool) : List TNode → List Bool
  | [] => done
  | n :: t =>
    let after := if n.parent = 255 then nth 0 ws 0 else nth 0 ws (n.parent + 1)
    acceptNodes ws (done ++ [(n.parent == 255 || nth false done n.parent) && n.token == after]) t

/-- last of R386: among accepted nodes of greatest depth, the lowest index. -/
def lastAccepted (acc : List Bool) (ns : List TNode) : Option Nat :=
  leastBy (fun i => (256 - (nth {} ns i).depth) * 256 + i) ((upFrom 0 ns.length).filter (fun i => nth false acc i))

/-- dtacc (R386). -/
def dtaccStep (s : State) (cid : Nat) (c : Cmd) (sp : Bool) (t : Tree) : Eng Unit :=
  let ns := t.nodes
  (sideRead s cid c sp (some (if sp then c.f 0 32 else c.f 0 64)) (4 * (ns.length + 1)) []).bind (fun bs s =>
    let ws := wordsOf bs (ns.length + 1)
    let acc := acceptNodes ws [] ns
    let last := lastAccepted acc ns
    let path := match last with
      | some l => treeChain (ns.map TNode.parent) 256 l
      | none => []
    let n := match last with
      | some l => (nth {} ns l).depth + 1
      | none => 0
    let bonus := match last with
      | some l => nth 0 ws (l + 1)
      | none => nth 0 ws 0
    let ns' := (ns.zip (upFrom 0 ns.length)).map (fun e =>
      { e.1 with flags := e.1.flags / 4 * 4 + b2n (path.contains e.2) * 2 + b2n (nth false acc e.2) })
    let s := s.setTree c.tid c.trSlot { t with nodes := ns' }
    .ok () (endCmd (cmdPadWrite s cid c (c.f 64 32) (leBytes 4 bonus ++ leBytes 4 n ++ leBytes 4 (last.getD 0xFFFFFFFF) ++ leBytes 4 0)) cid 0 n))

/-- A step of a tree command other than redact, whose turn has come and whose checks have passed. -/
def treeStep (s : State) (cid : Nat) (c : Cmd) : Eng Unit :=
  let t := (myTree s c c.trSlot).getD {}
  match c.instr with
  | .dtload _ save sp _ _ => if save then dtsaveStep s cid c sp t else dtloadStep s cid c sp
  | .dtnode _ _ _ => dtnodeStep s cid c
  | .dtclr _ _ _ _ => dtclrStep s cid c
  | .dtmask _ _ _ => dtrowStep s cid c true t
  | .dtpos _ _ _ => dtrowStep s cid c false t
  | .dtacc _ sp _ _ => dtaccStep s cid c sp t
  | _ => .ok () s

end Sys2Proof.Machine
end

