-- ==== Sys2Proof/Machine/Sequence.lean ====
section
/-! DEFINITION. Sequence.lean: KV pools of the sequence engine (R388 to R405): the words of the KV commands, redact and kvx, and their
steps. -/

namespace Sys2Proof.Machine

open Sys2Proof

/-! ### The words (R377) -/

def execRedact (g : Guard) (d a : Code) (s : State) : Host.Outcome State Fault Refusal := finish (runCmd s (.redact g d a) false)
def execKvfork (g : Guard) (d a : Code) (s : State) : Host.Outcome State Fault Refusal := finish (runCmd s (.kvfork g d a) false)
def execKvapp (g : Guard) (d a : Code) (s : State) : Host.Outcome State Fault Refusal := finish (runCmd s (.kvapp g d a) false)
def execKvalloc (g : Guard) (d a : Code) (s : State) : Host.Outcome State Fault Refusal := finish (runCmd s (.kvalloc g d a) false)
def execKvallocInit (g : Guard) (d a : Code) (s : State) : Host.Outcome State Fault Refusal := finish (runCmd s (.kvallocInit g d a) false)
def execKvfree (g : Guard) (d a : Code) (s : State) : Host.Outcome State Fault Refusal := finish (runCmd s (.kvfree g d a) false)
def execPcatt (g : Guard) (d a : Code) (s : State) : Host.Outcome State Fault Refusal := finish (runCmd s (.pcatt g d a) false)
def execPcattIns (g : Guard) (d a : Code) (s : State) : Host.Outcome State Fault Refusal := finish (runCmd s (.pcattIns g d a) false)
def execPcevict (g : Guard) (d a : Code) (s : State) : Host.Outcome State Fault Refusal := finish (runCmd s (.pcevict g d a) false)
def execBltabCreate (g : Guard) (d a : Code) (s : State) : Host.Outcome State Fault Refusal := finish (runCmd s (.bltabCreate g d a) false)
def execBltabDestroy (g : Guard) (d a : Code) (s : State) : Host.Outcome State Fault Refusal := finish (runCmd s (.bltabDestroy g d a) false)
def execBltabRead (g : Guard) (d a : Code) (s : State) : Host.Outcome State Fault Refusal := finish (runCmd s (.bltabRead g d a) false)
def execKvsurvGet (g : Guard) (d a : Code) (s : State) : Host.Outcome State Fault Refusal := finish (runCmd s (.kvsurvGet g d a) false)
def execKvsurvClr (g : Guard) (d a : Code) (s : State) : Host.Outcome State Fault Refusal := finish (runCmd s (.kvsurvClr g d a) false)
def execKvsurvSet (g : Guard) (d a : Code) (s : State) : Host.Outcome State Fault Refusal := finish (runCmd s (.kvsurvSet g d a) false)

/-! ### Bits -/

/-- Set bits among the lowest n. -/
def popCount (n v : Nat) : Nat := ((upFrom 0 n).filter (bit v)).length
/-- The bit of a number that has r set bits below it, itself set: select in a 64-bit bitmap. -/
def selectBit (v r : Nat) : Option Nat := lowest (fun k => bit v k && popCount k v == r) 0 64
/-- Bits of a mask taken out of a bitmap. -/
def clearBits (v m : Nat) : Nat := v - (v &&& m)

/-! ### The pool's structures (R388 to R390) -/

/-- A pool header that has been read and found good. -/
structure PoolHdr where
  ptr : Nat
  desc : Nat
  data : Nat
  seqt : Nat
  lists : Nat
  nblocks : Nat
  slotb : Nat
  nseq : Nat
  maxb : Nat
deriving DecidableEq, Repr

def poolGood (v : Nat) : Bool :=
  fld v 0 9 == 0 && fld v 64 9 == 0 && fld v 128 9 == 0 && fld v 192 9 == 0
    && decide (1 ≤ fld v 256 32) && decide (fld v 256 32 ≤ 16777215) && decide (16 ≤ fld v 288 32) && decide (fld v 288 32 ≤ 65536)
    && fld v 288 32 % 16 == 0 && decide (1 ≤ fld v 320 32) && decide (fld v 320 32 ≤ 1048576) && decide (1 ≤ fld v 352 32)
    && decide (fld v 352 32 ≤ 8192) && v / 2 ^ 416 % 2 ^ 32352 == 0

/-- The command as it reads a structure: nothing of that is read ahead of the step (R392, R476). -/
def Cmd.fresh (c : Cmd) : Cmd := { c with early := [] }

/-- Reads and checks a header (R388, R394). -/
def poolHdr (s : State) (cid : Nat) (c : Cmd) (ptr : Nat) : Eng PoolHdr :=
  if ptr % 4096 ≠ 0 then .fail 0x27 0 s
  else (cmdRead s cid c.fresh ptr 4096).bind (fun bs s =>
    let v := leNat bs
    if poolGood v then .ok ⟨ptr, fld v 0 64, fld v 64 64, fld v 128 64, fld v 192 64, fld v 256 32, fld v 288 32, fld v 320 32, fld v 352 32⟩ s
    else .fail 0x27 0 s)

def PoolHdr.descAt (h : PoolHdr) (b : Nat) : Nat := ptrOn h.desc (32 * b)
def PoolHdr.seqAt (h : PoolHdr) (q : Nat) : Nat := ptrOn h.seqt (16 * q)
def PoolHdr.listAt (h : PoolHdr) (q k : Nat) : Nat := ptrOn h.lists (8 * (q * h.maxb + k))
def PoolHdr.slotAt (h : PoolHdr) (t k : Nat) : Nat := ptrOn h.data ((64 * t + k) * h.slotb)
/-- The header's page, kept while another is served for the same step. -/
def PoolHdr.keep (h : PoolHdr) : List Nat := [fld h.ptr 0 56 / 2 ^ 16]

/-- Fields of a descriptor (R389). -/
def dSurv (d : Nat) : Nat := fld d 0 64
def dRef (d : Nat) : Nat := fld d 64 16
def dFill (d : Nat) : Nat := fld d 80 7
def dAlloc (d : Nat) : Bool := bit d 87
def dCached (d : Nat) : Bool := bit d 88
def dScarb (d : Nat) : Nat := fld d 104 8
def dStore (d : Nat) : Nat := fld d 128 24
def dKey (d : Nat) : Nat := fld d 192 64

/-- A descriptor as an allocation sets it (R395): storage of its own, made under the carbon. -/
def freshDesc (d b carbon fill : Nat) : Nat :=
  putFld (putFld (putFld (putFld (putFld (putFld (putFld (putFld d 0 64 (2 ^ fill - 1)) 64 16 1) 80 7 fill) 87 1 1) 89 1 0) 96 8 carbon) 104 8 carbon) 128 24 b

def readDesc (s : State) (cid : Nat) (c : Cmd) (h : PoolHdr) (b : Nat) : Eng Nat :=
  (cmdRead s cid c.fresh (h.descAt b) 32 h.keep).bind (fun bs s => .ok (leNat bs) s)

/-- A sequence entry: LEN, NBLK, LIVE (R390). -/
def readSeq (s : State) (cid : Nat) (c : Cmd) (h : PoolHdr) (q : Nat) : Eng (Nat × Nat × Bool) :=
  (cmdRead s cid c.fresh (h.seqAt q) 16 h.keep).bind (fun bs s => let v := leNat bs; .ok (fld v 0 32, fld v 32 32, bit v 64) s)

/-- A list entry: BLOCK, CUM. -/
def readList (s : State) (cid : Nat) (c : Cmd) (h : PoolHdr) (q k : Nat) : Eng (Nat × Nat) :=
  (cmdRead s cid c.fresh (h.listAt q k) 8 h.keep).bind (fun bs s => let v := leNat bs; .ok (fld v 0 32, fld v 32 32) s)

def wDesc (h : PoolHdr) (b d : Nat) : Nat × List Byte := (h.descAt b, leBytes 32 d)
def wSeq (h : PoolHdr) (q len nblk : Nat) (live : Bool) : Nat × List Byte :=
  (h.seqAt q, leBytes 16 (len % 2 ^ 32 + nblk % 2 ^ 32 * 2 ^ 32 + b2n live * 2 ^ 64))
def wList (h : PoolHdr) (q k b cum : Nat) : Nat × List Byte := (h.listAt q k, leBytes 8 (b % 2 ^ 32 + cum % 2 ^ 32 * 2 ^ 32))

/-- Writes of a command's step: of slots, and of the structures that it changes. -/
def kvWrite (s : State) (cid : Nat) (c : Cmd) (h : PoolHdr) (ws : List (Nat × List Byte)) (slots : List (Nat × List Byte) := []) : Eng Unit :=
  (cmdWriteSlots s cid c slots ws h.keep).bind (fun w s => .ok () (s.modCmd cid (fun c => { c with wct := Nat.max c.wct w })))

/-! ### slot (R391) -/

/-- The smallest list index from k on, below nb, whose CUM exceeds pos, with its block and the CUM before it. -/
def findEntry (s : State) (cid : Nat) (c : Cmd) (h : PoolHdr) (q pos nb k prev : Nat) : Nat → Eng (Option (Nat × Nat × Nat))
  | 0 => .ok none s
  | n + 1 =>
    if nb ≤ k then .ok none s
    else (readList s cid c h q k).bind (fun e s =>
      if pos < e.2 then .ok (some (k, e.1, prev)) s else findEntry s cid c h q pos nb (k + 1) e.2 n)

/-- The slot of a position: list index, block, slot, descriptor. -/
def kvSlot (s : State) (cid : Nat) (c : Cmd) (h : PoolHdr) (q pos : Nat) : Eng (Option (Nat × Nat × Nat × Nat)) :=
  if h.nseq ≤ q then .ok none s
  else (readSeq s cid c h q).bind (fun e s =>
    if !e.2.2 ∨ e.1 ≤ pos then .ok none s
    else (findEntry s cid c h q pos (Nat.min e.2.1 h.maxb) 0 0 (h.maxb + 1)).bind (fun x s =>
      match x with
      | none => .ok none s
      | some (k, b, prev) =>
        if h.nblocks ≤ b then .ok none s
        else (readDesc s cid c h b).bind (fun d s => match selectBit (dSurv d) (pos - prev) with
          | some i => .ok (some (k, b, i, d)) s
          | none => .ok none s)))

/-! ### Allocation (R392, R404): not versioned -/

/-- The lowest n blocks from b on whose ALLOC is 0, after those found. -/
def findFree (s : State) (cid : Nat) (c : Cmd) (h : PoolHdr) (b n : Nat) (found : List Nat) : Nat → Eng (Option (List Nat))
  | 0 => .ok (if n = 0 then some found else none) s
  | fuel + 1 =>
    if n = 0 then .ok (some found) s
    else if h.nblocks ≤ b then .ok none s
    else (cmdRead s cid c.fresh (ptrOn h.desc (32 * b + 10)) 1 h.keep).bind (fun bs s =>
      if (nth 0 bs 0).msb then findFree s cid c h (b + 1) n found fuel else findFree s cid c h (b + 1) (n - 1) (found ++ [b]) fuel)

def findBlocks (s : State) (cid : Nat) (c : Cmd) (h : PoolHdr) (n : Nat) : Eng (Option (List Nat)) := findFree s cid c h 0 n [] (h.nblocks + 1)

/-- A step that changes the pool's allocation waits for the frontier where the header's page is not versioned (R404). -/
def poolFront (s : State) (cid : Nat) (c : Cmd) (h : PoolHdr) (k : State → Eng Unit) : Eng Unit :=
  (cmdXl s cid c (ptrOn h.ptr 48) .wr 4 []).bind (fun x s => if !leafVersioned x.2 && !cmdFront s c then holdCmd s cid else k s)

/-- The same for the descriptors of blocks whose ALLOC a step sets. -/
def descFront (s : State) (cid : Nat) (c : Cmd) (h : PoolHdr) (k : State → Eng Unit) : List Nat → Eng Unit
  | [] => k s
  | b :: t => (cmdXl s cid c (h.descAt b) .wr 32 h.keep).bind (fun x s =>
      if !leafVersioned x.2 && !cmdFront s c then holdCmd s cid else descFront s cid c h k t)

/-- Blocks are taken: ALLOC and FREE at once, and a record for a task's (R404). `blk` is the block whose storage it is to be. -/
def takeBlocks (s : State) (c : Cmd) (h : PoolHdr) (bs : List Nat) (blk : Nat → Nat) (old : Option Nat) : State :=
  let s := bs.foldl (fun s b => rawAlloc s c.tags.ctx h.desc b true) (rawAdd s c.tags.ctx (ptrOn h.ptr 48) (-(bs.length : Int)))
  match c.tags.task with
  | none => s
  | some (l, _) => { s with kvs := s.kvs ++ bs.map (fun b => ⟨c.tags.ctx, h.ptr, h.desc, blk b, b, old, c.tags.carbon, l⟩) }

/-- Blocks are free again. -/
def giveBlocks (s : State) (c : Cmd) (h : PoolHdr) (bs : List Nat) : State :=
  let s := bs.foldl (fun s b => kvGive s c.tags.ctx h.ptr h.desc b) s
  { s with kvs := s.kvs.filter (fun r => !(r.ctx == c.tags.ctx && r.pool == h.ptr && bs.contains r.store)) }

/-! ### Copies for a carbon (R403) -/

/-- Whether a write to a block needs a copy of its storage. -/
def needsCopy (c : Cmd) (d : Nat) : Bool := c.tags.carbon != 0 && dScarb d != c.tags.carbon

/-- Copies held for a pool. -/
def State.copiesOf (s : State) (ctx pool : Nat) : Nat := (s.kvs.filter (fun r => r.ctx == ctx && r.pool == pool && r.old.isSome)).length

/-- Makes the copy: a free block is its storage, all 64 slots are copied, STORE and SCARB name it; the new descriptor. It waits while no
record or block is free. Parts of the slots may be read ahead of the step and written after it (R476). -/
def copyBlock (s : State) (cid : Nat) (c : Cmd) (h : PoolHdr) (b d : Nat) : Eng Nat :=
  if 4096 ≤ s.copiesOf c.tags.ctx h.ptr then .wait s
  else (findBlocks s cid c h 1).bind (fun r s => match r with
    | some [t] => (poolFront s cid c h (fun s => .ok () s)).bind (fun _ s => (readDesc s cid c h t).bind (fun dt s =>
      (cmdRead s cid c (h.slotAt (dStore d) 0) (64 * h.slotb) h.keep).bind (fun bs s =>
        let d' := putFld (putFld d 128 24 t) 104 8 c.tags.carbon
        (cmdWriteSlots s cid c [(h.slotAt t 0, bs)] [wDesc h t (putFld (putFld dt 87 1 1) 89 1 1), wDesc h b d'] h.keep).bind (fun w s =>
          .ok d' (raiseWct ((takeBlocks s c h [t] (fun _ => b) (some (dStore d))).modCmd cid (fun x => { x with wct := Nat.max x.wct w }))
            c.tid c.lid (if c.asLoad then w else 0))))))
    | _ => .wait s)

/-- A copy made in a step of its own, before the step that needs it; the act has then begun. -/
def copyFirst (s : State) (cid : Nat) (c : Cmd) (h : PoolHdr) (b d : Nat) (k : State → Eng Unit) : Eng Unit :=
  if needsCopy c d then (copyBlock s cid c h b d).bind (fun _ s =>
      .ok () (s.modCmd cid (fun x => { x with vals := if x.vals.isEmpty then [1] else x.vals, held := false, full := false, page := none, refused := none, lag := none })))
  else k s

/-! ### Acts on sequences (R392) -/

/-- The sequences that a command acts on: (context, pool, handle). -/
def actSeqs (s : State) (c : Cmd) : List (Nat × Nat × Nat) :=
  let key := fun (p q : Nat) => (c.tags.ctx, fld p 0 56, q)
  match c.instr with
  | .kvapp _ _ _ | .kvalloc _ _ _ | .bltabCreate _ _ _ | .bltabDestroy _ _ _ | .bltabRead _ _ _ | .kvsurvGet _ _ _ | .kvsurvClr _ _ _
  | .kvsurvSet _ _ _ | .pcatt _ _ _ => [key (c.f 0 64) (c.f 64 20)]
  | .kvfork _ _ _ => [key (c.f 0 64) (c.f 64 20), key (c.f 0 64) (c.f 96 32)]
  | .redact _ _ _ => [key (c.f 192 64) (((Tab.find (c.f 160 4) (((s.team c.tid).map Team.trees).getD [])).map Tree.seq).getD 0)]
  | _ => []

/-- Acts in progress on one of some sequences: those that have begun, and those with writes still to come. -/
def State.actRuns (s : State) (but : Nat) (qs : List (Nat × Nat × Nat)) : Bool :=
  s.cmds.any (fun e => e.1 != but && ((e.2.st == .run && !e.2.vals.isEmpty) || !e.2.late.isEmpty) && (actSeqs s e.2).any (fun q => qs.contains q))

/-- Whether an act may begin or go on: none other is in progress on its sequences, and no earlier act of its lane waits for one of them. -/
def State.actTurn (s : State) (cid : Nat) (c : Cmd) : Bool :=
  let qs := actSeqs s c
  !c.vals.isEmpty || (!s.actRuns cid qs && s.cmds.all (fun e => !(decide (e.2.accepted < c.accepted) && e.2.st == .run && e.2.tid == c.tid
    && e.2.lid == c.lid && e.1 != cid && (actSeqs s e.2).any (fun q => qs.contains q))))

/-! ### Checks (R394) -/

/-- Which of SEQ, ARG1, ARG2 and KEY a KV command uses. -/
def kvUses : Instr → Bool × Bool × Bool × Bool
  | .kvalloc _ _ _ | .bltabCreate _ _ _ | .bltabDestroy _ _ _ => (true, false, false, false)
  | .kvfree _ _ _ => (false, true, false, false)
  | .kvapp _ _ _ | .kvfork _ _ _ => (true, true, false, false)
  | .bltabRead _ _ _ => (true, false, true, false)
  | .kvsurvGet _ _ _ => (true, true, true, false)
  | .kvsurvClr _ _ _ | .kvsurvSet _ _ _ => (true, true, false, true)
  | .pcattIns _ _ _ | .pcevict _ _ _ => (false, true, false, true)
  | .pcatt _ _ _ => (true, true, false, true)
  | _ => (false, false, false, false)

def Cmd.kvSeq (c : Cmd) : Nat := c.f 64 20
def Cmd.kvArg (c : Cmd) : Nat := c.f 96 32
def Cmd.kvPad (c : Cmd) : Nat := c.f 128 32
def Cmd.kvKey (c : Cmd) : Nat := c.f 192 64

/-- BLOCK_RESERVED of a KV command. -/
def kvReserved (c : Cmd) : Bool :=
  let u := kvUses c.instr
  c.f 256 256 == 0 && c.f 160 32 == 0 && c.f 84 12 == 0 && (u.1 || c.kvSeq == 0) && (u.2.1 || c.kvArg == 0) && (u.2.2.1 || c.kvPad == 0)
    && (u.2.2.2 || c.kvKey == 0)

/-- LIMIT of a KV command, but for the list index of kvsurv. -/
def kvLimit (c : Cmd) (h : PoolHdr) : Bool :=
  (!(kvUses c.instr).1 || decide (c.kvSeq < h.nseq)) && (match c.instr with
    | .kvapp _ _ _ => decide (1 ≤ c.kvArg) && decide (c.kvArg ≤ 4096)
    | .kvfork _ _ _ => decide (c.kvArg < h.nseq)
    | .kvfree _ _ _ | .pcattIns _ _ _ | .pcevict _ _ _ | .pcatt _ _ _ => decide (c.kvArg < h.nblocks)
    | _ => true)

/-- LIMIT of kvsurv's list index, which lies below NBLK (R400). -/
def kvIndex (s : State) (cid : Nat) (c : Cmd) (h : PoolHdr) : Eng Unit :=
  match c.instr with
  | .kvsurvGet _ _ _ | .kvsurvClr _ _ _ | .kvsurvSet _ _ _ => (readSeq s cid c h c.kvSeq).bind (fun e s => need (decide (c.kvArg < e.2.1)) 0x21 s)
  | _ => .ok () s

/-- PAD_BOUNDS of a KV command. -/
def kvPadGood (s : State) (c : Cmd) : Bool :=
  match c.instr with
  | .bltabRead _ _ _ => c.kvPad % 16 == 0 && padIn (cmdPadb s c) c.kvPad 16
  | .kvsurvGet _ _ _ => c.kvPad % 8 == 0 && padIn (cmdPadb s c) c.kvPad 8
  | _ => true

/-! ### The commands (R395 to R402) -/

/-- The lines of an array of n bytes, from the lower array's to the higher's: (array, line), 512 bytes each. -/
def initLine (h : PoolHdr) (k : Nat) : Option (Bool × Nat) :=
  let nd := ceilDiv (32 * h.nblocks) 512
  let ns := ceilDiv (16 * h.nseq) 512
  let first := decide (fld h.desc 0 56 ≤ fld h.seqt 0 56)
  let a := if first then nd else ns
  let b := if first then ns else nd
  if k < a then some (first, k) else if k < a + b then some (!first, k - a) else none

/-- kvalloc.init (R395): one 512-byte line a step, then FREE. -/
def kvInit (s : State) (cid : Nat) (c : Cmd) (h : PoolHdr) : Eng Unit :=
  match initLine h c.step with
  | some (true, k) =>
    let bs := (upFrom (16 * k) (Nat.min 16 (h.nblocks - 16 * k))).flatMap (fun b => leBytes 32 (b * 2 ^ 128))
    (kvWrite s cid c h [(h.descAt (16 * k), bs)]).bind (fun _ s => .ok () (nextStep s cid id))
  | some (false, k) =>
    (kvWrite s cid c h [(h.seqAt (32 * k), leBytes (16 * Nat.min 32 (h.nseq - 32 * k)) 0)]).bind (fun _ s => .ok () (nextStep s cid id))
  | none => (kvWrite s cid c h [(ptrOn h.ptr 48, leBytes 4 h.nblocks)]).bind (fun _ s => .ok () (endCmd s cid 0 h.nblocks))

/-- kvalloc (R395). -/
def kvAllocStep (s : State) (cid : Nat) (c : Cmd) (h : PoolHdr) : Eng Unit :=
  (readSeq s cid c h c.kvSeq).bind (fun e s =>
    if !e.2.2 then .fail 0x28 0 s
    else if h.maxb ≤ e.2.1 then .fail 0x2C 0 s
    else poolFront s cid c h (fun s => (findBlocks s cid c h 1).bind (fun r s => match r with
      | some [b] => (readDesc s cid c h b).bind (fun d s =>
        (kvWrite s cid c h [wDesc h b (freshDesc d b c.tags.carbon 0), wList h c.kvSeq e.2.1 b e.1, wSeq h c.kvSeq e.1 (e.2.1 + 1) true]).bind
          (fun _ s => .ok () (endCmd (takeBlocks s c h [b] id none) cid 0 b)))
      | _ => .fail 0x2B 0 s)))

/-- A block's REF falls by 1; it is freed when it reaches 0 and the cache does not hold it (R396): whether it was. `ws` are further writes
of the step. -/
def releaseBlock (s : State) (cid : Nat) (c : Cmd) (h : PoolHdr) (b : Nat) : Eng (Nat × Bool) :=
  (readDesc s cid c h b).bind (fun d s =>
    if !dAlloc d ∨ dRef d = 0 then .fail 0x2E 0 s
    else
      let free := dRef d == 1 && !dCached d
      let d' := putFld d 64 16 (dRef d - 1)
      (kvWrite s cid c h [wDesc h b (if free then putFld d' 87 1 0 else d')]).bind (fun _ s =>
        .ok (dRef d - 1, free) (if free then giveBlocks s c h [b] else s)))

def kvFreeStep (s : State) (cid : Nat) (c : Cmd) (h : PoolHdr) : Eng Unit :=
  (releaseBlock s cid c h c.kvArg).bind (fun r s => .ok () (endCmd s cid 0 r.1))

/-- Blocks that an append of n slots needs beyond the room of the tail, 64 − FILL; a plain store may have set FILL above 64. -/
def moreBlocks (n fill : Nat) : Nat := ceilDiv (n + fill - 64) 64

/-- kvapp, step 0 (R397): checks and reservation. Its progress: first, NBLK, slots left, CUM so far. -/
def kvAppBegin (s : State) (cid : Nat) (c : Cmd) (h : PoolHdr) : Eng Unit :=
  let n := c.kvArg
  (readSeq s cid c h c.kvSeq).bind (fun e s =>
    if !e.2.2 then .fail 0x28 0 s
    else
      let tail : Eng (Nat × Nat) := if e.2.1 = 0 then .ok (64, 0) s
        else (readList s cid c h c.kvSeq (e.2.1 - 1)).bind (fun t s => (readDesc s cid c h t.1).bind (fun d s => .ok (dFill d, dRef d) s))
      tail.bind (fun t s =>
        let more := moreBlocks n t.1
        if h.maxb < e.2.1 + more then .fail 0x2C 0 s
        else poolFront s cid c h (fun s =>
          (findBlocks s cid c h (more + (if t.1 < 64 ∧ 1 < t.2 then 1 else 0))).bind (fun r s => match r with
            | none => .fail 0x2B 0 s
            | some bs => descFront s cid c h (fun s =>
              .ok () (nextStep (takeBlocks s c h bs id none) cid (fun x => { x with vals := [1, e.1, e.2.1, n, e.1], data := bs }))) bs))))

/-- The last step of kvapp: fresh blocks, CUM, LEN and NBLK; unused reservations are returned. -/
def kvAppEnd (s : State) (cid : Nat) (c : Cmd) (h : PoolHdr) (first nblk left cum : Nat) (res : List Nat) : Eng Unit :=
  let n := moreBlocks left 64
  let used := res.take n
  let ks := upFrom 0 n
  let fill := fun (k : Nat) => Nat.min 64 (left - 64 * k)
  ((used.foldl (fun (x : Eng (List Nat)) b => x.bind (fun ds s => (readDesc s cid c h b).bind (fun d s => .ok (ds ++ [d]) s))) (.ok [] s))).bind (fun ds s =>
    let ws := ((used.zip ds).zip ks).flatMap (fun e =>
      [wDesc h e.1.1 (freshDesc e.1.2 e.1.1 c.tags.carbon (fill e.2)), wList h c.kvSeq (nblk + e.2) e.1.1 (cum + Nat.min left (64 * (e.2 + 1)))])
    (kvWrite s cid c h (ws ++ [wSeq h c.kvSeq (first + c.kvArg) (nblk + n) true])).bind (fun _ s =>
      .ok () (endCmd (giveBlocks s c h (res.drop n)) cid 0 first)))

/-- Reads the slots of a storage block whose bits are given, one after another. -/
def readSlots (s : State) (cid : Nat) (c : Cmd) (h : PoolHdr) (t : Nat) (acc : List Byte) : List Nat → Eng (List Byte)
  | [] => .ok acc s
  | k :: r => (cmdRead s cid c (h.slotAt t k) h.slotb h.keep).bind (fun bs s => readSlots s cid c h t (acc ++ bs) r)

/-- The tail step of kvapp on a tail that is shared: the surviving slots go to a reserved block (R397). -/
def kvAppShared (s : State) (cid : Nat) (c : Cmd) (h : PoolHdr) (first nblk left cum tail d : Nat) (b : Nat) (rest : List Nat) : Eng Unit :=
  let live := (upFrom 0 64).filter (bit (dSurv d))
  (readSlots s cid c h (dStore d) [] live).bind (fun bytes s => (readDesc s cid c h b).bind (fun db s =>
    let f := live.length
    let k := Nat.min left (64 - f)
    (kvWrite s cid c h [wDesc h b (freshDesc db b c.tags.carbon (f + k)), wDesc h tail (putFld d 64 16 (dRef d - 1)),
      wList h c.kvSeq (nblk - 1) b (cum + k)] [(h.slotAt b 0, bytes)]).bind (fun _ s =>
      .ok () (nextStep s cid (fun x => { x with vals := [2, first, nblk, left - k, cum + k], data := rest })))))

/-- kvapp after its reservation. -/
def kvAppGo (s : State) (cid : Nat) (c : Cmd) (h : PoolHdr) : Eng Unit :=
  let first := nth 0 c.vals 1
  let nblk := nth 0 c.vals 2
  let left := nth 0 c.vals 3
  let cum := nth 0 c.vals 4
  if nth 0 c.vals 0 = 2 ∨ nblk = 0 then kvAppEnd s cid c h first nblk left cum c.data
  else (readList s cid c h c.kvSeq (nblk - 1)).bind (fun t s => (readDesc s cid c h t.1).bind (fun d s =>
    if 64 ≤ dFill d then kvAppEnd s cid c h first nblk left t.2 c.data
    else copyFirst s cid c h t.1 d (fun s =>
      if 1 < dRef d then
        let more := moreBlocks left (dFill d)
        if more < c.data.length then kvAppShared s cid c h first nblk left t.2 t.1 d (c.data.headD 0) c.data.tail
        else poolFront s cid c h (fun s => (findBlocks s cid c h 1).bind (fun r s => match r with
          | some [b] => descFront s cid c h (fun s =>
            .ok () ((takeBlocks s c h [b] id none).modCmd cid (fun x => { x with data := x.data ++ [b] }))) [b]
          | _ => .fail 0x2B 0 (giveBlocks s c h c.data)))
      else
        let k := Nat.min left (64 - dFill d)
        let d' := putFld (putFld d 0 64 (dSurv d ||| ((2 ^ k - 1) * 2 ^ dFill d))) 80 7 (dFill d + k)
        (kvWrite s cid c h [wDesc h t.1 d', wList h c.kvSeq (nblk - 1) t.1 (t.2 + k)]).bind (fun _ s =>
          .ok () (nextStep s cid (fun x => { x with vals := [2, first, nblk, left - k, t.2 + k] }))))))

/-- kvfork (R398): step k shares source entry k. -/
def kvForkStep (s : State) (cid : Nat) (c : Cmd) (h : PoolHdr) : Eng Unit :=
  (readSeq s cid c h c.kvSeq).bind (fun e s => (readSeq s cid c h c.kvArg).bind (fun x s =>
    if c.step = 0 ∧ (!e.2.2 ∨ !x.2.2 ∨ x.2.1 ≠ 0) then .fail 0x28 0 s
    else if e.2.1 ≤ c.step then .ok () (endCmd s cid 0 c.step)
    else (readList s cid c h c.kvSeq c.step).bind (fun t s => (readDesc s cid c h t.1).bind (fun d s =>
      if dRef d = 65535 then .fail 0x2D 0 s
      else (kvWrite s cid c h [wDesc h t.1 (putFld d 64 16 (dRef d + 1)), wList h c.kvArg c.step t.1 t.2,
          wSeq h c.kvArg t.2 (c.step + 1) true]).bind (fun _ s =>
        .ok () (if c.step + 1 < e.2.1 then nextStep s cid (fun y => { y with vals := [1] }) else endCmd s cid 0 (c.step + 1)))))))

/-- bltab (R399). -/
def bltabMake (s : State) (cid : Nat) (c : Cmd) (h : PoolHdr) : Eng Unit :=
  (readSeq s cid c h c.kvSeq).bind (fun e s =>
    if e.2.2 then .fail 0x28 0 s
    else (kvWrite s cid c h [wSeq h c.kvSeq 0 0 true]).bind (fun _ s => .ok () (endCmd s cid 0 0)))

def bltabEnd (s : State) (cid : Nat) (c : Cmd) (h : PoolHdr) : Eng Unit :=
  (readSeq s cid c h c.kvSeq).bind (fun e s =>
    if !e.2.2 then .fail 0x28 0 s
    else if c.step < e.2.1 then (readList s cid c h c.kvSeq c.step).bind (fun t s => (releaseBlock s cid c h t.1).bind (fun r s =>
      .ok () (nextStep s cid (fun x => { x with vals := [1, nth 0 x.vals 1 + b2n r.2] }))))
    else (kvWrite s cid c h [wSeq h c.kvSeq e.1 e.2.1 false]).bind (fun _ s => .ok () (endCmd s cid 0 (nth 0 c.vals 1))))

def bltabShow (s : State) (cid : Nat) (c : Cmd) (h : PoolHdr) : Eng Unit :=
  (cmdRead s cid c.fresh (h.seqAt c.kvSeq) 16 h.keep).bind (fun bs s => .ok () (endCmd (cmdPadWrite s cid c c.kvPad bs) cid 0 (fld (leNat bs) 32 32)))

/-- CUM of list entries k to nblk − 1 changed by a number: the writes. -/
def cumWrites (s : State) (cid : Nat) (c : Cmd) (h : PoolHdr) (q k nblk : Nat) (by_ : Int) (acc : List (Nat × List Byte)) : Nat → Eng (List (Nat × List Byte))
  | 0 => .ok acc s
  | n + 1 =>
    if nblk ≤ k then .ok acc s
    else (readList s cid c h q k).bind (fun t s => cumWrites s cid c h q (k + 1) nblk by_ (acc ++ [wList h q k t.1 (wrap 32 ((t.2 : Int) + by_))]) n)

/-- A block's SURV is changed, with CUM from its list entry on, and LEN. -/
def surviveWrite (s : State) (cid : Nat) (c : Cmd) (h : PoolHdr) (q k : Nat) (e : Nat × Nat × Bool) (b d surv : Nat) : Eng Unit :=
  let by_ : Int := (popCount 64 surv : Int) - popCount 64 (dSurv d)
  (cumWrites s cid c h q k e.2.1 by_ [] (e.2.1 + 1)).bind (fun ws s =>
    kvWrite s cid c h (wDesc h b (putFld d 0 64 surv) :: ws ++ [wSeq h q (wrap 32 ((e.1 : Int) + by_)) e.2.1 e.2.2]))

/-- kvsurv (R400): 0 get, 1 clr, 2 set. -/
def kvSurvStep (s : State) (cid : Nat) (c : Cmd) (h : PoolHdr) (op : Nat) : Eng Unit :=
  (readSeq s cid c h c.kvSeq).bind (fun e s =>
    if !e.2.2 then .fail 0x28 0 s
    else (readList s cid c h c.kvSeq c.kvArg).bind (fun t s => (readDesc s cid c h t.1).bind (fun d s =>
      if op = 0 then .ok () (endCmd (cmdPadWrite s cid c c.kvPad (leBytes 8 (dSurv d))) cid 0 (popCount 64 (dSurv d)))
      else if 1 < dRef d then .fail 0x2A 0 s
      else copyFirst s cid c h t.1 d (fun s =>
        let surv := if op = 1 then clearBits (dSurv d) c.kvKey else (dSurv d ||| (c.kvKey &&& (2 ^ dFill d - 1))) % 2 ^ 64
        (surviveWrite s cid c h c.kvSeq c.kvArg e t.1 d surv).bind (fun _ s => .ok () (endCmd s cid 0 (popCount 64 surv)))))))

/-- pcatt.ins (R401). -/
def pcInsStep (s : State) (cid : Nat) (c : Cmd) (h : PoolHdr) : Eng Unit :=
  (readDesc s cid c h c.kvArg).bind (fun d s =>
    if !dAlloc d ∨ dCached d then .fail 0x2E 0 s
    else (kvWrite s cid c h [wDesc h c.kvArg (putFld (putFld d 88 1 1) 192 64 c.kvKey)]).bind (fun _ s => .ok () (endCmd s cid 0 0)))

/-- pcatt (R401). -/
def pcAttStep (s : State) (cid : Nat) (c : Cmd) (h : PoolHdr) : Eng Unit :=
  (readSeq s cid c h c.kvSeq).bind (fun e s =>
    if !e.2.2 then .fail 0x28 0 s
    else if h.maxb ≤ e.2.1 then .fail 0x2C 0 s
    else (readDesc s cid c h c.kvArg).bind (fun d s =>
      if !dAlloc d ∨ !dCached d ∨ dKey d ≠ c.kvKey then .ok () (endCmd s cid 2 0)
      else if dRef d = 65535 then .fail 0x2D 0 s
      else copyFirst s cid c h c.kvArg d (fun s =>
        let n := popCount 64 (dSurv d)
        (kvWrite s cid c h [wDesc h c.kvArg (putFld d 64 16 (dRef d + 1)), wList h c.kvSeq e.2.1 c.kvArg (e.1 + n),
          wSeq h c.kvSeq (e.1 + n) (e.2.1 + 1) true]).bind (fun _ s => .ok () (endCmd s cid 0 (e.2.1 + 1))))))

/-- pcevict (R402). -/
def pcEvictStep (s : State) (cid : Nat) (c : Cmd) (h : PoolHdr) : Eng Unit :=
  (readDesc s cid c h c.kvArg).bind (fun d s =>
    if !dCached d ∨ dKey d ≠ c.kvKey then .ok () (endCmd s cid 2 0)
    else if 0 < dRef d then .ok () (endCmd s cid 1 0)
    else (kvWrite s cid c h [wDesc h c.kvArg (putFld (putFld d 88 1 0) 87 1 0)]).bind (fun _ s =>
      .ok () (endCmd (giveBlocks s c h [c.kvArg]) cid 0 0)))

/-- Whether a KV command waits at its first step for the frontier in any case (R404). -/
def kvWaits : Instr → Bool
  | .kvfree _ _ _ | .pcevict _ _ _ | .bltabDestroy _ _ _ => true
  | _ => false

/-- A step of a KV command. -/
def kvStep (s : State) (cid : Nat) (c : Cmd) : Eng Unit :=
  if !s.actTurn cid c then .wait s
  else if kvWaits c.instr && c.step == 0 && !cmdFront s c then holdCmd s cid
  else (poolHdr s cid c (c.f 0 64)).bind (fun h s =>
    if c.step = 0 ∧ !kvLimit c h then .fail 0x21 0 s
    else (kvIndex s cid c h).bind (fun _ s => if c.step = 0 ∧ !kvPadGood s c then .fail 0x22 0 s
    else match c.instr with
      | .kvallocInit _ _ _ => kvInit s cid c h
      | .kvalloc _ _ _ => kvAllocStep s cid c h
      | .kvfree _ _ _ => kvFreeStep s cid c h
      | .kvapp _ _ _ => if c.vals.isEmpty then kvAppBegin s cid c h else kvAppGo s cid c h
      | .kvfork _ _ _ => kvForkStep s cid c h
      | .bltabCreate _ _ _ => bltabMake s cid c h
      | .bltabDestroy _ _ _ => bltabEnd s cid c h
      | .bltabRead _ _ _ => bltabShow s cid c h
      | .kvsurvGet _ _ _ => kvSurvStep s cid c h 0
      | .kvsurvClr _ _ _ => kvSurvStep s cid c h 1
      | .kvsurvSet _ _ _ => kvSurvStep s cid c h 2
      | .pcattIns _ _ _ => pcInsStep s cid c h
      | .pcatt _ _ _ => pcAttStep s cid c h
      | .pcevict _ _ _ => pcEvictStep s cid c h
      | _ => .ok () s))

/-! ### redact (R387) -/

/-- Whether the PATH nodes form a chain from the committed context. -/
def pathGood (ns : List TNode) (path : List Nat) : Bool :=
  (path.zip (255 :: path)).all (fun e => (nth {} ns e.1).parent == e.2)

/-- The slots of positions in order, as numbers: list index, block, slot; none if one has none. -/
def allSlots (s : State) (cid : Nat) (c : Cmd) (h : PoolHdr) (q pos : Nat) (acc : List Nat) : Nat → Eng (Option (List Nat))
  | 0 => .ok (some acc) s
  | n + 1 => (kvSlot s cid c h q pos).bind (fun x s => match x with
    | none => .ok none s
    | some (k, b, i, _) => allSlots s cid c h q (pos + 1) (acc ++ [k * 2 ^ 40 + b * 64 + i]) n)

/-- The tree that is left: the path, renumbered. -/
def pathTree (t : Tree) (path : List Nat) : Tree :=
  { t with nodes := (path.zip (upFrom 0 path.length)).map (fun e =>
      { nth {} t.nodes e.1 with parent := if e.2 = 0 then 255 else e.2 - 1, depth := e.2 }) }

/-- A step of redact: first the slots of all nodes are found; then one block a step; last the tree is renumbered. -/
def redactStep (s : State) (cid : Nat) (c : Cmd) : Eng Unit :=
  match myTree s c c.trSlot with
  | none => .fail 0x24 0 s
  | some t =>
    let n := t.nodes.length
    let path := (upFrom 0 n).filter (fun i => bit (nth {} t.nodes i).flags 1)
    if !s.actTurn cid c then .wait s
    else if !pathGood t.nodes path then .fail 0x26 0 s
    else (poolHdr s cid c (c.f 192 64)).bind (fun h s =>
      if c.vals.isEmpty then
        (if h.nseq ≤ t.seq then Eng.fail 0x29 0 s else readSeq s cid c h t.seq).bind (fun e s =>
          if !e.2.2 ∨ e.1 < t.kv0 + n then .fail 0x29 0 s
          else (allSlots s cid c h t.seq t.kv0 [] n).bind (fun x s => match x with
            | none => .fail 0x29 0 s
            | some xs => .ok () (s.modCmd cid (fun c => { c with vals := [1], data := xs, page := none, refused := none }))))
      else
        let ks := distinct (c.data.map (· / 2 ^ 40))
        if ks.length ≤ c.step then .ok () (endCmd (s.setTree c.tid c.trSlot (pathTree t path)) cid 0 (n - path.length))
        else
          let k := nth 0 ks c.step
          let mine := (c.data.zip (upFrom 0 n)).filter (fun x => x.1 / 2 ^ 40 == k)
          let b := (mine.headD (0, 0)).1 % 2 ^ 40 / 64
          let mask := sumOf ((mine.filter (fun x => !path.contains x.2)).map (fun x => 2 ^ (x.1 % 64)))
          (readSeq s cid c h t.seq).bind (fun e s => (readDesc s cid c h b).bind (fun d s =>
            if 1 < dRef d then .fail 0x2A 0 s
            else copyFirst s cid c h b d (fun s =>
              (surviveWrite s cid c h t.seq k e b d (clearBits (dSurv d) mask)).bind (fun _ s => .ok () (nextStep s cid id))))))

/-! ### Acceptance and steps of class 0xA -/

/-- The checks at acceptance that do not depend on earlier commands. -/
def sequenceAccept (s : State) (cid : Nat) (c : Cmd) : State :=
  if isTree c.instr || kvReserved c then s else failCmd s cid c 0x20 0

/-- A step of a sequence command; a tree command's checks are made when its turn has come (R380). -/
def sequenceStep (s : State) (cid : Nat) (c : Cmd) : Eng Unit :=
  if !isTree c.instr then kvStep s cid c
  else if !s.treeTurn cid c then .wait s
  else match if c.step = 0 ∧ c.vals.isEmpty then treeCheck s c else none with
    | some cause => .fail cause 0 s
    | none => match c.instr with
      | .redact _ _ _ => redactStep s cid c
      | _ => treeStep s cid c

/-! ### kvx (R393) -/

/-- The command that a kvx would be: its reads are loads of its lane. -/
def kvxCmd (f : Flight) : Cmd :=
  { instr := .kvx ⟨false, 63⟩ false 0 ⟨0, false⟩ ⟨0, false⟩ ⟨0, false⟩, tid := f.tid, lid := f.lid, tags := f.tags, h := f.h, slot := f.slot,
    d := f.d, aoff := 0, b := 0, spec := false, asLoad := true, early := f.early, lag := f.lag }

/-- What a kvx finds: the 64-bit value, as the lane's view sees the pool; with WR the copy that a write needs is made. -/
def kvxFind (s : State) (fid : Nat) (c : Cmd) (ptr seq pos : Nat) (wr : Bool) : Eng Nat :=
  (poolHdr s fid c ptr).bind (fun h s =>
    (kvSlot s fid c h seq pos).bind (fun x s => match x with
    | none => .ok (2 ^ 64 - 1) s
    | some (_, b, i, d) =>
      (if wr && needsCopy c d then copyBlock s fid c h b d else Eng.ok d s).bind (fun d s => .ok (h.slotAt (dStore d) i) s)))

/-- The pages, but the first, at which the reads of a copy that a kvx makes fail: a pointer to each, and the cause (R393). -/
def kvxAlso (s : State) (fid : Nat) (c : Cmd) (ptr seq pos : Nat) (wr : Bool) : List (DWord × Nat) :=
  match (poolHdr s fid c ptr).bind (fun h s => (kvSlot s fid c h seq pos).bind (fun x s => .ok (h, x) s)) with
  | .ok (h, some (_, _, _, d)) s =>
    if !(wr && needsCopy c d) then []
    else (((piecesOf (h.slotAt (dStore d) 0) (64 * h.slotb)).filterMap (fun p => match cmdXl s fid c p.2.1 .rd p.2.2 h.keep with
      | .fail k a _ => if k = pendingPage then none else some (BitVec.ofNat 64 a, k)
      | .ok _ _ | .wait _ => none)).foldl (fun (l : List (DWord × Nat)) x =>
        if l.any (fun y => y.1.toNat / 2 ^ 16 == x.1.toNat / 2 ^ 16) then l else l ++ [x]) []).tail
  | _ => []

/-- What a kvx that has not found its value comes to: it waits for a version's place, for a version of a task to go or otherwise; a header
that breaks R388 gives poison; reads that fail mark the access, or wait for a service that is pending. `s` is the state before it. -/
def kvxMissed (s : State) (fid : Nat) (f : Flight) (also : List (DWord × Nat)) : Eng Nat → State
  | .ok _ _ => s
  | .wait t => match t.cmd fid with
    | none => s
    | some c => match c.edge with
      | some w => waitEdge s fid w f
      | none => if c.full then { s with flights := Tab.upd (fun x => { x with full := true }) fid s.flights } else s
  | .fail cause a t =>
    let t := { t with cmds := Tab.del fid t.cmds }
    if cause = pendingPage then setStage t fid (.page (a / 2 ^ 16))
    else if cause = 0x27 then setStage t fid .bad
    else
      let why := fun (k : Nat) => if f.refused && k == 1 then 2 else k
      { t with flights := Tab.upd (fun g => { g with
          stage := .fail (why cause), ptr := BitVec.ofNat 64 a, also := also.map (fun x => (x.1, why x.2)) }) fid t.flights }

/-- The command that stands for a kvx is no more once none of its writes is to come. -/
def kvxLeft (s : State) (fid : Nat) : State :=
  match s.cmd fid with
  | none => s
  | some c =>
    if c.late.isEmpty then { s with cmds := Tab.del fid s.cmds }
    else s.modCmd fid (fun c => { c with st := .ended 0 false, early := [], lag := none })

/-- A kvx that is ready is performed, unless an act on its sequence is in progress: its value waits to be delivered. Its reads and its copy
are those of a command that stands for it meanwhile. -/
def kvxNow (s : State) (fid : Nat) : State :=
  match Tab.find fid s.flights with
  | none => s
  | some f => match f.kind with
    | .kvx seq pos wr =>
      if !s.underWay f || s.actRuns 0 [(f.tags.ctx, eaVa f.ptr, seq)] then s
      else
        let c := kvxCmd f
        let t := { s with cmds := Tab.put fid c s.cmds }
        match kvxFind t fid c f.ptr.toNat seq pos wr with
        | .ok v t => setStage (kvxLeft t fid) fid (.got (BitVec.ofNat 64 v))
        | x => kvxMissed s fid f (kvxAlso t fid c f.ptr.toNat seq pos wr) x
    | _ => s

/-- A part of the slots that a kvx is found to copy is read ahead of the copy (R393, R476). -/
def kvxAhead (s : State) (fid at_ n : Nat) : State :=
  match Tab.find fid s.flights with
  | none => s
  | some f => match f.kind with
    | .kvx seq pos true =>
      if !s.underWay f || s.actRuns 0 [(f.tags.ctx, eaVa f.ptr, seq)] || ((kvxCmd f).ahead false at_ n).isSome then s
      else match translateOr s (clusterOf f.tags.core) f.tags.ctx at_ .rd n with
        | (.ok pa leaf _, s') => match readOr s' f.tags leaf pa n with
          | .ok (bs, s') =>
            let c := { kvxCmd f with early := [(false, at_, bs)] }
            match kvxFind { s' with cmds := Tab.put fid c s'.cmds } fid c f.ptr.toNat seq pos true with
            | .ok _ t => if ((t.cmd fid).map Cmd.used).getD false then
                { s' with flights := Tab.put fid { f with early := f.early ++ [(false, at_, bs)] } s'.flights } else s
            | .wait _ | .fail _ _ _ => s
          | .error _ => s
        | (.fail _ _, _) => s
    | _ => s

/-- The slots that a kvx copies are to be written after it (R393, R476). -/
def kvxLag (s : State) (fid unit : Nat) : State :=
  match Tab.find fid s.flights with
  | none => s
  | some f => match f.kind with
    | .kvx _ _ true => { s with flights := Tab.put fid { f with lag := some unit } s.flights }
    | _ => s

/-- The accesses of a kvx word that fail are recorded together (R184, R393). -/
def kvxFailed (s : State) (fid : Nat) : Bool :=
  match (Tab.find fid s.flights).map Flight.stage with
  | some (.fail _) => true
  | _ => false

/-- kvx for one lane: poison is delivered for a poisoned operand, POOL_ALIGN is raised, else the access is on its way. -/
def kvxAct (i : Instr) (wr : Bool) (s : State) (w : WordCtx) (e : Ent) (a b c : Val) : Act × State :=
  if a.poison || b.pl || c.pl then deliverLater s w e i ⟨0, 0, true, true⟩
  else if a.d.toNat % 4096 ≠ 0 then (.trap 0xB2 a.lo, s)
  else (oweD s i e, launch s (flightOf s w e i (.kvx b.lo.toNat c.lo.toNat wr) a.d))

/-- The accesses of a word just issued whose reads fail at once, found without any other effect. -/
def kvxProbe (s : State) (first : Nat) : State :=
  (s.flights.filter (fun e => decide (first ≤ e.1))).foldl (fun s e =>
    let t := kvxNow s e.1
    if kvxFailed t e.1 then t else s) s

/-- A word of kvx: the lanes' accesses, then the records of those whose reads fail. -/
def runKvx (s : State) (i : Instr) (wr : Bool) : State :=
  match s.wordCtx with
  | none => s
  | some w => postLoads (kvxProbe (runSeq s i (fun s w e a b c => kvxAct i wr s w e a b c)) s.ids) w.group.tid w.core

def execKvx (g : Guard) (wr : Bool) (d : Code) (a b c : Src) (s : State) : Host.Outcome State Fault Refusal :=
  finish (runKvx s (.kvx g wr d a b c) wr)

end Sys2Proof.Machine
end

