-- ==== Sys2Proof/Machine/Sorting.lean ====
section
/-! DEFINITION. Sorting.lean: the sorting office (R327 to R371): the meanings of class 0x9 and of its events. -/

namespace Sys2Proof.Machine

open Sys2Proof

/-! ### Words of format R (R365 to R369) -/

/-- abrt (R365): the last lane that executes it sets ACODE, and the task aborts; with KILL it ends. No lane of the group goes on to a next
PC; one that does not execute the word may still wait or trap at it. -/
def abrtRun (s : State) (g : Guard) (kl : Bool) (a : Src) : State :=
  let i : Instr := .abrt g kl a
  match s.wordCtx with
  | none => s
  | some w => match s.task w.team.lseq, (executing s w i).getLast? with
    | none, _ => runSeq s i (fun s _ _ _ _ _ => (.trap 0xA1 0, s))
    | some _, none => runSeq s i (fun s _ _ _ _ _ => (.off, s))
    | some _, some x =>
      if kl && mustPark s w then runSeq s i (fun s _ _ _ _ _ => (.park, s))
      else
        let s := s.modTask w.team.lseq (fun t => { t with acode := x.a.lo })
        abortTasks (settle s w i (w.ents.map (fun e => (e, match gate s w i e with
          | .go _ _ _ | .off => .leave e.lane
          | .trap c n => .trap c n
          | .block rs => .block (.regs rs))))) [w.team.lseq] kl

def execAbrt (g : Guard) (kl : Bool) (a : Src) (s : State) : Host.Outcome State Fault Refusal := finish (abrtRun s g kl a)

/-- frq's value (R366). -/
def frqVal (s : State) (w : WordCtx) (which : FrqSel) : Val :=
  match which with
  | .atF => .w (b2w (s.atFront w.core w.team.lseq)) false
  | .pm => .dw (match s.frontCopy w.core w.grid.ctx with
    | none => BitVec.allOnes 64
    | some (p, _) => BitVec.ofNat 64 p) false
  | .seq => .dw (match s.frontCopy w.core w.grid.ctx with
    | none => BitVec.allOnes 64
    | some (_, l) => BitVec.ofNat 64 l) false

def execFrq (g : Guard) (which : FrqSel) (d : Code) (s : State) : Host.Outcome State Fault Refusal :=
  finish (runWord s (.frq g which d) (fun w _ _ _ _ => .put (frqVal s w which)))

/-- The code of a task's state (R329). -/
def taskCode (s : State) (core lseq : Nat) (t : Task) : Nat :=
  match t.st with
  | .held => 0
  | .running => if s.atFront core lseq then 2 else 1
  | .finished => 3
  | .committed => 4
  | .aborted => 5

/-- A task's entry and its carbon's depth as a core's copy has them (R367): a copy is of one launch, and as the table where none is listed. -/
def State.taskSeen (s : State) (core lseq : Nat) (t : Task) : Task × Nat :=
  match firstWith (fun (k : TaskCopy) => k.lseq == lseq && k.entry.relaunch == t.relaunch) (s.core core).copies with
  | some k => (k.entry, k.depth)
  | none => (t, s.depthOf t.ctx t.carbon)

/-- A core's copy of a task's entry stays as it stands, or follows the table from now on (assumption log 116). -/
def copyTask (s : State) (core lseq : Nat) (stays : Bool) : State :=
  match s.task lseq with
  | none => s
  | some t => s.modCore core (fun c => { c with copies := c.copies.filter (fun k => k.lseq != lseq && (s.task k.lseq).isSome)
      ++ (if stays then [⟨lseq, (s.taskSeen core lseq t).1, (s.taskSeen core lseq t).2⟩] else []) })

/-- tsq's word (R367), of the core's copy of the entry; whether the task stands at the frontier is the core's copy of that (R330). -/
def taskWord (s : State) (w : WordCtx) : Word :=
  match s.task w.team.lseq with
  | none => BitVec.ofNat 32 (7 * 2 ^ 29)
  | some t =>
    let (t, depth) := s.taskSeen w.core w.team.lseq t
    BitVec.ofNat 32 (taskCode s w.core w.team.lseq t * 2 ^ 29 + Nat.min 15 t.relaunch * 2 ^ 25 + b2n t.holdm * 2 ^ 24
      + t.edges.length * 2 ^ 20 + depth * 2 ^ 16 + t.idx)

def execTsq (g : Guard) (d : Code) (s : State) : Host.Outcome State Fault Refusal :=
  finish (runWord s (.tsq g d) (fun w _ _ _ _ => .put (.w (taskWord s w) false)))

/-- edges' word (R369). -/
def edgesWord (s : State) (lseq : Nat) : Word :=
  match s.task lseq with
  | none => 0
  | some t => BitVec.ofNat 32 (t.edges.length + Nat.min 0xFFFFFF t.edgeWaits * 2 ^ 8)

def execEdges (g : Guard) (d : Code) (s : State) : Host.Outcome State Fault Refusal :=
  finish (runWord s (.edges g d) (fun w _ _ _ _ => .put (.w (edgesWord s w.team.lseq) false)))

/-! ### The commands' words (R360) -/

def execFork (g : Guard) (d a : Code) (s : State) : Host.Outcome State Fault Refusal := finish (runCmd s (.fork g d a) false)
def execSeal (g : Guard) (d a b : Code) (s : State) : Host.Outcome State Fault Refusal := finish (runCmd s (.seal g d a b) false)
def execShred (g : Guard) (d a b : Code) (s : State) : Host.Outcome State Fault Refusal := finish (runCmd s (.shred g d a b) false)
def execDecl (g : Guard) (d a : Code) (s : State) : Host.Outcome State Fault Refusal := finish (runCmd s (.decl g d a) false)
def execVerq (g : Guard) (d a : Code) (s : State) : Host.Outcome State Fault Refusal := finish (runCmd s (.verq g d a) false)

/-! ### The commands' effects (R363, R364, R368, R370) -/

/-- Whether a grid stands at the frontier as the office has it; a plain one does. -/
def State.atFrontNow (s : State) (lseq : Nat) : Bool :=
  match s.task lseq with
  | none => true
  | some t => t.carbon == 0 && s.frontier t.ctx == some (t.postmark, lseq)

/-- The lowest free carbon number of a context (R352). -/
def State.freeCarbon (s : State) (ctx : Nat) : Option Nat :=
  lowest (fun k => (s.carbon ctx k).isNone && !s.tasks.any (fun e => e.2.ctx == ctx && e.2.acts.any (fun a => a.1 == k))) 1 255

/-- fork (R363). With fewer than 255 live carbons and no number of the context free it fails with CARBON_FULL (assumption log 131). -/
def forkStep (s : State) (cid : Nat) (c : Cmd) : Eng Unit :=
  let ctx := c.tags.ctx
  let p := c.f 0 48
  let lseq := cmdLseq s c
  let k := s.carbonOf lseq
  if c.f 48 464 ≠ 0 then .fail 0x20 0 s
  else if k ≠ 0 ∧ (s.carbon ctx k).isNone then .fail 0x24 0 s
  else if s.depthOf ctx k = 8 ∨ 255 ≤ s.carbons.length then .fail 0x25 0 s
  else if (match s.task lseq with
      | some t => decide (p ≤ t.postmark)
      | none => false) || (match s.carbon ctx k with
      | some x => decide (p < x.postmark)
      | none => false) then .fail 0x26 0 s
  else match s.freeCarbon ctx with
    | none => .fail 0x25 0 s
    | some n =>
      let d := s.depthOf ctx k + 1
      let x : Carbon := { ctx := ctx, num := n, parent := k, postmark := p, depth := d, owner := if (s.task lseq).isSome then some lseq else none }
      .ok () (endCmd { s with carbons := s.carbons ++ [x] } cid 0 (d * 2 ^ 8 + n))

/-- The pending acts of a task take effect, in the order in which they were accepted (R331, R357). -/
def takeActs (s : State) (ctx : Nat) (acts : List (Nat × Bool)) : State :=
  acts.foldl (fun s a => if a.2 then applySeal s ctx a.1 else applyShred s ctx a.1) s

/-- The commit of a task (R331, R332). -/
def commitTask (s : State) (lseq : Nat) (t : Task) : State :=
  let vs := s.versions.filter (fun v => v.ctx == t.ctx && v.writer == Writer.task lseq)
  let l := maxOf (vs.map (fun v => if v.cells.isEmpty then 0 else s.leaseMax (v.line * 512)))
  let w := Nat.max (Nat.max s.now l + 1) (s.ctx t.ctx).cwct
  let s := vs.foldl foldVersion s
  let s := { s with
    versions := s.versions.filter (fun v => !(v.ctx == t.ctx && v.writer == Writer.task lseq))
    tasks := s.tasks.map (fun (e : Nat × Task) => (e.1, { e.2 with edges := e.2.edges.filter (· != Writer.task lseq) }))
    carbons := s.carbons.map (fun (x : Carbon) => if x.ctx = t.ctx ∧ x.owner = some lseq then { x with owner := none } else x) }
  let s := s.modTask lseq (fun u => { u with st := .committed, cwct := w, acts := [], edges := [] })
  let s := s.modCtx t.ctx (fun c => { c with cwct := w, commitCyc := s.cyc + 1 })
  takeActs (foldFab (kvCommit s lseq) t.ctx lseq) t.ctx t.acts

/-- TASK_COMMIT (R331): the frontier's task, once finished; one for each context in a cycle. -/
def commitNow (s : State) (ctx : Nat) : State :=
  match s.frontier ctx with
  | none => s
  | some (_, lseq) => match s.task lseq with
    | none => s
    | some t =>
      if t.st == .finished && (s.ctx ctx).fault.isNone && (s.ctx ctx).commitCyc != s.cyc + 1 then commitTask s lseq t else s

/-- What takes effect before an act on a carbon that is accepted now: of two acts on it in one cycle the one accepted first stands (R371). A
pending act of a task that is finished and at the frontier takes effect in this cycle, at its commit (R331); one of another task in a later
cycle than this act (assumption log 119). -/
def pendingFirst (s : State) (ctx k : Nat) : State :=
  let names := fun (t : Task) => t.acts.any (fun a => a.1 == k)
  let due := match s.frontier ctx with
    | some (_, lseq) => ((s.task lseq).map names).getD false
    | none => false
  let s := if due then commitNow s ctx else s
  if s.tasks.any (fun e => e.2.ctx == ctx && names e.2) then s.modCtx ctx (fun c => { c with commitCyc := s.cyc + 1 }) else s

/-- seal and shred at their acceptance (R357, R364). -/
def sealAct (s : State) (cid : Nat) (c : Cmd) (isSeal : Bool) : Eng Unit :=
  let ctx := c.tags.ctx
  let lseq := cmdLseq s c
  let k := c.b.toNat
  let own := s.carbonOf lseq
  if k = 0 ∨ 255 < k then .fail 0x21 0 s
  else match s.carbon ctx k with
    | none => .fail 0x24 0 s
    | some x =>
      if !(if isSeal then x.parent == own else s.above ctx own k 9) then .fail 0x24 0 s
      else if s.atFrontNow lseq then
        let s := pendingFirst (endCmd s cid 0 1) ctx k
        .ok () (if isSeal then applySeal s ctx k else applyShred s ctx k)
      else .ok () (endCmd (s.modTask lseq (fun t => { t with acts := t.acts ++ [(k, isSeal)] })) cid 0 0)

/-- Entries of a task's set that are in use, with those that decl commands not yet complete are to fill (R368). -/
def State.setUsed (s : State) (lseq : Nat) (t : Task) (k : Nat) : Bool :=
  decide (0 < (nth ⟨0, 0⟩ t.sets k).len) || s.cmds.any (fun e => match e.2.instr with
    | .decl _ _ _ => cmdLseq s e.2 == lseq && e.2.st != .run && e.2.vals == [k]
    | _ => false)

/-- decl (R368): the range is added when D is filled. -/
def declStep (s : State) (cid : Nat) (c : Cmd) : Eng Unit :=
  let lseq := cmdLseq s c
  let r : DRange := ⟨c.f 0 56, c.f 64 32⟩
  match s.task lseq with
  | none => .fail 0x23 0 s
  | some t =>
    if c.f 56 8 ≠ 0 ∨ c.f 97 415 ≠ 0 then .fail 0x20 0 s
    else if r.len < 512 ∨ r.len % 512 ≠ 0 ∨ r.base % 512 ≠ 0 ∨ 2 ^ 56 < r.base + r.len then .fail 0x28 0 s
    else match lowest (fun k => !s.setUsed lseq t k) (4 * c.f 96 1) 4 with
      | none => .fail 0x27 0 s
      | some k => .ok () (endCmd (s.modCmd cid (fun c => { c with vals := [k] })) cid 0 k)

/-- What the fill of D of a decl does (R368). -/
def declFill (s : State) (c : Cmd) : State :=
  match c.instr, c.vals with
  | .decl _ _ _, [k] => s.modTask (cmdLseq s c) (fun t => { t with sets := setAt t.sets k ⟨c.f 0 56, c.f 64 32⟩ })
  | _, _ => s

/-- The latest speculative writer of a line in a task's view: its key and carbon. -/
def State.lastWriter (s : State) (lseq line : Nat) : Option (Nat × Nat × Nat) :=
  match s.task lseq with
  | none => none
  | some t => (s.seen (lseq, t) line).foldl (fun (m : Option (Nat × Nat × Nat)) v =>
      if v.2.2.cells.isEmpty then m
      else
        let x := (v.1, v.2.1, s.carbonOf v.2.1)
        match m with
        | none => some x
        | some b => if keyLt (b.1, b.2.1) (x.1, x.2.1) then some x else some b) none

/-- verq's record (R370). -/
def verqRec (s : State) (lseq ctx line : Nat) : Nat :=
  let vs := s.versions.filter (fun v => v.line == line)
  let w := s.lastWriter lseq line
  let own := (s.versionOf ctx line (.task lseq)).isSome
  let sig := match s.task lseq with
    | some t => t.sig.contains (sigBit line)
    | none => false
  (recOf [(208, (w.map (fun x => x.1)).getD 0), (200, (w.map (fun x => x.2.2)).getD 0), (128, (w.map (fun x => x.2.1)).getD 0),
    (120, 1 + (vs.filter (fun v => !v.spilled)).length), (96, Nat.min 0xFFFFFF (vs.filter (fun v => v.spilled)).length),
    (2, b2n own), (1, b2n sig), (0, b2n w.isSome)]).toNat

/-- verq (R370): the line is translated as a load: the dead-letter window is as an uncached page (R186), and service pending is waited for
(R179), whose refusal fails it as it fails any access that waits; no page is requested. -/
def verqStep (s : State) (cid : Nat) (c : Cmd) : Eng Unit :=
  let off := c.f 64 32
  if c.f 96 416 ≠ 0 then .fail 0x20 0 s
  else if off % 32 ≠ 0 ∨ !padIn (cmdPadb s c) off 32 then .fail 0x22 0 s
  else if c.f 56 4 = 0 ∧ (s.window c.tags.ctx (c.f 0 56)).isSome then .ok () (endCmd (cmdPadWrite s cid c off (leBytes 32 (2 ^ 120))) cid 0 0)
  else if c.f 56 4 = 0 ∧ (s.svc c.tags.ctx (s.pageAt c.tags.ctx (c.f 0 64))).isSome then
    .wait (s.modCmd cid (fun x => { x with page := some (s.pageAt c.tags.ctx (c.f 0 64)), keep := pagesIn (piecesOf (c.f 0 64) 1) }))
  else match translate s (clusterOf c.tags.core) c.tags.ctx (c.f 0 64) .rd 1 with
    | (.fail k _, s) => .fail (if k = 1 ∧ c.refused = some (s.pageAt c.tags.ctx (c.f 0 64)) then 2 else k) (c.f 0 56) s
    | (.ok pa leaf _, s) =>
      let r := if leafVersioned leaf then verqRec s (cmdLseq s c) c.tags.ctx (pa / 512) else 2 ^ 120
      .ok () (endCmd (cmdPadWrite s cid c off (leBytes 32 r)) cid 0 0)

/-- What the office does at the acceptance of a command (R357). -/
def officeAccept (s : State) (cid : Nat) (c : Cmd) : State :=
  match c.instr with
  | .seal _ _ _ _ => runStep cid c (sealAct s cid c true)
  | .shred _ _ _ _ => runStep cid c (sealAct s cid c false)
  | _ => s

/-- A step of a class 0x9 command. -/
def officeStep (s : State) (cid : Nat) (c : Cmd) : Eng Unit :=
  match c.instr with
  | .fork _ _ _ => forkStep s cid c
  | .decl _ _ _ => declStep s cid c
  | .verq _ _ _ => verqStep s cid c
  | _ => .ok () s

/-! ### Events -/

/-- HOLD_RELEASE (R329, R336). -/
def holdDone (s : State) (lseq : Nat) : State :=
  match s.task lseq with
  | none => s
  | some t =>
    if t.st == .held && !t.deps.any s.holds then
      (s.modTask lseq (fun t => { t with st := .running })).modGrid lseq (fun g => { g with joined := s.now })
    else s

def execHoldRelease (lseq : Nat) (s : State) : Host.Outcome State Fault Refusal := finish (holdDone s lseq)

/-- VERSION_FOLD (R329). -/
def foldDone (s : State) (lseq : Nat) : State :=
  match s.task lseq with
  | none => s
  | some t => if t.st == .committed then { s with tasks := Tab.del lseq s.tasks } else s

def execVersionFold (lseq : Nat) (s : State) : Host.Outcome State Fault Refusal := finish (foldDone s lseq)

/-- TASK_RELAUNCH (R329, R337): a teardown completes, and the task ends or is launched again. -/
def relaunchTask (s : State) (lseq : Nat) : State :=
  match s.task lseq with
  | none => s
  | some t =>
    if t.st != .aborted then s
    else if t.ends then { s with tasks := Tab.del lseq s.tasks }
    else
      let n := if t.uncounted then t.relaunch else t.relaunch + 1
      let u := { t with
        relaunch := n, launch := t.launch + 1, holdm := !(t.guess && decide (n < 8)), sig := [], edges := [], edgeWaits := 0, acts := []
        sets := t.sets0, uncounted := false }
      let s := s.modTask lseq (fun _ => s.launched lseq u)
      s.modGrid lseq (fun g => { g with next := 0, ended := 0, returned := 0, statWct := 0, full := false, joined := s.now })

def execTaskRelaunch (lseq : Nat) (s : State) : Host.Outcome State Fault Refusal := finish (relaunchTask s lseq)

/-- FRONTIER_UPDATE (R330): a core's copy takes the frontier. -/
def frontUpdate (s : State) (core ctx : Nat) : State :=
  s.modCore core (fun c => { c with front := c.front.filter (fun f => f.ctx != ctx) ++ [⟨ctx, s.frontier ctx⟩] })

def execFrontierUpdate (core ctx : Nat) (s : State) : Host.Outcome State Fault Refusal := finish (frontUpdate s core ctx)

/-- A parked lane is taken up (R349, R437). -/
def takeUp (s : State) (tid lid : Nat) : State :=
  match s.lane tid lid with
  | none => s
  | some l =>
    if l.exited || l.halted.isSome then s
    else match l.parked with
      | none => s
      | some .act => fileFree (s.modLane tid lid (fun l => { l with parked := none })) tid lid
      | some (.halt r) => haltLane (s.modLane tid lid (fun l => { l with parked := none })) tid lid r []
      | some (.trap t) => deliverTrap (s.modLane tid lid (fun l => { l with parked := none })) tid lid { t with cause := t.cause ||| 0x4000 }

/-- The parked lanes of a task's teams on cores at which it stands at the frontier, those with traps in the order of R103. -/
def parkedLanes (s : State) (lseq : Nat) : List (Nat × Nat) :=
  let ts := s.teams.filter (fun e => e.2.lseq == lseq && (match e.2.running with
    | some (c, _) => s.atFront c lseq
    | none => false))
  let key := fun (x : Nat × Nat × Lane) => (match x.2.2.parked with
    | some (.trap t) => t.h.toNat
    | _ => 0) * 2 ^ 10 + x.2.1
  ts.flatMap (fun e => (sortBy key (((upFrom 0 e.2.lanes.length).filter (fun k => (nth {} e.2.lanes k).parked.isSome)).map
    (fun k => (e.1, k, nth {} e.2.lanes k)))).map (fun x => (x.1, x.2.1)))

/-- PARK_TAKE_UP (R349). -/
def parkUp (s : State) (lseq : Nat) : State := (parkedLanes s lseq).foldl (fun s x => takeUp s x.1 x.2) s

def execParkTakeUp (lseq : Nat) (s : State) : Host.Outcome State Fault Refusal := finish (parkUp s lseq)

/-- Whether a write of a task waits for a version's place (R342): of a command, of a lane, or a store that the dispatch engine makes for it. -/
def State.waitsPlace (s : State) (lseq : Nat) (t : Task) : Bool :=
  s.cmds.any (fun e => e.2.full && cmdLseq s e.2 == lseq) || (s.grid lseq).any Grid.full
    || s.flights.any (fun e => e.2.tags.task == some (lseq, t.launch) && (e.2.full || (e.2.kind.isWrite && e.2.stage == .ready
      && leafVersioned e.2.leaf.toNat && (s.versionOf t.ctx (e.2.pa / 512) (.task lseq)).isNone
      && (s.versionPlace t.ctx (e.2.pa / 512)).isNone)))

/-- VERSION_SPACE_ABORT (R342). -/
def spaceAbort (s : State) (ctx : Nat) : State :=
  match s.frontier ctx with
  | none => s
  | some (_, lseq) => match s.task lseq with
    | none => s
    | some t =>
      if !s.waitsPlace lseq t then s
      else
        let cand := s.tasks.filter (fun e => e.1 != lseq && e.2.ctx == ctx && e.2.st != .committed && e.2.st != .aborted
          && s.versions.any (fun v => v.ctx == ctx && v.spilled && v.writer == .task e.1))
        match leastBy (fun (e : Nat × Task) => 2 ^ 112 - (e.2.postmark * 2 ^ 64 + e.1)) cand with
        | none => s
        | some v => (abortTasks s [v.1] false).modTask v.1 (fun t => { t with uncounted := true })

def execVersionSpaceAbort (ctx : Nat) (s : State) : Host.Outcome State Fault Refusal := finish (spaceAbort s ctx)

end Sys2Proof.Machine
end

