-- ==== Sys2Proof/Machine/Commands.lean ====
section
/-! DEFINITION. Commands.lean: the operations that every engine command goes through (R15, R19, R27, R32): acceptance, steps, the resumption of an
irrevocable step, completion. -/

namespace Sys2Proof.Machine

open Sys2Proof

/-- What an engine does when it accepts a command. -/
def engineAccept (s : State) (cid : Nat) (c : Cmd) : State :=
  match c.cls with
  | 4 => copyAccept s cid c
  | 7 => matrixAccept s cid c
  | 8 => selectAccept s cid c
  | 9 => officeAccept s cid c
  | 10 => sequenceAccept s cid c
  | 11 => fabricAccept s cid c
  | _ => s

/-- COMMAND_ACCEPTANCE (R15): the engine takes a command, in the lane's order of issue, and a copy of its block. -/
def acceptNow (s : State) (cid : Nat) : State :=
  let s := rejoin s cid
  match s.cmd cid with
  | none => s
  | some c =>
    if c.st != .queued || c.suspended || c.lost s || !s.acceptTurn cid c || engineFull s c || s.ldpBefore cid c then s
    else
      let c := captured s c
      engineAccept { s.modCmd cid (fun _ => c) with ids := s.ids + 1 } cid c

def execCommandAcceptance (cmd : Nat) (s : State) : Host.Outcome State Fault Refusal := finish (acceptNow s cmd)

/-- A step of the engine of a command's class. -/
def engineStep (s : State) (cid : Nat) (c : Cmd) : Eng Unit :=
  match c.cls with
  | 4 => copyStep s cid c
  | 5 => holeStep s cid c
  | 6 => dispatchStep s cid c
  | 7 => matrixStep s cid c
  | 8 => selectStep s cid c
  | 9 => officeStep s cid c
  | 10 => sequenceStep s cid c
  | 11 => fabricStep s cid c
  | _ => controlStep s cid c

/-- Whether a command may perform its next step: it waits for no page, not for the frontier and for no reader edge, its context stands, and no
earlier command of its lane to the pigeonhole engine is still to step and no earlier ldp of the lane still to arrive at the point that it names,
since a lane's acts on an object keep their order (R226). -/
def State.mayStep (s : State) (cid : Nat) (c : Cmd) : Bool :=
  c.st == .run && !c.suspended && !c.held && c.page.isNone && !c.lost s
    && !((c.edge.map (s.edgeHeld c.tags.ctx)).getD false)
    && (c.cls != 5 || (s.cmds.all (fun e => !(decide (e.1 < cid) && e.2.tid == c.tid && e.2.lid == c.lid && e.2.cls == 5
        && (e.2.st == .queued || e.2.st == .run))) && s.flights.all (fun e => !(decide (e.1 < cid) && e.2.tid == c.tid && e.2.lid == c.lid && (match e.2.kind with
        | .ldp _ pt => c.b == pointHandle pt
        | _ => false)))))

/-- Performs a command's next step. -/
def stepNow (s : State) (cid : Nat) : State :=
  let s := rejoin s cid
  match s.cmd cid with
  | none => s
  | some c => if s.mayStep cid c then runStep cid c (engineStep s cid c) else s

/-- Whether reads of a command's step may be performed before it and its writes after it: the data commands, the matrix engine's, the select
engine's but hook, and the sequence engine's, of which these are the slots and the records of a tree that it moves and no structure that it
changes in one indivisible step (R476). -/
def stepDivides (i : Instr) : Bool :=
  (dataForm i).isSome || i.cls == some 7 || i.cls == some 10 || (match i with
    | .topk _ _ _ _ _ | .selm _ _ _ _ _ | .sdraw _ _ _ _ _ _ _ _ | .hist _ _ _ _ _ | .fstm _ _ _ => true
    | _ => false)

/-- Whether a command, run on alone for some steps, comes to one that uses what it has read ahead. -/
def comesToUse (s : State) (cid : Nat) : Nat → Bool
  | 0 => match (s.cmd cid).map (engineStep s cid) with
    | some (.ok _ t) | some (.wait t) | some (.fail _ _ t) => ((t.cmd cid).map Cmd.used).getD false
    | none => false
  | n + 1 => match (s.cmd cid).map (engineStep s cid) with
    | some (.ok _ t) => comesToUse (t.modCmd cid (fun c => { c with used := false })) cid n
    | some (.wait _) | some (.fail _ _ _) | none => false

/-- A read of a coming step of a command is performed before the step (R202, R476): an aligned pad word, or a part of a global access that the
step is found to make. A data command may read for any later step; the others for the next; a kvx, of what it copies. -/
def readAhead (s : State) (cid ahead : Nat) (pad : Bool) (at_ n : Nat) : State :=
  match s.cmd cid with
  | none => if pad then s else kvxAhead s cid at_ n
  | some c =>
    if !s.mayStep cid c || !stepDivides c.instr || (c.ahead pad at_ n).isSome || (c.cls == 7 && !s.coreTurn cid c)
        || (decide (0 < ahead) && (dataForm c.instr).isNone) then s
    else
      let note := fun (bs : List Byte) (c : Cmd) => { c with early := c.early ++ [(pad, at_, bs)] }
      if pad then
        if at_ % 4 = 0 ∧ n = 4 then s.modCmd cid (note (((s.team c.tid).map (fun t => padSeen t c at_ 4)).getD [])) else s
      else match translateOr s (clusterOf c.tags.core) c.tags.ctx at_ .rd n with
        | (.ok pa leaf _, s') => match readOr s' c.tags leaf pa n with
          | .ok (bs, s') =>
            if comesToUse (s'.modCmd cid (fun c => { c with early := [(false, at_, bs)], used := false })) cid ahead then s'.modCmd cid (note bs) else s
          | .error _ => s
        | (.fail _ _, _) => s

/-- Whether the writes of a command's step may be performed after it: all that it writes to the pad, and of global memory what is no structure that
it changes in one indivisible step. A merge record is one (R213), and of the matrix engine's commands those that read again what they write
are left out. -/
def stepLeaves (i : Instr) : Bool :=
  (dataForm i).isSome || (match i with
    | .aread _ _ _ _ _ _ _ | .rqt _ _ _ _ | .mstat _ _ _ | .topk _ _ _ _ _ | .selm _ _ _ _ _ | .sdraw _ _ _ _ _ _ _ _ | .hist _ _ _ _ _ => true
    | _ => i.cls == some 9 || i.cls == some 10 || i.cls == some 11 || i.cls == some 12)

/-- The writes of a command's next step are to be performed after it (R202, R318, R476); those of the copy that a kvx makes. -/
def lagStep (s : State) (cid unit : Nat) : State :=
  match s.cmd cid with
  | none => kvxLag s cid unit
  | some c =>
    if s.mayStep cid c && stepLeaves c.instr then s.modCmd cid (fun c => { c with lag := some unit }) else s

/-- ENGINE_STEP (R13, R25, R33). -/
def execEngineStep (cmd : Nat) (s : State) : Host.Outcome State Fault Refusal := finish (stepNow s cmd)

/-- IRREVOCABLE_STEP_RESUME (R32): a step that waited for the frontier is performed once its task has reached it. -/
def resumeStep (s : State) (cid : Nat) : State :=
  match s.cmd cid with
  | none => s
  | some c => if c.held && c.st == .run && !c.suspended && cmdFront s c then stepNow (s.modCmd cid (fun c => { c with held := false })) cid else s

def execIrrevocableStepResume (cmd : Nat) (s : State) : Host.Outcome State Fault Refusal := finish (resumeStep s cmd)

/-- Whether a command is filled before another of its engine: in the lane's order of issue (R241, R362, R474), in the core's order of acceptance
(R294, R380). -/
def fillsBefore (x y : Nat × Cmd) : Bool :=
  let lane := decide (x.1 < y.1) && x.2.tid == y.2.tid && x.2.lid == y.2.lid && x.2.cls == y.2.cls
  let core := decide (x.2.accepted < y.2.accepted) && x.2.tags.core == y.2.tags.core && x.2.st != .queued && !x.2.suspended
  match y.2.cls with
  | 5 | 9 | 12 => lane
  | 7 => core && x.2.cls == 7
  | 10 => core && isTree x.2.instr && isTree y.2.instr
  | _ => false

/-- A merge, whose held partial may be merged while its team is saved: the status goes into the saved D (R217). -/
def isMerge : Instr → Bool
  | .smerge _ _ _ _ => true
  | _ => false

/-- The status that a command delivers: cpq.occ counts the engine's other commands at the fill (R212). -/
def fillWord (s : State) (c : Cmd) (status : Word) : Word :=
  match c.instr with
  | .cpq _ true _ _ _ => statusWord 0 4 (s.copyBusy (clusterOf c.tags.core) - 1)
  | _ => status

/-- COMMAND_COMPLETION (R19, R27): a command that has ended fills D. -/
def completeNow (s : State) (cid : Nat) : State :=
  let s := rejoin s cid
  match s.cmd cid with
  | none => s
  | some c => match c.st with
    | .ended status failed =>
      if (c.suspended && !isMerge c.instr) || !c.late.isEmpty || c.lost s || s.cmds.any (fun x => fillsBefore x (cid, c)) then s
      else fillStatus (if failed then s else declFill s c) cid c (fillWord s c status) failed
    | .queued | .run | .post _ => s

def execCommandCompletion (cmd : Nat) (s : State) : Host.Outcome State Fault Refusal := finish (completeNow s cmd)

/-- PUBLICATION_PERFORM (R210). -/
def execPublicationPerform (cmd : Nat) (s : State) : Host.Outcome State Fault Refusal := finish (publishNow s cmd)
/-- HELD_PARTIAL_MERGE (R216). -/
def execHeldPartialMerge (cmd : Nat) (s : State) : Host.Outcome State Fault Refusal := finish (heldMerge s cmd)
/-- PARTIAL_RESEND (R216). -/
def execPartialResend (cmd : Nat) (s : State) : Host.Outcome State Fault Refusal := finish (resendPartial s cmd)

end Sys2Proof.Machine
end

