-- ==== Sys2Proof/Machine/Events.lean ====
section
/-! DEFINITION. Events.lean: the remaining operations that have no word: forming groups, releasing waits, deliveries, performs, fences, leases,
banks, pigeonhole acts, spilling, deadlock (R244, R245), and the ends of tasks and grids. -/

namespace Sys2Proof.Machine

open Sys2Proof

/-! ### Issue (R39, R69 to R71, R101) -/

/-- GROUP_FORMATION (R71). -/
def execGroupFormation (core sched : Nat) (s : State) : Host.Outcome State Fault Refusal := finish (formGroup s core sched)

/-- TRAP_ENTRY (R101). -/
def execTrapEntry (core sched : Nat) (s : State) : Host.Outcome State Fault Refusal := finish (formTrapEntry s core sched)

/-- Whether what a lane in the wait list waits for has come, for the waits that end by themselves. -/
def waitOver (s : State) (tid lid : Nat) (t : Team) (l : Lane) : Bool :=
  let core := (t.place.getD (0, 0)).1
  match l.wait with
  | some (.regs rs) => rs.all (fun n => (l.reg n).st.isFull)
  | some (.wset b) => s.waitSetHolds core tid lid t l b
  | some (.fenceLd _ _) => l.loadsDone
  | some .cmdq => decide (s.queued core < 64)
  | some (.hold c) => decide (s.heldAt c < 64)
  | some .ldp => s.ldpDone tid lid
  | some (.holeCmd h) => !s.holeOwed tid lid h s.ids
  | some (.outTray _ _ _ _) => decide (s.disp.tray.length < 4096)
  | some (.edges u) => !s.edgeHeld (s.ctxOf t) u
  | some (.fence _ _ _ _) | some (.page _) | some (.fetch _) | some (.post _) | some (.word _ _ _ _) | some (.act _) | none => false

/-- WAIT_RELEASE (R39, R69): the lane is filed at its PC; one that waits at TVEC may have its trap-entry group formed. -/
def releaseWait (s : State) (tid lid : Nat) : State :=
  match s.team tid with
  | none => s
  | some t =>
    let l := nth {} t.lanes lid
    if t.running.isNone || !waitOver s tid lid t l then s
    else match l.wait with
      | some (.fenceLd h slot) => goOn s tid lid h slot
      | some (.outTray x d h slot) => match s.grid t.lseq with
        | none => s
        | some g =>
          let n := s.disp.lseq
          goOn ((trayAdd s g.ctx g.depth tid t.lseq x).modLane tid lid (fun l =>
            ({ l with refused := none }).writeD d false (.w (statusWord 0 6 n) false))) tid lid h slot
      | _ =>
        let s := (s.modLane tid lid (fun l => { l with wait := none })).modTeam tid (fun t => { t with
          traps := t.traps.map (fun p => if p.lid = lid then { p with waits := false } else p) })
        fileFree s tid lid

def execWaitRelease (team lid : Nat) (s : State) : Host.Outcome State Fault Refusal := finish (releaseWait s team lid)

/-- FENCE_PASS (R152, R415). -/
def passFence (s : State) (tid lid : Nat) : State :=
  match s.team tid with
  | none => s
  | some t =>
    let l := nth {} t.lanes lid
    match l.wait with
    | some (.fence sc h slot count) =>
      if t.running.isNone || !s.fenceHolds tid lid l sc then s
      else match sc, l.ferr with
        | .fabric, some info =>
          raiseTrap (s.modLane tid lid (fun l => { l with ferr := none, wait := none })) tid lid
            ⟨l.h, causeWord 0xC0 2 (l.slot.getD 0) false false count, info⟩
        | _, _ => goOn s tid lid h slot
    | _ => s

def execFencePass (team lid : Nat) (s : State) : Host.Outcome State Fault Refusal := finish (passFence s team lid)

/-! ### Records that waited (R187) -/

/-- Whether a group that waits is a command's whose context has faulted: it is not posted any more (R33). -/
def State.groupLost (s : State) (p : Post) : Bool :=
  (s.ctx p.ctx).fault.isSome && (match p.act with
    | .cmd _ => true
    | .none | .loads _ _ | .lanes _ _ _ _ _ | .fabric _ _ => false)

/-- DEAD_LETTER_POST: the oldest record group of a die that now has room is placed. -/
def placePost (s : State) (die : Nat) : State :=
  match firstWith (fun (p : Post) => p.die == die && !s.groupLost p && (placeRecs s die p.ctx p.recs).isSome) s.posts with
  | none => s
  | some p => match placeRecs { s with posts := s.posts.filter (fun q => q.qid != p.qid) } die p.ctx p.recs with
    | some (k, s) => applyPost s die p.ctx p.act k
    | none => s

def execDeadLetterPost (die : Nat) (s : State) : Host.Outcome State Fault Refusal := finish (placePost s die)

/-! ### Deliveries (R21, R137, R140, R147, R192) -/

/-- An ldp's 16 bytes at its read instant; none while it may not take effect, waits or fails (R140, R157). -/
def ldpBytes (s : State) (fid : Nat) (f : Flight) : Option (List Byte) × State :=
  match if fld f.ptr.toNat 56 4 = 0 then s.window f.tags.ctx (eaVa f.ptr) else none with
  | some o => (some (s.windowRead f.tags.ctx o 16), s)
  | none => match s.repoint f with
    | .error c => (none, setStage s fid (.fail c))
    | .ok f => if s.clear fid f then readBytes s fid f .dflt 16 else (none, s)

/-- An ldp ends (R140): the pad write, then the arrival; in the lane's order, toward its acts on the point too (R226). -/
def ldpEnd (s : State) (fid : Nat) (f : Flight) (off pt : Nat) : State :=
  let write := fun (s : State) (bytes : List Byte) =>
    arriveAt (padWrite (landed s fid) f.tid (some (f.lid, fid)) off bytes) f.tid pt 1 false f.tid f.lid
  if s.holeOwed f.tid f.lid (pointHandle pt) fid || s.flights.any (fun e => decide (e.1 < fid) && e.2.tid == f.tid && e.2.lid == f.lid
      && (match e.2.kind with
        | .ldp _ _ => true
        | _ => false)) then s
  else match f.stage with
    | .bad => arriveAt (landed s fid) f.tid pt 1 true f.tid f.lid
    | .got v => write s (leBytes 8 v.toNat ++ leBytes 8 f.data.toNat)
    | .ready | .edge _ =>
      if !s.underWay f then s
      else match ldpBytes s fid f with
        | (some bytes, s) => write s bytes
        | (none, s) => postLoads s f.tid f.tags.core
    | .page _ | .fail _ | .post _ | .owed => s

/-- The pair that xlq delivers (R192). -/
def xlqVal (s : State) (f : Flight) (x : Xl) : Val :=
  let size := fun (leaf : Nat) (big : Bool) => if big then 2 else if bit leaf 11 then 1 else 0
  let pend := b2n (s.svc f.tags.ctx (s.pageAt f.tags.ctx f.ptr.toNat)).isSome * 2 ^ 28
  match x with
  | .ok pa leaf big =>
    { lo := BitVec.ofNat 32 (2 ^ 31 + size leaf big * 2 ^ 29 + pend + fld leaf 0 16)
      hi := BitVec.ofNat 32 (if leafTagged leaf then (s.tagAt pa).toNat else 0) }
  | .fail c l =>
    let c := if c = 1 ∧ f.refused then 2 else c
    match l with
    | some (leaf, big) =>
      { lo := BitVec.ofNat 32 (size leaf big * 2 ^ 29 + pend + c * 2 ^ 16 + fld leaf 0 16)
        hi := BitVec.ofNat 32 (if leafTagged leaf then (s.tagAt (physOf leaf (eaVa f.ptr) big)).toNat else 0) }
    | none => { lo := BitVec.ofNat 32 (pend + c * 2 ^ 16) }

/-- A load's value, by its kind. -/
def gotVal (f : Flight) (v : DWord) : Val :=
  match f.kind with
  | .ld sz _ | .win _ sz | .pld _ sz | .fabLd sz => loadVal sz v.toNat
  | .kvx _ _ _ => .dw v false
  | _ => if f.wide then .dw v false else .w (v.extractLsb' 0 32) false

/-- Whether writes of the copy that a kvx has made are still to come: its value waits for them. -/
def State.kvxOwes (s : State) (fid : Nat) (f : Flight) : Bool :=
  match f.kind with
  | .kvx _ _ _ => (s.cmd fid).isSome
  | _ => false

/-- LATE_DELIVERY: a page that an xlq.fill finds not mapped then is served first (R192). A value reaches D with its poison bit; an ldp or pref ends. An access still to be read is read at this instant. -/
def deliverNow (s : State) (fid : Nat) : State :=
  match Tab.find fid s.flights with
  | none => s
  | some f => match f.kind with
    | .done hi lo p => fillD s fid f ⟨lo, hi, p, p && !f.clean⟩
    | .ldp off pt => ldpEnd s fid f off pt
    | .pref l1 =>
      landed (match s.repoint f with
        | .error _ => s
        | .ok f =>
          let leaf := f.leaf.toNat
          if l1 && leafMode leaf == 0 && (s.window f.tags.ctx (eaVa f.ptr)).isNone && !(leafVersioned leaf && s.specLine f.pa) then
            fillL1 s f.tags (eaVa f.ptr) leaf f.pa (s.fillLease f) else s) fid
    | .xlq fill wr =>
      if f.stage ≠ .ready then s
      else if fld f.ptr.toNat 56 4 = 0 ∧ (s.window f.tags.ctx (eaVa f.ptr)).isSome then fillD s fid f { lo := 0x80000000 }
      else match translate s (clusterOf f.tags.core) f.tags.ctx f.ptr.toNat (if wr then .wr else .rd) 1 with
        | (.fail 1 _, s) =>
          let page := s.pageAt f.tags.ctx f.ptr.toNat
          if fill && !f.refused then setStage (request s f.tags.ctx page (dieOf f.tags.core)) fid (.page page)
          else fillD s fid f (xlqVal s f (.fail 1 none))
        | (x, s) => fillD s fid f (xlqVal s f x)
    | _ => match f.stage with
      | .got v => if s.kvxOwes fid f then s else fillD s fid f (gotVal f v)
      | .bad => fillD s fid f poisonVal
      | .ready | .edge _ =>
        let s := match f.kind with
          | .kvx _ _ _ => postLoads (kvxNow s fid) f.tid f.tags.core
          | _ => readNow s fid
        match (Tab.find fid s.flights).map Flight.stage with
        | some (.got v) => if s.kvxOwes fid f then s else fillD s fid f (gotVal f v)
        | _ => s
      | .page _ | .fail _ | .post _ | .owed => s

def execLateDelivery (flight : Nat) (s : State) : Host.Outcome State Fault Refusal := finish (settleHits (deliverNow s flight))

/-- GLOBAL_WRITE_PERFORM (R154). -/
def execGlobalWritePerform (flight : Nat) (s : State) : Host.Outcome State Fault Refusal := finish (performNow s flight)

/-! ### Leases and banks (R150, R156) -/

/-- Drops the copy at a position of a level if its lease has run out. -/
def dropExpired (now idx : Nat) (cs : List Copy) : List Copy :=
  match cs[idx]? with
  | some c => if c.exp ≤ now then cs.take idx ++ cs.drop (idx + 1) else cs
  | none => cs

/-- LEASE_EXPIRY: a copy of a core's L1 (places 0 to 127) or of a cluster's cache (128 and above). -/
def expireCopy (s : State) (place idx : Nat) : State :=
  if place < 128 then s.modCore place (fun c => { c with l1 := dropExpired s.now idx c.l1 })
  else if place < 160 then s.modCluster (place - 128) (fun c => { c with cache := dropExpired s.now idx c.cache })
  else s

def execLeaseExpiry (place idx : Nat) (s : State) : Host.Outcome State Fault Refusal := finish (expireCopy s place idx)

/-- BANK_SWITCH_COMPLETE. -/
def bankDone (s : State) (cl k : Nat) : State :=
  match ((s.cluster cl).bank k).sw with
  | none => s
  | some _ => s.modCluster cl (fun c => { c with banks := Tab.put k { c.bank k with sw := none } c.banks })

def execBankSwitchComplete (cluster bnk : Nat) (s : State) : Host.Outcome State Fault Refusal := finish (bankDone s cluster bnk)

/-! ### Pigeonholes (R228 to R231, R237, R242) -/

/-- PH_ACT_SERVED. -/
def execPhActServed (act : Nat) (s : State) : Host.Outcome State Fault Refusal := finish (settleHits (serveAct s act))

/-- COURIER_FILL. -/
def execCourierFill (cw : Nat) (s : State) : Host.Outcome State Fault Refusal := finish (settleHits (courierFillNow s cw))

/-- SPILL_MODE_ENTRY. -/
def execSpillModeEntry (scope owner num : Nat) (s : State) : Host.Outcome State Fault Refusal :=
  finish (match s.pigeon scope owner num with
    | some p => spillEntry s p
    | none => s)

/-- SPILL_MOVE. -/
def execSpillMove (scope owner num : Nat) (s : State) : Host.Outcome State Fault Refusal :=
  finish (match s.pigeon scope owner num with
    | some p => spillMove s p
    | none => s)

/-! ### Deadlock (R244, R245) -/

/-- An object code. -/
def objCode (type cl slot num : Nat) : Nat := type * 2 ^ 29 + cl * 2 ^ 24 + slot * 2 ^ 20 + num % 4096

/-- The object of a waiting act: what tells it from others (scope or type, owner, lane, number), and its code. -/
def actObj (cl slot : Nat) (a : PAct) : (Nat × Nat × Nat × Nat) × Nat :=
  ((a.scope, a.owner, 0, a.num), match a.scope with
    | 0 => objCode 0 cl slot a.num
    | 1 => objCode 1 a.owner 0 a.num
    | 2 => objCode 2 0 0 a.num
    | _ => objCode 3 cl slot a.num)

/-- The objects that a waiting lane waits on: those of acts, the words of its team's pad, its registers. -/
def waitObjs (s : State) (cl slot tid lid : Nat) (l : Lane) : List ((Nat × Nat × Nat × Nat) × Nat) :=
  match l.wait with
  | some (.act n) => ((Tab.find n s.pacts).map (actObj cl slot)).toList
  | some (.word off _ _ _) => [((5, tid, 0, off / 4), objCode 5 cl slot (off / 4))]
  | some (.regs rs) => rs.filterMap (fun n => match (l.reg n).st with
    | .opn => some ((4, tid, lid, n), objCode 4 cl slot n)
    | .pend pid _ => (Tab.find pid s.pacts).map (actObj cl slot)
    | .full => none)
  | _ => []

/-- DEADLOCK: the report, if it can be placed, and the context fault. -/
def deadlockNow (s : State) (ctx : Nat) : State :=
  if (s.ctx ctx).stuck < 65536 || !stuckNow s ctx then s
  else
    let ts := s.teams.filter (fun e => s.ctxOf e.2 == ctx)
    let live := ts.flatMap (fun e => ((upFrom 0 e.2.lanes.length).filter (fun lid => !(nth {} e.2.lanes lid).exited)).map (fun lid =>
      (clusterOf (e.2.place.getD (0, 0)).1, (e.2.place.getD (0, 0)).2, e.1, lid, nth {} e.2.lanes lid)))
    let codes := sortBy id (((live.flatMap (fun x => waitObjs s x.1 x.2.1 x.2.2.1 x.2.2.2.1 x.2.2.2.2)).eraseDups).map Prod.snd)
    let code := fun (k : Nat) => codes.getD k 0xFFFFFFFF
    let r0 := recOf ([(96, codes.length), (64, live.length), (16, ctx), (8, 1), (0, 0x30)] ++ (upFrom 0 4).map (fun k => (128 + 32 * k, code k)))
    let r1 := recOf ((upFrom 0 8).map (fun k => (32 * k, code (k + 4))))
    let die := (leastBy id (live.map Prod.fst)).getD 0 / 16
    let s := match placeRecs s die ctx [r0, r1] with
      | some (_, s) => s
      | none => s
    ctxFault s ctx 4 codes.length

def execDeadlock (ctx : Nat) (s : State) : Host.Outcome State Fault Refusal := finish (deadlockNow s ctx)

/-! ### The ends of tasks and grids (R263, R331, R418) -/

/-- TASK_COMMIT. -/
def execTaskCommit (ctx : Nat) (s : State) : Host.Outcome State Fault Refusal := finish (commitNow s ctx)

/-- GRID_RETIRE, with the hook that waits for the grid (R321). -/
def endGrid (s : State) (lseq : Nat) : State :=
  match s.grid lseq with
  | none => s
  | some g =>
    let s := retireGrid s lseq
    if (s.grid lseq).isNone then hookDone s lseq g.returned else s

def execGridRetire (lseq : Nat) (s : State) : Host.Outcome State Fault Refusal := finish (endGrid s lseq)

end Sys2Proof.Machine
end

