-- ==== Sys2Proof/Machine/Agenda.lean ====
section
/-! DEFINITION. Agenda.lean: the happenings that have no row of the table, the order that the model takes where nothing says what happens next, and
how a word is placed for the next step (assumption log 1). -/

namespace Sys2Proof.Machine

open Sys2Proof

/-! ### Happenings without a row -/

/-- A group that cannot issue its last word's successor yet (R73). -/
def stallGroup (s : State) (core k gid cycles : Nat) : State :=
  s.modSched core k (fun x => { x with groups := x.groups.map (fun g => if g.gid = gid ∧ g.slow then { g with busy := s.cyc + cycles, since := s.cyc + cycles } else g) })

/-- An element of a list dropped. -/
def dropAt {α : Type} (cs : List α) (idx : Nat) : List α := cs.take idx ++ cs.drop (idx + 1)

/-- A copy is evicted (R156). -/
def evictCopy (s : State) (place idx : Nat) : State :=
  if place < 128 then s.modCore place (fun c => { c with l1 := dropAt c.l1 idx })
  else if place < 160 then s.modCluster (place - 128) (fun c => { c with cache := dropAt c.cache idx })
  else s

/-- A TLB entry is dropped (R173). -/
def evictTlb (s : State) (cl idx : Nat) : State := if cl < 32 then s.modCluster cl (fun c => { c with tlb := dropAt c.tlb idx }) else s

/-- A slice drops the lease record of a line, and its horizon rises to it (R155). -/
def dropLease (s : State) (line : Nat) : State :=
  match Tab.find line s.leases with
  | none => s
  | some e =>
    let k := sliceOf (line * 512)
    { s with leases := Tab.del line s.leases, horizon := Tab.put k (Nat.max e (Tab.get 0 k s.horizon)) s.horizon }

/-! ### A permitted order -/

/-- The lanes of a team that wait. -/
def laneChoices (e : Nat × Team) : List Choice :=
  (upFrom 0 e.2.lanes.length).flatMap (fun lid => match (nth {} e.2.lanes lid).wait with
    | some (.fence _ _ _ _) => [.event (.fencePass e.1 lid)]
    | some _ => [.event (.waitRelease e.1 lid)]
    | none => [])

/-- What a command may do. -/
def cmdChoices (e : Nat × Cmd) : List Choice :=
  List.append ((upFrom 0 e.2.late.length).map (.land e.1))
    [.event (.commandCompletion e.1), .event (.commandAcceptance e.1), .event (.irrevocableStepResume e.1), .event (.engineStep e.1),
      .event (.publicationPerform e.1), .event (.heldPartialMerge e.1), .event (.partialResend e.1)]

/-- What a team may come to, and its lanes. -/
def teamChoices (e : Nat × Team) : List Choice :=
  List.append (laneChoices e) [.event (.budgetOverrun e.1), .event (.teamEnd e.1), .event (.saveComplete e.1)]

/-- What a task may come to. -/
def taskChoice (e : Nat × Task) : List Choice :=
  [.event (.holdRelease e.1), .event (.parkTakeUp e.1), .event (.taskRelaunch e.1), .event (.versionFold e.1)]

/-- The copies of the frontier of a core that are behind. -/
def frontChoices (s : State) (k : Nat × Core) : List Choice :=
  (k.2.front.filter (fun f => f.key != s.frontier f.ctx)).map (fun f => .event (.frontierUpdate k.1 f.ctx))

/-- The cores that hold teams. -/
def State.liveCores (s : State) : List Nat :=
  s.teams.foldl (fun c e => match e.2.place with
    | some (k, _) => insNat k c
    | none => c) []

/-- What the schedulers of a core that holds teams may do: groups are formed, and words issue in this cycle. -/
def formChoices (c : Nat) : List Choice := [0, 1, 2, 3].flatMap (fun k => [.event (.trapEntry c k), .event (.groupFormation c k)])
def issueChoices (s : State) (c : Nat) : List Choice := ([0, 1, 2, 3].filter (fun k => decide ((s.sched c k).issued ≤ s.cyc))).map (.issue c)

/-- What the dispatch engine may do for a partition. -/
def partChoices (p : Nat) : List Choice :=
  [.event (.teamStart p), .event (.teamResume p), .event (.startOrderBlock p), .event (.preemption p), .event (.switchBegin p)]

/-- What the system controller has under way. -/
def sysChoices (s : State) : List Choice :=
  [(if s.sys.resetBy.isSome then [.resetDone] else []), (if s.sys.bootRun.isSome then [.imageCheck] else []),
    (if s.sys.shootGo.isSome then [.shootDone] else [])].flatten

/-- What a context may come to first. -/
def ctxChoices (c : Nat × Ctx) : List Choice := if c.2.fault.isSome then [.event (.contextFault c.1)] else []

/-- What a request of the fabric may come to: of one that is out, of one that is kept. -/
def outChoices (s : State) (o : Nat × FabOut) : List Choice :=
  List.append (if (s.ownDie o.2.die o.2.epid).isSome then [.event (.fabricResponse o.1 .error)] else []) [.event (.requestAbsent o.1)]

/-- What the memory system and the engines may do. -/
def engineChoices (s : State) : List Choice :=
  [s.svcs.flatMap (fun v => [.event (.serviceEnd v.ctx v.page), .event (.frameService v.ctx v.page)]),
    (if s.posts.isEmpty then [] else [.event (.deadLetterPost 0), .event (.deadLetterPost 1)]),
    s.flights.flatMap (fun e => [.event (.lateDelivery e.1), .event (.globalWritePerform e.1)]),
    s.fab.outs.flatMap (outChoices s), s.fab.kept.map (fun e => .kept e.1), s.cmds.flatMap cmdChoices,
    s.pacts.map (fun e => .event (.phActServed e.1)), s.couriers.map (fun e => .event (.courierFill e.1)),
    s.pigeons.flatMap (fun p => [.event (.spillModeEntry p.scope p.owner p.num), .event (.spillMove p.scope p.owner p.num)])].flatten

/-- What teams, tasks and grids may come to, and the postbag and the banks. -/
def workChoices (s : State) : List Choice :=
  [s.teams.flatMap teamChoices, s.tasks.flatMap taskChoice,
    s.ctxs.flatMap (fun c => [.event (.taskCommit c.1), .event (.versionSpaceAbort c.1)]), s.cores.flatMap (frontChoices s),
    s.grids.map (fun g => .event (.gridRetire g.1)), (if s.trace.held.isEmpty then [] else [.event .postbagWrite]),
    s.clusters.flatMap (fun c => c.2.banks.flatMap (fun b => if b.2.sw.isSome then [.event (.bankSwitchComplete c.1 b.1)] else []))].flatten

/-- What may happen next, in the order in which the model looks for it. -/
def candidates (s : State) : List Choice :=
  [sysChoices s, s.ctxs.flatMap ctxChoices, engineChoices s, workChoices s, [.event .recordTake], [0, 1, 2, 3].flatMap partChoices,
    [.event (.switchComplete 0), .event (.switchComplete 1), .event .shareRecompute], s.liveCores.flatMap formChoices,
    s.liveCores.flatMap (issueChoices s), s.ctxs.map (fun c => .event (.deadlock c.1))].flatten

/-! ### Placing a word -/

/-- The launch record of the placed word's grid: one team of 32 lanes with 128 registers and the largest pad. -/
def placedRec : Rec := { lanes32 := [1, 0, 0, 0], regs8 := [16, 0, 0, 0], padb := 65536 }

/-- A team of lane 0 alone: the other lanes of its role have exited. -/
def placedTeam (s : State) (g : Grid) : Team :=
  let x : Placing := { slot := 0, padAt := 0, units := [], rowAt := 0, bAt := 0 }
  let t := freshTeam s s.disp.lseq 0 g 0 x
  { t with lanes := match t.lanes with
      | [] => []
      | l :: rest => { l with slot := some 0 } :: rest.map (fun l => { l with exited := true }) }

/-- The header of a clause of one word (R37). -/
def placedHeader (w : DWord) : DWord := BitVec.ofNat 64 (if 4 ≤ fld w.toNat 4 4 then fld w.toNat 4 4 * 16 else 0)

/-- The state with a clause of one word fetched by an active group of core 0 whose turn is next. -/
def placeWord (s : State) (w : DWord) : State :=
  let g : Grid := { ctx := 0, lrec := placedRec, next := 1 }
  let tid := s.ids
  let grp : Group := { gid := s.ids + 1, tid := tid, h := 0, hdr := placedHeader w, words := [w], slot := 0, lanes := [(0, 0)], since := s.cyc, entry := false }
  let t := placedTeam s g
  { (s.modSched 0 0 (fun x => { x with groups := [grp] })).setTeam tid t with
    ids := s.ids + 2
    ctxs := Tab.put 0 { s.ctx 0 with st := .ready, fault := none } s.ctxs
    grids := Tab.put s.disp.lseq g s.grids
    disp := { s.disp with lseq := s.disp.lseq + 1 }
    agenda := [.issue 0 0] }

end Sys2Proof.Machine
end

