-- ==== Sys2Proof/Machine/Alu.lean ====
section
/-! DEFINITION. Alu.lean: the integer, bit, compare and predicate computations of class 0x0 (R82 to R85, R89, R90). -/

namespace Sys2Proof.Machine

open Sys2Proof

/-- ext of R82 and R84: the exact integer of a value of `n` bits. -/
def ext {n : Nat} (u : Bool) (v : BitVec n) : Int := if u then (v.toNat : Int) else v.toInt

/-- clamp and narrowing of R82 and R89: saturation to the type, then the result modulo 2^n. -/
def narrow (n : Nat) (sat u : Bool) (t : Int) : BitVec n :=
  let lo : Int := if u then 0 else -(2 ^ (n - 1) : Int)
  let hi : Int := if u then (2 ^ n : Int) - 1 else (2 ^ (n - 1) : Int) - 1
  BitVec.ofInt n (if sat then (if t < lo then lo else if hi < t then hi else t) else t)

def iAdd (sat u : Bool) (a b : Word) : Word := narrow 32 sat u (ext u a + ext u b)
def iSub (sat u : Bool) (a b : Word) : Word := narrow 32 sat u (ext u a - ext u b)
def iMul (sat u : Bool) (a b : Word) : Word := narrow 32 sat u (ext u a * ext u b)
def iMulh (u : Bool) (a b : Word) : Word := BitVec.ofInt 32 (ext u a * ext u b / 2 ^ 32)
def iMad (sat u : Bool) (a b c : Word) : Word := narrow 32 sat u (ext u a * ext u b + ext u c)
def iMin (u : Bool) (a b : Word) : Word := if ext u a ≤ ext u b then a else b
def iMax (u : Bool) (a b : Word) : Word := if ext u a ≤ ext u b then b else a
def iAbs (sat : Bool) (a : Word) : Word := narrow 32 sat false (a.toInt.natAbs : Int)
def iNeg (sat : Bool) (a : Word) : Word := narrow 32 sat false (-a.toInt)

/-- shl: 0 for counts of 32 and above (R83). -/
def bShl (a b : Word) : Word := if b.toNat < 32 then a <<< b.toNat else 0
/-- shr: logical, or arithmetic with S (R83). -/
def bShr (s : Bool) (a b : Word) : Word :=
  if s then (if b.toNat < 32 then a.sshiftRight b.toNat else if a.msb then 0xFFFFFFFF else 0)
  else (if b.toNat < 32 then a >>> b.toNat else 0)
/-- rot: rotate left by b[4:0] (R83). -/
def bRot (a b : Word) : Word := let n := b.toNat % 32; (a <<< n) ||| (a >>> (32 - n))

/-- Number of set bits among the lowest `n`. -/
def popN (v : Nat) : Nat → Nat
  | 0 => 0
  | n + 1 => b2n (bit v n) + popN v n
def bPopc (a : Word) : Word := BitVec.ofNat 32 (popN a.toNat 32)

/-- Number of leading zeros of the lowest `n` bits. -/
def clzN (v : Nat) : Nat → Nat
  | 0 => 0
  | n + 1 => if bit v n then 0 else 1 + clzN v n
def bClz (a : Word) : Word := BitVec.ofNat 32 (clzN a.toNat 32)

/-- The lowest `n` bits mirrored. -/
def revN (v : Nat) : Nat → Nat
  | 0 => 0
  | n + 1 => revN v n * 2 + b2n (bit v n)
def bBrev (a : Word) : Word := BitVec.ofNat 32 (revN a.toNat 32)

/-- bfe (R83). -/
def bBfe (s : Bool) (a b : Word) : Word :=
  let pos := fld b.toNat 0 8
  let len := fld b.toNat 8 8
  if len = 0 ∨ 32 ≤ pos then 0
  else
    let len := min len (32 - pos)
    let f := fld a.toNat pos len
    if s then BitVec.ofInt 32 (sx len f) else BitVec.ofNat 32 f

/-- bfi (R83). -/
def bBfi (a b c : Word) : Word :=
  let pos := fld c.toNat 0 8
  let len := fld c.toNat 8 8
  if len = 0 ∨ 32 ≤ pos then a
  else
    let len := min len (32 - pos)
    BitVec.ofNat 32 (a.toNat - fld a.toNat pos len * 2 ^ pos + fld b.toNat 0 len * 2 ^ pos)

/-- bperm (R83): four bytes chosen among the eight of a and b. -/
def bBperm (a b c : Word) : Word :=
  let pick := fun (i : Nat) =>
    let s := fld c.toNat (4 * i) 4
    if 8 ≤ s then 0 else if s < 4 then fld a.toNat (8 * s) 8 else fld b.toNat (8 * (s - 4)) 8
  BitVec.ofNat 32 (pick 0 + pick 1 * 2 ^ 8 + pick 2 * 2 ^ 16 + pick 3 * 2 ^ 24)

/-- The comparison of icmp on exact integers (R84). -/
def icmpInt (c : ICmp) (x y : Int) : Bool :=
  match c with
  | .eq => decide (x = y)
  | .ne => decide (x ≠ y)
  | .lt => decide (x < y)
  | .le => decide (x ≤ y)
  | .gt => decide (y < x)
  | .ge => decide (y ≤ x)

/-- The truth of an operand of the predicate forms (R85). -/
def truth (a : Word) (n : Bool) : Bool := xor (a != 0) n

/-- lea: the address part moves, the top byte stays (R90). -/
def leaAddr (u : Bool) (sh : Nat) (a : DWord) (b : Word) : DWord :=
  let off : Int := ext u b * 2 ^ sh
  BitVec.ofNat 64 (fld a.toNat 56 8 * 2 ^ 56 + wrap 56 ((fld a.toNat 0 56 : Int) + off))

end Sys2Proof.Machine
end

