-- ==== Sys2Proof/Machine/LaneEngine.lean ====
section
/-! DEFINITION. LaneEngine.lean: the meanings of class 0x0 (R82 to R98). -/

namespace Sys2Proof.Machine

open Sys2Proof

/-- A 32-bit result, poisoned if a source is (R23). -/
def res1 (f : Word → Word) (a _ _ : Val) : Val := .w (f a.lo) a.pl
def res2 (f : Word → Word → Word) (a b _ : Val) : Val := .w (f a.lo b.lo) (a.pl || b.pl)
def res3 (f : Word → Word → Word → Word) (a b c : Val) : Val := .w (f a.lo b.lo c.lo) (a.pl || b.pl || c.pl)
/-- A 64-bit result of 64-bit sources. -/
def res2d (f : DWord → DWord → DWord) (a b _ : Val) : Val := .dw (f a.d b.d) (a.poison || b.poison)

/-! ### Integer arithmetic (R82) -/

def execAdd (g : Guard) (sat u : Bool) (d : Code) (a b : Src) (s : State) : Host.Outcome State Fault Refusal :=
  finish (runAlu s (.add g sat u d a b) (res2 (iAdd sat u)))
def execSub (g : Guard) (sat u : Bool) (d : Code) (a b : Src) (s : State) : Host.Outcome State Fault Refusal :=
  finish (runAlu s (.sub g sat u d a b) (res2 (iSub sat u)))
def execMul (g : Guard) (sat u : Bool) (d : Code) (a b : Src) (s : State) : Host.Outcome State Fault Refusal :=
  finish (runAlu s (.mul g sat u d a b) (res2 (iMul sat u)))
def execMulh (g : Guard) (u : Bool) (d : Code) (a b : Src) (s : State) : Host.Outcome State Fault Refusal :=
  finish (runAlu s (.mulh g u d a b) (res2 (iMulh u)))
def execMad (g : Guard) (sat u : Bool) (d : Code) (a b c : Src) (s : State) : Host.Outcome State Fault Refusal :=
  finish (runAlu s (.mad g sat u d a b c) (res3 (iMad sat u)))
def execMin (g : Guard) (u : Bool) (d : Code) (a b : Src) (s : State) : Host.Outcome State Fault Refusal :=
  finish (runAlu s (.min g u d a b) (res2 (iMin u)))
def execMax (g : Guard) (u : Bool) (d : Code) (a b : Src) (s : State) : Host.Outcome State Fault Refusal :=
  finish (runAlu s (.max g u d a b) (res2 (iMax u)))
def execAbs (g : Guard) (sat : Bool) (d : Code) (a : Src) (s : State) : Host.Outcome State Fault Refusal :=
  finish (runAlu s (.abs g sat d a) (res1 (iAbs sat)))
def execNeg (g : Guard) (sat : Bool) (d : Code) (a : Src) (s : State) : Host.Outcome State Fault Refusal :=
  finish (runAlu s (.neg g sat d a) (res1 (iNeg sat)))

/-! ### Bit operations (R83) -/

def execAnd (g : Guard) (d : Code) (a b : Src) (s : State) : Host.Outcome State Fault Refusal :=
  finish (runAlu s (.and g d a b) (res2 (fun x y => x &&& y)))
def execOr (g : Guard) (d : Code) (a b : Src) (s : State) : Host.Outcome State Fault Refusal :=
  finish (runAlu s (.or g d a b) (res2 (fun x y => x ||| y)))
def execXor (g : Guard) (d : Code) (a b : Src) (s : State) : Host.Outcome State Fault Refusal :=
  finish (runAlu s (.xor g d a b) (res2 (fun x y => x ^^^ y)))
def execNot (g : Guard) (d : Code) (a : Src) (s : State) : Host.Outcome State Fault Refusal :=
  finish (runAlu s (.not g d a) (res1 (fun x => ~~~x)))
def execShl (g : Guard) (d : Code) (a b : Src) (s : State) : Host.Outcome State Fault Refusal :=
  finish (runAlu s (.shl g d a b) (res2 bShl))
def execShr (g : Guard) (sx : Bool) (d : Code) (a b : Src) (s : State) : Host.Outcome State Fault Refusal :=
  finish (runAlu s (.shr g sx d a b) (res2 (bShr sx)))
def execRot (g : Guard) (d : Code) (a b : Src) (s : State) : Host.Outcome State Fault Refusal :=
  finish (runAlu s (.rot g d a b) (res2 bRot))
def execPopc (g : Guard) (d : Code) (a : Src) (s : State) : Host.Outcome State Fault Refusal :=
  finish (runAlu s (.popc g d a) (res1 bPopc))
def execClz (g : Guard) (d : Code) (a : Src) (s : State) : Host.Outcome State Fault Refusal :=
  finish (runAlu s (.clz g d a) (res1 bClz))
def execBrev (g : Guard) (d : Code) (a : Src) (s : State) : Host.Outcome State Fault Refusal :=
  finish (runAlu s (.brev g d a) (res1 bBrev))
def execBfe (g : Guard) (sx : Bool) (d : Code) (a b : Src) (s : State) : Host.Outcome State Fault Refusal :=
  finish (runAlu s (.bfe g sx d a b) (res2 (bBfe sx)))
def execBfi (g : Guard) (d : Code) (a b c : Src) (s : State) : Host.Outcome State Fault Refusal :=
  finish (runAlu s (.bfi g d a b c) (res3 bBfi))
def execBperm (g : Guard) (d : Code) (a b c : Src) (s : State) : Host.Outcome State Fault Refusal :=
  finish (runAlu s (.bperm g d a b c) (res3 bBperm))

/-! ### Compare and predicate logic (R84, R85) -/

/-- icmp's value: 64-bit operands with W, 32-bit ones without. -/
def icmpVal (w u : Bool) (cmp : ICmp) (a b _ : Val) : Val :=
  .w (b2w (if w then icmpInt cmp (ext u a.d) (ext u b.d) else icmpInt cmp (ext u a.lo) (ext u b.lo))) (a.poison || b.poison)

def execIcmp (g : Guard) (w u : Bool) (cmp : ICmp) (d : Code) (a b : Src) (s : State) : Host.Outcome State Fault Refusal :=
  finish (runAlu s (.icmp g w u cmp d a b) (icmpVal w u cmp))
def execPand (g : Guard) (nb na : Bool) (d : Code) (a b : Src) (s : State) : Host.Outcome State Fault Refusal :=
  finish (runAlu s (.pand g nb na d a b) (res2 (fun x y => b2w (truth x na && truth y nb))))
def execPor (g : Guard) (nb na : Bool) (d : Code) (a b : Src) (s : State) : Host.Outcome State Fault Refusal :=
  finish (runAlu s (.por g nb na d a b) (res2 (fun x y => b2w (truth x na || truth y nb))))
def execPxor (g : Guard) (nb na : Bool) (d : Code) (a b : Src) (s : State) : Host.Outcome State Fault Refusal :=
  finish (runAlu s (.pxor g nb na d a b) (res2 (fun x y => b2w (xor (truth x na) (truth y nb)))))
def execPnot (g : Guard) (d : Code) (a : Src) (s : State) : Host.Outcome State Fault Refusal :=
  finish (runAlu s (.pnot g d a) (res1 (fun x => b2w (!truth x false))))

/-! ### Moves (R86 to R88) -/

/-- mov: d := a with a's poison bit; a 64-bit operand has one poison bit, that of either register (R86, R191). -/
def movVal (w : Bool) (a _ _ : Val) : Val := if w then .dw a.d a.poison else .w a.lo a.pl
/-- sel: a if c is not 0, else b; poisoned if any of the three is (R86). -/
def selVal (w : Bool) (a b c : Val) : Val :=
  let x := if c.lo != 0 then a else b
  let p := a.poison || b.poison || c.poison
  if w then .dw x.d p else .w x.lo p

def execMov (g : Guard) (w : Bool) (d : Code) (a : Src) (s : State) : Host.Outcome State Fault Refusal :=
  finish (runAlu s (.mov g w d a) (movVal w))
def execSel (g : Guard) (w : Bool) (d : Code) (a b c : Src) (s : State) : Host.Outcome State Fault Refusal :=
  finish (runAlu s (.sel g w d a b c) (selVal w))

/-- The index check that movx and movxw share (R87). -/
def indexBad (w : Bool) (l : Lane) (n : Nat) : Bool :=
  decide (l.regs.length ≤ n) || (w && (decide (n % 2 = 1) || decide (l.regs.length ≤ n + 1)))

/-- Registers n, and n + 1 for a pair. -/
def indexRegs (w : Bool) (n : Nat) : List Nat := if w then [n, n + 1] else [n]

def movxAct (i : Instr) (w : Bool) (src : Src) (e : Ent) (a : Val) : Act :=
  match consumed i.uses [(.A, a)] with
  | some (c, n) => .trap c n
  | none =>
    let n := a.lo.toNat
    if indexBad w e.lane n then .trap 0x10 a.lo
    else
      let rs := (indexRegs w n).filter (fun k => !(e.lane.reg k).st.isFull)
      if rs.isEmpty then
        let r := e.lane.reg n
        let q := e.lane.reg (n + 1)
        .put (if w then ⟨r.v, q.v, r.poison, q.poison⟩ else .w r.v r.poison)
      else if src.tie && Code.isLane src.code then .trap 6 (BitVec.ofNat 32 (2 * 2 ^ 8 + n))
      else .block (.regs rs)

def execMovx (g : Guard) (w : Bool) (d : Code) (a : Src) (s : State) : Host.Outcome State Fault Refusal :=
  finish (runWord s (.movx g w d a) (fun _ e x _ _ => movxAct (.movx g w d a) w a e x))

def movxwAct (i : Instr) (w : Bool) (e : Ent) (a b : Val) : Act :=
  match consumed i.uses [(.A, a)] with
  | some (c, n) => .trap c n
  | none =>
    let n := a.lo.toNat
    if indexBad w e.lane n then .trap 0x10 a.lo
    else
      let rs := (indexRegs w n).filter (fun k => (e.lane.reg k).st.isPend)
      if rs.isEmpty then .upd (e.lane.writeD n w b) else .block (.regs rs)

def execMovxw (g : Guard) (w : Bool) (a b : Src) (s : State) : Host.Outcome State Fault Refusal :=
  finish (runWord s (.movxw g w a b) (fun _ e x y _ => movxwAct (.movxw g w a b) w e x y))

/-- A register made empty-open (R88); a courier write held for it then fills it at once. -/
def Lane.mkOpen (l : Lane) (n : Nat) (w : Bool) : Lane :=
  let f := fun (r : Reg) => { r with st := .opn }
  { l with regs := if w then modAt f (modAt f l.regs n) (n + 1) else modAt f l.regs n }

def execMkempty (g : Guard) (w : Bool) (d : Code) (s : State) : Host.Outcome State Fault Refusal :=
  finish (match s.wordCtx with
    | none => s
    | some x => settleHits (x.ents.foldl (fun s e => (indexRegs w d.toNat).foldl (fun s n => fillHeld s x.group.tid e.lid n) s)
        (runWord s (.mkempty g w d) (fun _ e _ _ _ => .upd (e.lane.mkOpen d.toNat w)))))

/-! ### 64-bit arithmetic (R89, R90) -/

def execAdd64 (g : Guard) (sat u : Bool) (d : Code) (a b : Src) (s : State) : Host.Outcome State Fault Refusal :=
  finish (runAlu s (.add64 g sat u d a b) (res2d (fun x y => narrow 64 sat u (ext u x + ext u y))))
def execSub64 (g : Guard) (sat u : Bool) (d : Code) (a b : Src) (s : State) : Host.Outcome State Fault Refusal :=
  finish (runAlu s (.sub64 g sat u d a b) (res2d (fun x y => narrow 64 sat u (ext u x - ext u y))))
def execLea (g : Guard) (u : Bool) (sh : BitVec 3) (d : Code) (a b : Src) (s : State) : Host.Outcome State Fault Refusal :=
  finish (runAlu s (.lea g u sh d a b) (fun x y _ => .dw (leaAddr u sh.toNat x.d y.lo) (x.poison || y.pl)))

/-! ### Cross-lane forms (R91, R92) -/

def gmaskAct (m : GMode) (xs : List Exe) (e : Ent) (a : Val) : Act :=
  match m with
  | .ballot => .put (.w (BitVec.ofNat 32 (sumOf (xs.map (fun x => if x.a.lo != 0 then 2 ^ x.ent.slot else 0)))) (xs.any (fun x => x.a.pl)))
  | .slot => .put (.w (BitVec.ofNat 32 e.slot) false)
  | .lid => .put (.w (match exeAt xs (a.lo.toNat % 32) with
      | some x => BitVec.ofNat 32 x.ent.lid
      | none => 0xFFFFFFFF) a.pl)

def execGmask (g : Guard) (m : GMode) (d : Code) (a : Src) (s : State) : Host.Outcome State Fault Refusal :=
  finish (runCross s (.gmask g m d a) (fun _ xs e x _ _ => gmaskAct m xs e x))

def shflAct (w : Bool) (m : SMode) (xs : List Exe) (e : Ent) (a b : Val) : Act :=
  let y := match (shflSlot m e.slot b.lo.toNat).bind (exeAt xs) with
    | some x => x.a
    | none => a
  .put (if w then .dw y.d (y.poison || b.pl) else .w y.lo (y.pl || b.pl))

def execShfl (g : Guard) (w : Bool) (m : SMode) (d : Code) (a b : Src) (s : State) : Host.Outcome State Fault Refusal :=
  finish (runCross s (.shfl g w m d a b) (fun _ xs e x y _ => shflAct w m xs e x y))

/-! ### Immediates (R93) -/

def execAddi (g : Guard) (d a : Code) (imm : Word) (s : State) : Host.Outcome State Fault Refusal :=
  finish (runAlu s (.addi g d a imm) (res1 (fun x => x + imm)))
def execMovi (g : Guard) (d : Code) (imm : Word) (s : State) : Host.Outcome State Fault Refusal :=
  finish (runAlu s (.movi g d imm) (fun _ _ _ => .w imm false))

/-! ### Control (R94 to R98) -/

/-- The link pair of a taken transfer: the fall-through address, zero-extended (R94). -/
def Lane.link (l : Lane) (d : Code) (fall : Addr) : Lane :=
  if Code.isLane d then l.writeD d.toNat true (.dw (fall.setWidth 64) false) else l

def execBra (g : Guard) (d : Code) (off : BitVec 40) (s : State) : Host.Outcome State Fault Refusal :=
  finish (runWord s (.bra g d off) (fun w e _ _ _ =>
    .jump { e.lane.link d (fallThrough w.group.h w.group.hdr) with
      h := w.group.h + BitVec.ofInt 56 (8 * off.toInt), slot := none }))

/-- Where a taken brx goes: the header at x, or with SLOT a word of the clause at x or its fall-through (R95). -/
inductive BrxTo
  | go (h : Addr) (slot : Option Nat)
  | wait (p : Nat)
  | edge (u : Nat)
  | range
deriving DecidableEq, Repr

/-- The target of brx.slot, by the header at x: a header that is not legal, or that cannot be fetched, is entered at x, where it
raises its own trap. -/
def brxSlot (s : State) (w : WordCtx) (e : Ent) (x : Addr) (k : Nat) : BrxTo × State :=
  match fetchWord s (s.tagsOf w.core w.team) x.toNat e.lane.refused with
  | (.error (.page p), s) => (.wait p, request s w.grid.ctx p (dieOf w.core))
  | (.error (.edge u), s) => (.edge u, s)
  | (.error (.fail _), s) => (.go x none, s)
  | (.ok hdr, s) =>
    if hdrBad hdr then (.go x none, s)
    else if hdrCount hdr + 1 < k then (.range, s)
    else if k = hdrCount hdr + 1 then (.go (fallThrough x hdr) none, s)
    else (.go x (some k), s)

def brxAct (i : Instr) (slot : Bool) (d : Code) (s : State) (w : WordCtx) (e : Ent) (a b : Val) : Act × State :=
  match consumed i.uses ([(Pos.A, a)] ++ if slot then [(Pos.B, b)] else []) with
  | some (c, n) => (.trap c n, s)
  | none =>
    let x : Addr := a.d.extractLsb' 0 56
    if x.toNat % 8 ≠ 0 then (.trap 0x11 a.lo, s)
    else
      let (goal, s) := if slot then brxSlot s w e x b.lo.toNat else (BrxTo.go x none, s)
      match goal with
      | .wait p => (.block (.fetch p), s)
      | .edge u => edgeBlock s w e u x.toNat
      | .range => (.trap 0x12 b.lo, s)
      | .go h k => (.jump (({ e.lane with refused := none }.link d (fallThrough w.group.h w.group.hdr)).returnFromTrap h k), s)

def execBrx (g : Guard) (slot : Bool) (d : Code) (a b : Src) (s : State) : Host.Outcome State Fault Refusal :=
  finish (runSeq s (.brx g slot d a b) (fun s w e x y _ => brxAct (.brx g slot d a b) slot d s w e x y))

def execExit (g : Guard) (s : State) : Host.Outcome State Fault Refusal :=
  finish (runSeq s (.exit g) (fun s w e _ _ _ => (.leave { e.lane with exited := true }, dropCouriers s w.group.tid e.lid)))

def execTrap (g : Guard) (a : Src) (s : State) : Host.Outcome State Fault Refusal :=
  finish (runWord s (.trap g a) (fun _ _ x _ _ => .trap 0x13 x.lo))

/-- The baton goes to a team of a pair; a holder inside a clause with the BATON bit keeps it until the clause ends (R98). -/
def moveBaton (s : State) (heir other : Nat) : State :=
  let holds := ((s.team other).map Team.holder).getD false
  if holds then batonCheck (s.modTeam other (fun t => { t with batonMove := some heir })) other
  else (s.modTeam heir (fun t => { t with holder := true, batonMove := none })).modTeam other (fun t => { t with batonMove := none })

/-- One lane's baton act: the partner named by its linear index, and whether the pair may form (R98). -/
def batonAct (take : Bool) (s : State) (w : WordCtx) (tlin : Nat) : Bool × State :=
  let x := w.group.tid
  match firstWith (fun (e : Nat × Team) => e.2.lseq == w.team.lseq && e.2.tlin == tlin
      && (match e.2.loc with | .resident c _ => c == w.core | .saving _ _ | .saved => false)) s.teams with
  | none => (false, s)
  | some (y, ty) =>
    let px := (s.team x).bind Team.partner
    if y = x || (px.isSome && px != some y) || (ty.partner.isSome && ty.partner != some x) then (false, s)
    else
      let s := (s.modTeam x (fun t => { t with partner := some y })).modTeam y (fun t => { t with partner := some x })
      (true, if take then moveBaton s x y else moveBaton s y x)

def execBaton (g : Guard) (tk : Bool) (d : Code) (a : Src) (s : State) : Host.Outcome State Fault Refusal :=
  finish (runSeq s (.baton g tk d a) (fun s w _ x _ _ =>
    if x.pl && isScal d.toNat then (.put (.w 0 true), s)
    else
      let (ok, s) := batonAct tk s w x.lo.toNat
      (.put (.w (b2w ok) x.pl), s)))

end Sys2Proof.Machine
end

