-- ==== Sys2Proof/Machine/FloatEngine.lean ====
section
/-! DEFINITION. FloatEngine.lean: the meanings of class 0x1 (R118 to R129). No form consumes poison or raises a trap of its own
(R114). -/

namespace Sys2Proof.Machine

open Sys2Proof

/-- A class 0x1 word: its result from the team's flush bit and the sources (R113, R118). -/
def runFp (s : State) (i : Instr) (f : Bool → Val → Val → Val → Val) : State :=
  runWord s i (fun w _ a b c => .put (f w.team.flush a b c))

def execFadd (g : Guard) (sat : Bool) (rm : RMode) (d : Code) (a b : Src) (s : State) : Host.Outcome State Fault Refusal :=
  finish (runFp s (.fadd g sat rm d a b) (fun fl => res2 (fAdd fl rm sat)))
def execFsub (g : Guard) (sat : Bool) (rm : RMode) (d : Code) (a b : Src) (s : State) : Host.Outcome State Fault Refusal :=
  finish (runFp s (.fsub g sat rm d a b) (fun fl => res2 (fSub fl rm sat)))
def execFmul (g : Guard) (sat : Bool) (rm : RMode) (d : Code) (a b : Src) (s : State) : Host.Outcome State Fault Refusal :=
  finish (runFp s (.fmul g sat rm d a b) (fun fl => res2 (fMul fl rm sat)))
def execFfma (g : Guard) (sat : Bool) (rm : RMode) (d : Code) (a b c : Src) (s : State) : Host.Outcome State Fault Refusal :=
  finish (runFp s (.ffma g sat rm d a b c) (fun fl => res3 (fFma fl rm sat)))
def execFmin (g : Guard) (prop : Bool) (d : Code) (a b : Src) (s : State) : Host.Outcome State Fault Refusal :=
  finish (runFp s (.fmin g prop d a b) (fun fl => res2 (fMinMax false fl prop)))
def execFmax (g : Guard) (prop : Bool) (d : Code) (a b : Src) (s : State) : Host.Outcome State Fault Refusal :=
  finish (runFp s (.fmax g prop d a b) (fun fl => res2 (fMinMax true fl prop)))
def execFabs (g : Guard) (d : Code) (a : Src) (s : State) : Host.Outcome State Fault Refusal :=
  finish (runFp s (.fabs g d a) (fun _ => res1 fAbs))
def execFneg (g : Guard) (d : Code) (a : Src) (s : State) : Host.Outcome State Fault Refusal :=
  finish (runFp s (.fneg g d a) (fun _ => res1 fNeg))
def execFadd2 (g : Guard) (sat : Bool) (rm : RMode) (t : PkT) (d : Code) (a b : Src) (s : State) : Host.Outcome State Fault Refusal :=
  finish (runFp s (.fadd2 g sat rm t d a b) (fun _ => res2 (fun x y => pk2 t rm sat (fun p q _ => fxAdd rm p q) x y 0)))
def execFmul2 (g : Guard) (sat : Bool) (rm : RMode) (t : PkT) (d : Code) (a b : Src) (s : State) : Host.Outcome State Fault Refusal :=
  finish (runFp s (.fmul2 g sat rm t d a b) (fun _ => res2 (fun x y => pk2 t rm sat (fun p q _ => fxMul p q) x y 0)))
def execFfma2 (g : Guard) (sat : Bool) (rm : RMode) (t : PkT) (d : Code) (a b c : Src) (s : State) : Host.Outcome State Fault Refusal :=
  finish (runFp s (.ffma2 g sat rm t d a b c) (fun _ => res3 (pk2 t rm sat (fun p q r => fxAdd rm (fxMul p q) r))))
def execFcmp (g : Guard) (cmp : FCmp) (t : CmT) (d : Code) (a b : Src) (s : State) : Host.Outcome State Fault Refusal :=
  finish (runFp s (.fcmp g cmp t d a b) (fun fl => res2 (fCmp fl cmp t)))
def execFcvt (g : Guard) (rm : RMode) (k : CvKind) (d : Code) (a : Src) (s : State) : Host.Outcome State Fault Refusal :=
  finish (runFp s (.fcvt g rm k d a) (fun fl => res1 (fCvt fl rm k)))
def execFpack (g : Guard) (t : NarT) (sat rs : Bool) (d : Code) (a b c : Src) (s : State) : Host.Outcome State Fault Refusal :=
  finish (runFp s (.fpack g t sat rs d a b c) (fun fl => res3 (fPack fl t sat rs)))
def execFunpk (g : Guard) (t : NarT) (sc : Bool) (d : Code) (a b c : Src) (s : State) : Host.Outcome State Fault Refusal :=
  finish (runFp s (.funpk g t sc d a b c) (fun fl => res3 (fUnpk fl t sc)))
def execFex2 (g : Guard) (sat : Bool) (rm : RMode) (d : Code) (a : Src) (s : State) : Host.Outcome State Fault Refusal :=
  finish (runFp s (.fex2 g sat rm d a) (fun fl => res1 (fEx2 fl rm sat)))
def execFlg2 (g : Guard) (sat : Bool) (rm : RMode) (d : Code) (a : Src) (s : State) : Host.Outcome State Fault Refusal :=
  finish (runFp s (.flg2 g sat rm d a) (fun fl => res1 (fLg2 fl rm sat)))
def execFrcp (g : Guard) (sat : Bool) (d : Code) (a : Src) (s : State) : Host.Outcome State Fault Refusal :=
  finish (runFp s (.frcp g sat d a) (fun fl => res1 (fRcp fl sat)))
def execFrsq (g : Guard) (sat : Bool) (d : Code) (a : Src) (s : State) : Host.Outcome State Fault Refusal :=
  finish (runFp s (.frsq g sat d a) (fun fl => res1 (fRsq fl sat)))
def execFdiv (g : Guard) (sat : Bool) (rm : RMode) (d : Code) (a b : Src) (s : State) : Host.Outcome State Fault Refusal :=
  finish (runFp s (.fdiv g sat rm d a b) (fun fl => res2 (fDiv fl rm sat)))
def execFsqrt (g : Guard) (sat : Bool) (rm : RMode) (d : Code) (a : Src) (s : State) : Host.Outcome State Fault Refusal :=
  finish (runFp s (.fsqrt g sat rm d a) (fun fl => res1 (fSqrt fl rm sat)))
def execRnd (g : Guard) (o : ROut) (d : Code) (a b c : Src) (s : State) : Host.Outcome State Fault Refusal :=
  finish (runFp s (.rnd g o d a b c) (fun _ => res3 (fRnd o)))

end Sys2Proof.Machine
end

