-- ==== Sys2Proof/Machine/Pigeonhole.lean ====
section
/-! DEFINITION. Pigeonhole.lean: the meanings of the format R words of class 0x5 (R223 to R238). -/

namespace Sys2Proof.Machine

open Sys2Proof

/-- An act on an object by a lane of the executing word, numbered by the next fresh number. -/
def actOf (s : State) (w : WordCtx) (e : Ent) (i : Instr) (kind : PActKind) (scope owner num : Nat) : PAct :=
  { kind := kind, scope := scope, owner := owner, num := num, tid := w.group.tid, lid := e.lid,
    d := ((destOf i).map (fun u => u.code.toNat)).getD 224, wide := ((destOf i).map (fun u => u.kind.wide)).getD false,
    h := w.group.h, slot := w.group.slot, count := hdrCount w.group.hdr, since := s.cyc }

/-- An act starts to wait. -/
def enqueueAct (s : State) (a : PAct) : State := { s with ids := s.ids + 1, pacts := Tab.put s.ids a s.pacts }

/-- An act that owes D: it waits its turn, and is served at once where its turn has come (R228, R231). -/
def takeAct (s : State) (w : WordCtx) (e : Ent) (i : Instr) (kind : PActKind) (p : Pigeon) : Act × State :=
  (oweD s i e, serveAct (enqueueAct s (actOf s w e i kind p.scope p.owner p.num)) s.ids)

/-- An act for which the lane stays at the word until it is performed. -/
def holdAct (s : State) (w : WordCtx) (e : Ent) (i : Instr) (kind : PActKind) (p : Pigeon) : Act × State :=
  (.block (.act s.ids), enqueueAct s (actOf s w e i kind p.scope p.owner p.num))

/-- Checks 1 and 2 of R224 and the parking of R246, then the act on the pigeonhole that a handle names. -/
def onHole (s : State) (w : WordCtx) (e : Ent) (h : Word) (fits : Pigeon → Bool) (own : Pigeon → Option (Nat × Word)) (k : Pigeon → Act × State) :
    Act × State :=
  if s.holeOwed w.group.tid e.lid h s.ids then (.block (.holeCmd h), s)
  else match s.named w.group.tid w.core w.grid.ctx h with
  | none => (.trap 0x60 h, s)
  | some p =>
    if !fits p then (.trap 0x61 h, s)
    else match own p with
      | some (c, n) => (.trap c n, s)
      | none => if decide (1 ≤ p.scope) && mustPark s w then (.park, s) else k p

/-! ### Queues (R228) -/

/-- The stamp requests on the queue of a handle that FREE has reached are granted before a push comes (R229 rule 2). -/
def grantFirst (s : State) (w : WordCtx) (h : Word) : State :=
  match s.named w.group.tid w.core w.grid.ctx h with
  | none => s
  | some p => if s.servable p PActKind.isStamp then grantStamps s p.scope p.owner p.num (s.waiting p PActKind.isStamp).length else s

/-- push for one lane. -/
def pushAct (i : Instr) (st wd : Bool) (s : State) (w : WordCtx) (e : Ent) (a b : Val) : Act × State :=
  if a.pl then (.off, s)
  else
    let s := grantFirst s w a.lo
    onHole s w e a.lo (fun p => p.kind == b2n wd) (fun p => if st && p.resv == 0 then some (0x62, a.lo) else none) (fun p =>
      if !s.ldpDone w.group.tid e.lid then (.block .ldp, s)
      else
        let v : Entry := if wd then ⟨b.d, b.poison⟩ else ⟨b.lo.setWidth 64, b.pl⟩
        if st then (.off, holeDone s (p.pushStamped v) 0 w.group.tid e.lid)
        else if !(s.waiting p PActKind.isPush).isEmpty then holdAct s w e i (.push v) p
        else match p.pushNow (s.chunksFree p.ctx) v with
          | some q => (.off, holeDone s q 0 w.group.tid e.lid)
          | none => holdAct s w e i (.push v) p)

def execPush (g : Guard) (st w : Bool) (a b : Src) (s : State) : Host.Outcome State Fault Refusal :=
  finish (runSeq s (.push g st w a b) (fun s x e u v _ => pushAct (.push g st w a b) st w s x e u v))

/-- pop and rtake for one lane. -/
def takeLane (i : Instr) (kind : PActKind) (fits : Pigeon → Bool) (s : State) (w : WordCtx) (e : Ent) (a : Val) : Act × State :=
  if a.pl then deliverLater s w e i poisonVal
  else onHole s w e a.lo fits (fun _ => none) (fun p => takeAct s w e i kind p)

def execPop (g : Guard) (w : Bool) (d : Code) (a : Src) (s : State) : Host.Outcome State Fault Refusal :=
  finish (runSeq s (.pop g w d a) (fun s x e u _ _ => takeLane (.pop g w d a) .pop (fun p => p.kind == b2n w) s x e u))

def execPoll (g : Guard) (d : Code) (a : Src) (s : State) : Host.Outcome State Fault Refusal :=
  finish (runSeq s (.poll g d a) (fun s x e u _ _ => takeLane (.poll g d a) .poll (fun p => p.kind == 0) s x e u))

/-- stamp for one lane. -/
def stampAct (i : Instr) (s : State) (w : WordCtx) (e : Ent) (a b : Val) : Act × State :=
  if a.pl || b.pl then deliverLater s w e i poisonVal
  else onHole s w e a.lo (fun p => p.kind != 2)
    (fun p => if b.lo = 0 ∨ p.depth < b.lo.toNat then some (0x63, b.lo) else none)
    (fun p => takeAct s w e i (.stamp b.lo.toNat) p)

def execStamp (g : Guard) (d : Code) (a b : Src) (s : State) : Host.Outcome State Fault Refusal :=
  finish (runSeq s (.stamp g d a b) (fun s x e u v _ => stampAct (.stamp g d a b) s x e u v))

/-! ### Racks (R230, R231) -/

/-- rput for one lane. -/
def rputAct (i : Instr) (s : State) (w : WordCtx) (e : Ent) (a b c : Val) : Act × State :=
  if a.pl || b.pl then (.off, s)
  else
    let v : Entry := ⟨c.lo.setWidth 64, c.pl⟩
    let t := b.lo.toNat
    onHole s w e a.lo (fun p => p.kind == 2)
      (fun p => if !s.servable p PActKind.isPut && p.rputNow t v == .stale then some (0x64, b.lo) else none)
      (fun p =>
        if !s.ldpDone w.group.tid e.lid then (.block .ldp, s)
        else if s.servable p PActKind.isPut then holdAct s w e i (.rput t v) p
        else match p.rputNow t v with
          | .put q => (.off, holeDone s q 0 w.group.tid e.lid)
          | .beyond | .stale => holdAct s w e i (.rput t v) p)

def execRput (g : Guard) (a b c : Src) (s : State) : Host.Outcome State Fault Refusal :=
  finish (runSeq s (.rput g a b c) (fun s x e u v y => rputAct (.rput g a b c) s x e u v y))

def execRtake (g : Guard) (d : Code) (a : Src) (s : State) : Host.Outcome State Fault Refusal :=
  finish (runSeq s (.rtake g d a) (fun s x e u _ _ => takeLane (.rtake g d a) .rtake (fun p => p.kind == 2) s x e u))

/-! ### Collection points (R233 to R235) -/

/-- The point of the lane's team that a number names, by check 1 of R224; a phq of the lane on it that is still to step and an ldp of the lane
that is still to arrive there come first (R226). -/
def onPoint (s : State) (w : WordCtx) (e : Ent) (a : Word) (k : Point → Act × State) : Act × State :=
  if s.holeOwed w.group.tid e.lid (pointHandle a.toNat) s.ids then (.block (.holeCmd (pointHandle a.toNat)), s)
  else match (s.team w.group.tid).bind (fun t => Tab.find a.toNat t.points) with
  | none => (.trap 0x60 a, s)
  | some pt =>
    if s.flights.any (fun x => x.2.tid == w.group.tid && x.2.lid == e.lid && (match x.2.kind with
        | .ldp _ n => n == a.toNat
        | _ => false)) then (.block .ldp, s)
    else k pt

/-- arrive for one lane. -/
def arriveAct (s : State) (w : WordCtx) (e : Ent) (a b : Val) : Act × State :=
  if a.pl then (.off, s)
  else onPoint s w e a.lo (fun _ =>
    if !b.pl && decide (65535 < b.lo.toNat) then (.trap 0x65 b.lo, s)
    else if !s.ldpDone w.group.tid e.lid then (.block .ldp, s)
    else (.off, arriveAt s w.group.tid a.lo.toNat (if b.pl then 1 else b.lo.toNat) b.pl w.group.tid e.lid))

def execArrive (g : Guard) (a b : Src) (s : State) : Host.Outcome State Fault Refusal :=
  finish (runSeq s (.arrive g a b) (fun s x e u v _ => arriveAct s x e u v))

/-- await for one lane. -/
def awaitAct (i : Instr) (s : State) (w : WordCtx) (e : Ent) (a b : Val) : Act × State :=
  if a.pl || b.pl then deliverLater s w e i poisonVal
  else onPoint s w e a.lo (fun pt => match pt.awaited b.lo.toNat with
    | some (v, x) => deliverLater s w e i (.w v x)
    | none => (oweD s i e, enqueueAct s (actOf s w e i (.await b.lo.toNat) 3 w.group.tid a.lo.toNat)))

def execAwait (g : Guard) (d : Code) (a b : Src) (s : State) : Host.Outcome State Fault Refusal :=
  finish (runSeq s (.await g d a b) (fun s x e u v _ => awaitAct (.await g d a b) s x e u v))

/-- expect for one lane. -/
def expectAct (s : State) (w : WordCtx) (e : Ent) (a b : Val) : Act × State :=
  if a.pl || b.pl then (.off, s)
  else onPoint s w e a.lo (fun pt =>
    if b.lo = 0 ∨ 65535 < b.lo.toNat then (.trap 0x65 b.lo, s)
    else (.off, pointAct s w.group.tid a.lo.toNat { pt with expect := b.lo.toNat, once := true } w.group.tid e.lid false))

def execExpect (g : Guard) (a b : Src) (s : State) : Host.Outcome State Fault Refusal :=
  finish (runSeq s (.expect g a b) (fun s x e u v _ => expectAct s x e u v))

/-! ### Courier writes (R236, R237) -/

/-- The team that a courier write names: of the grid, resident in the issuing cluster, or saved. -/
def courierTeam (s : State) (w : WordCtx) (tlin : Nat) : Option (Nat × Team) :=
  firstWith (fun (e : Nat × Team) => e.2.lseq == w.team.lseq && e.2.tlin == tlin && (match e.2.loc with
    | .resident c _ | .saving c _ => clusterOf c == clusterOf w.core
    | .saved => true)) s.teams

/-- cwr for one lane. -/
def cwrAct (s : State) (w : WordCtx) (e : Ent) (a b : Val) : Act × State :=
  if a.poison then (.off, s)
  else
    let x := a.d.toNat
    let lid := fld x 0 10
    let reg := fld x 10 7
    let pt := fld x 17 5
    match courierTeam s w (fld x 32 32) with
    | none => (.trap 0x66 a.lo, s)
    | some (tid, t) =>
      let l := nth {} t.lanes lid
      if fld x 23 9 ≠ 0 ∨ t.lanes.length ≤ lid ∨ l.exited ∨ l.regs.length ≤ reg
          ∨ (!bit x 22 && (Tab.find pt t.points).isNone) then (.trap 0x66 a.lo, s)
      else if !s.ldpDone w.group.tid e.lid then (.block .ldp, s)
      else if !bit x 22 && tid == w.group.tid && s.holeOwed tid e.lid (pointHandle pt) s.ids then (.block (.holeCmd (pointHandle pt)), s)
      else match t.place with
        | some (c, _) =>
          if 64 ≤ s.heldAt c then (.block (.hold c), s)
          else
            let n := s.ids
            let k : Courier := ⟨tid, lid, reg, b.lo, b.pl, if bit x 22 then none else some pt, w.group.tid, e.lid⟩
            (.off, courierFillNow { s with ids := n + 1, couriers := Tab.put n k s.couriers } n)
        | none =>
          let k : Courier := ⟨tid, lid, reg, b.lo, b.pl, if bit x 22 then none else some pt, w.group.tid, e.lid⟩
          (.off, { s with ids := s.ids + 1, couriers := Tab.put s.ids k s.couriers })

def execCwr (g : Guard) (a b : Src) (s : State) : Host.Outcome State Fault Refusal :=
  finish (runSeq s (.cwr g a b) (fun s x e u v _ => cwrAct s x e u v))

/-! ### Waiting on a pad word (R238) -/

/-- waitw for one lane. -/
def waitwAct (s : State) (w : WordCtx) (e : Ent) (a b : Val) : Act × State :=
  if a.pl || b.pl then (.off, s)
  else match padCheck w.team a.lo.toNat 4 with
    | some (c, n) => (.trap c n, s)
    | none =>
      if !s.ldpDone w.group.tid e.lid then (.block .ldp, s)
      else if BitVec.ofNat 32 (leNat (padRead s w.group.tid a.lo.toNat 4)) = b.lo then
        (.block (.word a.lo.toNat b.lo (advance w.group e.lane).h (advance w.group e.lane).slot), s)
      else (.off, s)

def execWaitw (g : Guard) (a b : Src) (s : State) : Host.Outcome State Fault Refusal :=
  finish (runSeq s (.waitw g a b) (fun s x e u v _ => waitwAct s x e u v))

end Sys2Proof.Machine
end

