-- ==== Sys2Proof/Machine/Translation.lean ====
section
/-! DEFINITION. Translation.lean: the meanings of class 0x3 (R190 to R193). -/

namespace Sys2Proof.Machine

open Sys2Proof

/-- psnt: the poison bit of a as a value; the result carries none (R191). -/
def psntVal (a _ _ : Val) : Val := .w (b2w a.poison) false

def execPsnt (g : Guard) (w : Bool) (d : Code) (a : Src) (s : State) : Host.Outcome State Fault Refusal :=
  finish (runAlu s (.psnt g w d a) psntVal)

/-- Clears the poison bit of a register unless it is empty-open (R191). -/
def Lane.clearPoison (l : Lane) (n : Nat) : Lane :=
  { l with regs := modAt (fun (r : Reg) => if r.st = .opn then r else { r with poison := false }) l.regs n }

/-- psnc: clears the poison bit of D, a register, a pair or a predicate. -/
def psncLane (w : Bool) (d : Code) (l : Lane) : Lane :=
  let n := d.toNat
  if n < 128 then if w then (l.clearPoison n).clearPoison (n + 1) else l.clearPoison n
  else l.setPred (n - 160) (l.pred (n - 160)).v false

def execPsnc (g : Guard) (w : Bool) (d : Code) (s : State) : Host.Outcome State Fault Refusal :=
  finish (runWord s (.psnc g w d) (fun _ e _ _ _ => .upd (psncLane w d e.lane)))

/-- xlq for one lane: translated at its delivery, by which a page that FILL asks for has been served (R192); the dead-letter window
acts as a writable page that no leaf maps (R186). -/
def xlqAct (i : Instr) (fill wr : Bool) (s : State) (w : WordCtx) (e : Ent) (a : Val) : Act × State :=
  if a.poison then deliverLater s w e i poisonVal
  else
    let page := s.pageAt w.grid.ctx a.d.toNat
    let f := flightOf s w e i (.xlq fill wr) a.d
    if fld a.d.toNat 56 4 = 0 ∧ (s.window w.grid.ctx (eaVa a.d)).isSome then (oweD s i e, launch s f)
    else match translate s (clusterOf w.core) w.grid.ctx a.d.toNat (if wr then .wr else .rd) 1 with
    | (.fail 1 _, s') =>
      if fill then (oweD s' i e, launch (request s' w.grid.ctx page (dieOf w.core)) { f with stage := .page page })
      else (oweD s' i e, launch s' f)
    | (_, s') => (oweD s' i e, launch s' f)

def execXlq (g : Guard) (fill wr : Bool) (d : Code) (a : Src) (s : State) : Host.Outcome State Fault Refusal :=
  finish (runSeq s (.xlq g fill wr d a) (fun s w e x _ _ => xlqAct (.xlq g fill wr d a) fill wr s w e x))

/-- The pointer of the 256-byte block at a pointer, without its tag (R193). -/
def tagBlock (a : DWord) : DWord := BitVec.ofNat 64 (fld a.toNat 56 4 * 2 ^ 56 + eaVa a / 256 * 256)

/-- tagr for one lane: a load of the tags (R193). -/
def tagrAct (i : Instr) (s : State) (w : WordCtx) (e : Ent) (a : Val) : Act × State :=
  if a.poison then deliverLater s w e i poisonVal
  else watched s w e true false (tagBlock a.d) 256 (fun e s => loadLane s w e i .tagr .tagr .fresh (tagBlock a.d) 256 a.d)

def execTagr (g : Guard) (d : Code) (a : Src) (s : State) : Host.Outcome State Fault Refusal :=
  finish (runLoad s (.tagr g d a) (fun s w e x _ _ => tagrAct (.tagr g d a) s w e x))

/-- tagw for one lane: one write of the tags at the home slice, an irrevocable act (R193). -/
def tagwAct (i : Instr) (s : State) (w : WordCtx) (e : Ent) (a b : Val) : Act × State :=
  match consumed i.uses [(.A, a), (.B, b)] with
  | some (c, n) => (.trap c n, s)
  | none => watched s w e false true (tagBlock a.d) 256 (fun e s => storeLane s w e i .tagw .tagw (tagBlock a.d) 256 b.d false a.d)

def execTagw (g : Guard) (a b : Src) (s : State) : Host.Outcome State Fault Refusal :=
  finish (runStore s (.tagw g a b) (fun s w e x y _ => tagwAct (.tagw g a b) s w e x y))

end Sys2Proof.Machine
end

