-- ==== Sys2Proof/Machine/Dispatch.lean ====
section
/-! DEFINITION. Dispatch.lean: one arm for each row of spec/opcode_table.json, each a call of its meaning. -/

namespace Sys2Proof.Machine

open Sys2Proof

/-- What a step of the device does to the state. -/
def exec (i : Instr) (s : State) : Host.Outcome State Fault Refusal :=
  match i with
  | .add g sat u d a b => Sys2Proof.Machine.execAdd g sat u d a b s
  | .sub g sat u d a b => Sys2Proof.Machine.execSub g sat u d a b s
  | .mul g sat u d a b => Sys2Proof.Machine.execMul g sat u d a b s
  | .mulh g u d a b => Sys2Proof.Machine.execMulh g u d a b s
  | .mad g sat u d a b c => Sys2Proof.Machine.execMad g sat u d a b c s
  | .min g u d a b => Sys2Proof.Machine.execMin g u d a b s
  | .max g u d a b => Sys2Proof.Machine.execMax g u d a b s
  | .abs g sat d a => Sys2Proof.Machine.execAbs g sat d a s
  | .neg g sat d a => Sys2Proof.Machine.execNeg g sat d a s
  | .and g d a b => Sys2Proof.Machine.execAnd g d a b s
  | .or g d a b => Sys2Proof.Machine.execOr g d a b s
  | .xor g d a b => Sys2Proof.Machine.execXor g d a b s
  | .not g d a => Sys2Proof.Machine.execNot g d a s
  | .shl g d a b => Sys2Proof.Machine.execShl g d a b s
  | .shr g sx d a b => Sys2Proof.Machine.execShr g sx d a b s
  | .rot g d a b => Sys2Proof.Machine.execRot g d a b s
  | .popc g d a => Sys2Proof.Machine.execPopc g d a s
  | .clz g d a => Sys2Proof.Machine.execClz g d a s
  | .brev g d a => Sys2Proof.Machine.execBrev g d a s
  | .bfe g sx d a b => Sys2Proof.Machine.execBfe g sx d a b s
  | .bfi g d a b c => Sys2Proof.Machine.execBfi g d a b c s
  | .bperm g d a b c => Sys2Proof.Machine.execBperm g d a b c s
  | .icmp g w u cmp d a b => Sys2Proof.Machine.execIcmp g w u cmp d a b s
  | .pand g nb na d a b => Sys2Proof.Machine.execPand g nb na d a b s
  | .por g nb na d a b => Sys2Proof.Machine.execPor g nb na d a b s
  | .pxor g nb na d a b => Sys2Proof.Machine.execPxor g nb na d a b s
  | .pnot g d a => Sys2Proof.Machine.execPnot g d a s
  | .mov g w d a => Sys2Proof.Machine.execMov g w d a s
  | .sel g w d a b c => Sys2Proof.Machine.execSel g w d a b c s
  | .movx g w d a => Sys2Proof.Machine.execMovx g w d a s
  | .movxw g w a b => Sys2Proof.Machine.execMovxw g w a b s
  | .mkempty g w d => Sys2Proof.Machine.execMkempty g w d s
  | .add64 g sat u d a b => Sys2Proof.Machine.execAdd64 g sat u d a b s
  | .sub64 g sat u d a b => Sys2Proof.Machine.execSub64 g sat u d a b s
  | .lea g u sh d a b => Sys2Proof.Machine.execLea g u sh d a b s
  | .gmask g m d a => Sys2Proof.Machine.execGmask g m d a s
  | .shfl g w m d a b => Sys2Proof.Machine.execShfl g w m d a b s
  | .addi g d a imm => Sys2Proof.Machine.execAddi g d a imm s
  | .movi g d imm => Sys2Proof.Machine.execMovi g d imm s
  | .bra g d off => Sys2Proof.Machine.execBra g d off s
  | .brx g slot d a b => Sys2Proof.Machine.execBrx g slot d a b s
  | .exit g => Sys2Proof.Machine.execExit g s
  | .trap g a => Sys2Proof.Machine.execTrap g a s
  | .baton g tk d a => Sys2Proof.Machine.execBaton g tk d a s
  | .fadd g sat rm d a b => Sys2Proof.Machine.execFadd g sat rm d a b s
  | .fsub g sat rm d a b => Sys2Proof.Machine.execFsub g sat rm d a b s
  | .fmul g sat rm d a b => Sys2Proof.Machine.execFmul g sat rm d a b s
  | .ffma g sat rm d a b c => Sys2Proof.Machine.execFfma g sat rm d a b c s
  | .fdiv g sat rm d a b => Sys2Proof.Machine.execFdiv g sat rm d a b s
  | .fsqrt g sat rm d a => Sys2Proof.Machine.execFsqrt g sat rm d a s
  | .fmin g prop d a b => Sys2Proof.Machine.execFmin g prop d a b s
  | .fmax g prop d a b => Sys2Proof.Machine.execFmax g prop d a b s
  | .fabs g d a => Sys2Proof.Machine.execFabs g d a s
  | .fneg g d a => Sys2Proof.Machine.execFneg g d a s
  | .fadd2 g sat rm t d a b => Sys2Proof.Machine.execFadd2 g sat rm t d a b s
  | .fmul2 g sat rm t d a b => Sys2Proof.Machine.execFmul2 g sat rm t d a b s
  | .ffma2 g sat rm t d a b c => Sys2Proof.Machine.execFfma2 g sat rm t d a b c s
  | .fcmp g cmp t d a b => Sys2Proof.Machine.execFcmp g cmp t d a b s
  | .fcvt g rm k d a => Sys2Proof.Machine.execFcvt g rm k d a s
  | .fpack g t sat rs d a b c => Sys2Proof.Machine.execFpack g t sat rs d a b c s
  | .funpk g t sc d a b c => Sys2Proof.Machine.execFunpk g t sc d a b c s
  | .fex2 g sat rm d a => Sys2Proof.Machine.execFex2 g sat rm d a s
  | .flg2 g sat rm d a => Sys2Proof.Machine.execFlg2 g sat rm d a s
  | .frcp g sat d a => Sys2Proof.Machine.execFrcp g sat d a s
  | .frsq g sat d a => Sys2Proof.Machine.execFrsq g sat d a s
  | .rnd g out d a b c => Sys2Proof.Machine.execRnd g out d a b c s
  | .ld g h sz d a off => Sys2Proof.Machine.execLd g h sz d a off s
  | .st g stream sz a b off => Sys2Proof.Machine.execSt g stream sz a b off s
  | .pld g sz d a off => Sys2Proof.Machine.execPld g sz d a off s
  | .pst g sz a b off => Sys2Proof.Machine.execPst g sz a b off s
  | .ldp g pt a b => Sys2Proof.Machine.execLdp g pt a b s
  | .rmw g fn ty d a b off => Sys2Proof.Machine.execRmw g fn ty d a b off s
  | .prmw g fn ty d a b off => Sys2Proof.Machine.execPrmw g fn ty d a b off s
  | .red g fn ty a b off => Sys2Proof.Machine.execRed g fn ty a b off s
  | .fence g sc => Sys2Proof.Machine.execFence g sc s
  | .fenceLd g => Sys2Proof.Machine.execFenceLd g s
  | .bank g m a b => Sys2Proof.Machine.execBank g m a b s
  | .bankq g d a => Sys2Proof.Machine.execBankq g d a s
  | .lease g len => Sys2Proof.Machine.execLease g len s
  | .pref g lvl a off => Sys2Proof.Machine.execPref g lvl a off s
  | .qpush g a b => Sys2Proof.Machine.execQpush g a b s
  | .qpop g d a => Sys2Proof.Machine.execQpop g d a s
  | .psnt g w d a => Sys2Proof.Machine.execPsnt g w d a s
  | .psnc g w d => Sys2Proof.Machine.execPsnc g w d s
  | .xlq g fill wr d a => Sys2Proof.Machine.execXlq g fill wr d a s
  | .tagr g d a => Sys2Proof.Machine.execTagr g d a s
  | .tagw g a b => Sys2Proof.Machine.execTagw g a b s
  | .copy g stream sig dp sp d a => Sys2Proof.Machine.execCopy g stream sig dp sp d a s
  | .fill g stream sig dp d a b => Sys2Proof.Machine.execFill g stream sig dp d a b s
  | .gath g stream sig dp sp d a => Sys2Proof.Machine.execGath g stream sig dp sp d a s
  | .scat g stream sig dp sp d a => Sys2Proof.Machine.execScat g stream sig dp sp d a s
  | .copy2d g stream sig dp sp d a => Sys2Proof.Machine.execCopy2d g stream sig dp sp d a s
  | .publish g d a b => Sys2Proof.Machine.execPublish g d a b s
  | .smerge g ord d a => Sys2Proof.Machine.execSmerge g ord d a s
  | .shadow g d a b => Sys2Proof.Machine.execShadow g d a b s
  | .shadowClose g d a b => Sys2Proof.Machine.execShadowClose g d a b s
  | .cpq g occ d a b => Sys2Proof.Machine.execCpq g occ d a b s
  | .push g st w a b => Sys2Proof.Machine.execPush g st w a b s
  | .pop g w d a => Sys2Proof.Machine.execPop g w d a s
  | .poll g d a => Sys2Proof.Machine.execPoll g d a s
  | .stamp g d a b => Sys2Proof.Machine.execStamp g d a b s
  | .rput g a b c => Sys2Proof.Machine.execRput g a b c s
  | .rtake g d a => Sys2Proof.Machine.execRtake g d a s
  | .arrive g a b => Sys2Proof.Machine.execArrive g a b s
  | .await g d a b => Sys2Proof.Machine.execAwait g d a b s
  | .expect g a b => Sys2Proof.Machine.execExpect g a b s
  | .cwr g a b => Sys2Proof.Machine.execCwr g a b s
  | .waitw g a b => Sys2Proof.Machine.execWaitw g a b s
  | .phcfgCreate g d a b => Sys2Proof.Machine.execPhcfgCreate g d a b s
  | .phcfgDestroy g d a b => Sys2Proof.Machine.execPhcfgDestroy g d a b s
  | .phq g d a b => Sys2Proof.Machine.execPhq g d a b s
  | .post g pmk par gx d a b => Sys2Proof.Machine.execPost g pmk par gx d a b s
  | .accept g a b => Sys2Proof.Machine.execAccept g a b s
  | .pshare g keepe expert d a => Sys2Proof.Machine.execPshare g keepe expert d a s
  | .opclass g d a b => Sys2Proof.Machine.execOpclass g d a b s
  | .cwait g all d a b => Sys2Proof.Machine.execCwait g all d a b s
  | .bleft g d => Sys2Proof.Machine.execBleft g d s
  | .preempt g d a b => Sys2Proof.Machine.execPreempt g d a b s
  | .preemptResume g d a b => Sys2Proof.Machine.execPreemptResume g d a b s
  | .pquery g d a => Sys2Proof.Machine.execPquery g d a s
  | .mmul g scb sca acc d a => Sys2Proof.Machine.execMmul g scb sca acc d a s
  | .bfill g tr sp d a => Sys2Proof.Machine.execBfill g tr sp d a s
  | .azero g d a => Sys2Proof.Machine.execAzero g d a s
  | .aread g scl dp sat rm d a => Sys2Proof.Machine.execAread g scl dp sat rm d a s
  | .aepi g resc exp d a => Sys2Proof.Machine.execAepi g resc exp d a s
  | .rqt g bd d a => Sys2Proof.Machine.execRqt g bd d a s
  | .mattn g scb sca acc d a => Sys2Proof.Machine.execMattn g scb sca acc d a s
  | .aalloc g d a b => Sys2Proof.Machine.execAalloc g d a b s
  | .mstat g d a => Sys2Proof.Machine.execMstat g d a s
  | .topk g dp sp d a => Sys2Proof.Machine.execTopk g dp sp d a s
  | .selm g dp sp d a => Sys2Proof.Machine.execSelm g dp sp d a s
  | .sdraw g raw greedy dp sp d a b => Sys2Proof.Machine.execSdraw g raw greedy dp sp d a b s
  | .hook g d a => Sys2Proof.Machine.execHook g d a s
  | .hist g acc sp d a => Sys2Proof.Machine.execHist g acc sp d a s
  | .fork g d a => Sys2Proof.Machine.execFork g d a s
  | .seal g d a b => Sys2Proof.Machine.execSeal g d a b s
  | .shred g d a b => Sys2Proof.Machine.execShred g d a b s
  | .abrt g kl a => Sys2Proof.Machine.execAbrt g kl a s
  | .frq g which d => Sys2Proof.Machine.execFrq g which d s
  | .tsq g d => Sys2Proof.Machine.execTsq g d s
  | .decl g d a => Sys2Proof.Machine.execDecl g d a s
  | .edges g d => Sys2Proof.Machine.execEdges g d s
  | .verq g d a => Sys2Proof.Machine.execVerq g d a s
  | .dtload g save sp d a => Sys2Proof.Machine.execDtload g save sp d a s
  | .dtnode g d a => Sys2Proof.Machine.execDtnode g d a s
  | .dtclr g d a b => Sys2Proof.Machine.execDtclr g d a b s
  | .dtmask g d a => Sys2Proof.Machine.execDtmask g d a s
  | .dtpos g d a => Sys2Proof.Machine.execDtpos g d a s
  | .dtacc g sp d a => Sys2Proof.Machine.execDtacc g sp d a s
  | .redact g d a => Sys2Proof.Machine.execRedact g d a s
  | .kvx g wr d a b c => Sys2Proof.Machine.execKvx g wr d a b c s
  | .kvfork g d a => Sys2Proof.Machine.execKvfork g d a s
  | .kvapp g d a => Sys2Proof.Machine.execKvapp g d a s
  | .kvalloc g d a => Sys2Proof.Machine.execKvalloc g d a s
  | .kvallocInit g d a => Sys2Proof.Machine.execKvallocInit g d a s
  | .kvfree g d a => Sys2Proof.Machine.execKvfree g d a s
  | .pcatt g d a => Sys2Proof.Machine.execPcatt g d a s
  | .pcattIns g d a => Sys2Proof.Machine.execPcattIns g d a s
  | .pcevict g d a => Sys2Proof.Machine.execPcevict g d a s
  | .bltabCreate g d a => Sys2Proof.Machine.execBltabCreate g d a s
  | .bltabDestroy g d a => Sys2Proof.Machine.execBltabDestroy g d a s
  | .bltabRead g d a => Sys2Proof.Machine.execBltabRead g d a s
  | .kvsurvGet g d a => Sys2Proof.Machine.execKvsurvGet g d a s
  | .kvsurvClr g d a => Sys2Proof.Machine.execKvsurvClr g d a s
  | .kvsurvSet g d a => Sys2Proof.Machine.execKvsurvSet g d a s
  | .fld g sz d a off => Sys2Proof.Machine.execFld g sz d a off s
  | .fst g sz a b off => Sys2Proof.Machine.execFst g sz a b off s
  | .frmw g fop w d a b off => Sys2Proof.Machine.execFrmw g fop w d a b off s
  | .fstm g d a => Sys2Proof.Machine.execFstm g d a s
  | .fldr g d a => Sys2Proof.Machine.execFldr g d a s
  | .fexpGrant g d a b => Sys2Proof.Machine.execFexpGrant g d a b s
  | .fexpRevoke g d a b => Sys2Proof.Machine.execFexpRevoke g d a b s
  | .fexpGroup g d a b => Sys2Proof.Machine.execFexpGroup g d a b s
  | .fexpQuery g d a b => Sys2Proof.Machine.execFexpQuery g d a b s
  | .bkpt g a => Sys2Proof.Machine.execBkpt g a s
  | .trc g a b => Sys2Proof.Machine.execTrc g a b s
  | .ctrr g m d a => Sys2Proof.Machine.execCtrr g m d a s
  | .wpset g d a b => Sys2Proof.Machine.execWpset g d a b s
  | .errq g d a => Sys2Proof.Machine.execErrq g d a s
  | .pwrq g d a => Sys2Proof.Machine.execPwrq g d a s
  | .featq g d a => Sys2Proof.Machine.execFeatq g d a s
  | .idq g d a => Sys2Proof.Machine.execIdq g d a s
  | .contextFault ctx => Sys2Proof.Machine.execContextFault ctx s
  | .fabricResponse req resp => Sys2Proof.Machine.execFabricResponse req resp s
  | .groupFormation core sched => Sys2Proof.Machine.execGroupFormation core sched s
  | .waitRelease team lid => Sys2Proof.Machine.execWaitRelease team lid s
  | .trapEntry core sched => Sys2Proof.Machine.execTrapEntry core sched s
  | .commandAcceptance cmd => Sys2Proof.Machine.execCommandAcceptance cmd s
  | .engineStep cmd => Sys2Proof.Machine.execEngineStep cmd s
  | .commandCompletion cmd => Sys2Proof.Machine.execCommandCompletion cmd s
  | .deadLetterPost die => Sys2Proof.Machine.execDeadLetterPost die s
  | .lateDelivery flight => Sys2Proof.Machine.execLateDelivery flight s
  | .irrevocableStepResume cmd => Sys2Proof.Machine.execIrrevocableStepResume cmd s
  | .globalWritePerform flight => Sys2Proof.Machine.execGlobalWritePerform flight s
  | .leaseExpiry place idx => Sys2Proof.Machine.execLeaseExpiry place idx s
  | .bankSwitchComplete cluster bnk => Sys2Proof.Machine.execBankSwitchComplete cluster bnk s
  | .fencePass team lid => Sys2Proof.Machine.execFencePass team lid s
  | .frameService ctx page => Sys2Proof.Machine.execFrameService ctx page s
  | .serviceEnd ctx page => Sys2Proof.Machine.execServiceEnd ctx page s
  | .publicationPerform cmd => Sys2Proof.Machine.execPublicationPerform cmd s
  | .heldPartialMerge cmd => Sys2Proof.Machine.execHeldPartialMerge cmd s
  | .partialResend cmd => Sys2Proof.Machine.execPartialResend cmd s
  | .phActServed act => Sys2Proof.Machine.execPhActServed act s
  | .courierFill cw => Sys2Proof.Machine.execCourierFill cw s
  | .spillModeEntry scope owner num => Sys2Proof.Machine.execSpillModeEntry scope owner num s
  | .spillMove scope owner num => Sys2Proof.Machine.execSpillMove scope owner num s
  | .deadlock ctx => Sys2Proof.Machine.execDeadlock ctx s
  | .recordTake => Sys2Proof.Machine.execRecordTake s
  | .teamStart part => Sys2Proof.Machine.execTeamStart part s
  | .startOrderBlock part => Sys2Proof.Machine.execStartOrderBlock part s
  | .teamEnd team => Sys2Proof.Machine.execTeamEnd team s
  | .gridRetire lseq => Sys2Proof.Machine.execGridRetire lseq s
  | .shareRecompute => Sys2Proof.Machine.execShareRecompute s
  | .switchBegin part => Sys2Proof.Machine.execSwitchBegin part s
  | .switchComplete die => Sys2Proof.Machine.execSwitchComplete die s
  | .budgetOverrun team => Sys2Proof.Machine.execBudgetOverrun team s
  | .preemption part => Sys2Proof.Machine.execPreemption part s
  | .saveComplete team => Sys2Proof.Machine.execSaveComplete team s
  | .teamResume part => Sys2Proof.Machine.execTeamResume part s
  | .holdRelease lseq => Sys2Proof.Machine.execHoldRelease lseq s
  | .taskCommit ctx => Sys2Proof.Machine.execTaskCommit ctx s
  | .versionFold lseq => Sys2Proof.Machine.execVersionFold lseq s
  | .taskRelaunch lseq => Sys2Proof.Machine.execTaskRelaunch lseq s
  | .frontierUpdate core ctx => Sys2Proof.Machine.execFrontierUpdate core ctx s
  | .parkTakeUp lseq => Sys2Proof.Machine.execParkTakeUp lseq s
  | .versionSpaceAbort ctx => Sys2Proof.Machine.execVersionSpaceAbort ctx s
  | .ingressRequest die req => Sys2Proof.Machine.execIngressRequest die req s
  | .requestAbsent req => Sys2Proof.Machine.execRequestAbsent req s
  | .peerRouteChange die epid up kln => Sys2Proof.Machine.execPeerRouteChange die epid up kln s
  | .foldNotice die key => Sys2Proof.Machine.execFoldNotice die key s
  | .discardNotice die key => Sys2Proof.Machine.execDiscardNotice die key s
  | .retagNotice die key carbon => Sys2Proof.Machine.execRetagNotice die key carbon s
  | .postbagWrite => Sys2Proof.Machine.execPostbagWrite s
  | .counterClear m die => Sys2Proof.Machine.execCounterClear m die s
  | .halt m q => Sys2Proof.Machine.execHalt m q s
  | .resume m q => Sys2Proof.Machine.execResume m q s
  | .step m q => Sys2Proof.Machine.execStep m q s
  | .debugRead m q => Sys2Proof.Machine.execDebugRead m q s
  | .debugWrite m q => Sys2Proof.Machine.execDebugWrite m q s
  | .readpc m q => Sys2Proof.Machine.execReadpc m q s
  | .wset m q blk => Sys2Proof.Machine.execWset m q blk s
  | .query m q => Sys2Proof.Machine.execQuery m q s
  | .grant m q => Sys2Proof.Machine.execGrant m q s
  | .revoke m q => Sys2Proof.Machine.execRevoke m q s
  | .claim m => Sys2Proof.Machine.execClaim m s
  | .handover m nm => Sys2Proof.Machine.execHandover m nm s
  | .take m => Sys2Proof.Machine.execTake m s
  | .read m space addr len => Sys2Proof.Machine.execRead m space addr len s
  | .write m addr bytes => Sys2Proof.Machine.execWrite m addr bytes s
  | .idkey m => Sys2Proof.Machine.execIdkey m s
  | .attest m nonce => Sys2Proof.Machine.execAttest m nonce s
  | .reset m => Sys2Proof.Machine.execReset m s
  | .masterDetach m => Sys2Proof.Machine.execMasterDetach m s
  | .registerWrite m addr words => Sys2Proof.Machine.execRegisterWrite m addr words s
  | .sqctlWrite m q v => Sys2Proof.Machine.execSqctlWrite m q v s
  | .sqtailDoorbell m q v => Sys2Proof.Machine.execSqtailDoorbell m q v s
  | .partitionTableWrite m addr words => Sys2Proof.Machine.execPartitionTableWrite m addr words s
  | .feataccWrite m addr words => Sys2Proof.Machine.execFeataccWrite m addr words s
  | .classWrite m v => Sys2Proof.Machine.execClassWrite m v s
  | .create m ctx => Sys2Proof.Machine.execCreate m ctx s
  | .destroy m ctx => Sys2Proof.Machine.execDestroy m ctx s
  | .kill m ctx => Sys2Proof.Machine.execKill m ctx s
  | .restart m ctx => Sys2Proof.Machine.execRestart m ctx s
  | .shootdown m v => Sys2Proof.Machine.execShootdown m v s
  | .preqPreempt m v => Sys2Proof.Machine.execPreqPreempt m v s
  | .preqResume m v => Sys2Proof.Machine.execPreqResume m v s
  | .bootgo m v => Sys2Proof.Machine.execBootgo m v s
  | .pbctlWrite m v => Sys2Proof.Machine.execPbctlWrite m v s
  | .pbgetWrite m v => Sys2Proof.Machine.execPbgetWrite m v s
  | .thermal die temp => Sys2Proof.Machine.execThermal die temp s
  | .softError code loc corr => Sys2Proof.Machine.execSoftError code loc corr s
  | .masterAttach m => Sys2Proof.Machine.execMasterAttach m s
  | .temperatureFall die temp => Sys2Proof.Machine.execTemperatureFall die temp s

end Sys2Proof.Machine
end

