-- ==== Sys2Proof/Machine/Step.lean ====
section
/-! DEFINITION. Step.lean: one step of the device (assumption log 1): the next choice of the agenda, or where it is empty the first that the model's
own order finds. -/

namespace Sys2Proof.Machine

open Sys2Proof

/-- What a choice does. A word is executed by its issue alone. -/
def perform (c : Choice) (s : State) : Host.Outcome State Fault Refusal :=
  match c with
  | .event i => if i.guard.isSome then .next s else exec i s
  | .issue core k => match issue s core k with
    | .run i s => exec i s
    | .done s => finish s
  | .stall core k gid cycles => finish (stallGroup s core k gid cycles)
  | .tick cycles => finish (tick s cycles)
  | .read flight => finish (readNow s flight)
  | .evictCopy place idx => finish (evictCopy s place idx)
  | .evictTlb cl idx => finish (evictTlb s cl idx)
  | .dropLease line => finish (dropLease s line)
  | .early cmd ahead pad at_ n => finish (readAhead s cmd ahead pad at_ n)
  | .lag cmd unit => finish (lagStep s cmd unit)
  | .land cmd idx => finish (landPart s cmd idx)
  | .kept n => finish (keptEvent s n)
  | .letIn die req => finish (admitEvent s die req)
  | .part n => finish (partEvent s n)
  | .taskCopy core lseq stays => finish (copyTask s core lseq stays)
  | .message m hdr payload => hearMessage s m hdr payload
  | .imageCheck => finish (imageCheck s)
  | .resetDone => finish (resetDone s)
  | .shootDone => finish (shootDone s)
  | .throttle die => finish (throttle s die)
  | .traceDelay => finish (traceDelay s)

/-- Whether a choice goes on to a state other than this one, or stops. -/
def moves (s : State) (c : Choice) : Bool :=
  match perform c s with
  | .next t => decide (t ≠ s)
  | .fault _ | .refused _ => true

/-- The choice that the model takes where the agenda is empty. -/
def defaultChoice (s : State) : Choice := (firstWith (moves s) (candidates s)).getD (.tick 1)

/-- One step. -/
def step (s : State) : Host.Outcome State Fault Refusal :=
  match s.agenda with
  | c :: rest => perform c { s with agenda := rest }
  | [] => perform (defaultChoice s) s

/-- A word placed for the next step; its bits above `nbits` are 0. -/
def State.withFetchWord (s : State) (nbits w : Nat) : State := placeWord s (BitVec.ofNat 64 (w % 2 ^ nbits))

end Sys2Proof.Machine
end

