-- ==== Sys2Proof/Laws/State.lean ====
section
/-! SUPPORT. Laws/State.lean: what each update of one part of the state leaves as it was, field by field, and what it makes of the field that
it changes. -/

namespace Sys2Proof.Machine

open Sys2Proof

/-! ### setTeam -/

@[simp] theorem setTeam_now (s : State) (tid : Nat) (x : Team) : (s.setTeam tid x).now = s.now := rfl
@[simp] theorem setTeam_cyc (s : State) (tid : Nat) (x : Team) : (s.setTeam tid x).cyc = s.cyc := rfl
@[simp] theorem setTeam_mem (s : State) (tid : Nat) (x : Team) : (s.setTeam tid x).mem = s.mem := rfl
@[simp] theorem setTeam_tags (s : State) (tid : Nat) (x : Team) : (s.setTeam tid x).tags = s.tags := rfl
@[simp] theorem setTeam_backing (s : State) (tid : Nat) (x : Team) : (s.setTeam tid x).backing = s.backing := rfl
@[simp] theorem setTeam_leases (s : State) (tid : Nat) (x : Team) : (s.setTeam tid x).leases = s.leases := rfl
@[simp] theorem setTeam_horizon (s : State) (tid : Nat) (x : Team) : (s.setTeam tid x).horizon = s.horizon := rfl
@[simp] theorem setTeam_flights (s : State) (tid : Nat) (x : Team) : (s.setTeam tid x).flights = s.flights := rfl
@[simp] theorem setTeam_cmds (s : State) (tid : Nat) (x : Team) : (s.setTeam tid x).cmds = s.cmds := rfl
@[simp] theorem setTeam_cores (s : State) (tid : Nat) (x : Team) : (s.setTeam tid x).cores = s.cores := rfl
@[simp] theorem setTeam_clusters (s : State) (tid : Nat) (x : Team) : (s.setTeam tid x).clusters = s.clusters := rfl
theorem setTeam_teams (s : State) (tid : Nat) (x : Team) : (s.setTeam tid x).teams = Tab.put tid x s.teams := rfl
@[simp] theorem setTeam_grids (s : State) (tid : Nat) (x : Team) : (s.setTeam tid x).grids = s.grids := rfl
@[simp] theorem setTeam_ctxs (s : State) (tid : Nat) (x : Team) : (s.setTeam tid x).ctxs = s.ctxs := rfl
@[simp] theorem setTeam_dlqs (s : State) (tid : Nat) (x : Team) : (s.setTeam tid x).dlqs = s.dlqs := rfl
@[simp] theorem setTeam_posts (s : State) (tid : Nat) (x : Team) : (s.setTeam tid x).posts = s.posts := rfl
@[simp] theorem setTeam_svcs (s : State) (tid : Nat) (x : Team) : (s.setTeam tid x).svcs = s.svcs := rfl
@[simp] theorem setTeam_tasks (s : State) (tid : Nat) (x : Team) : (s.setTeam tid x).tasks = s.tasks := rfl
@[simp] theorem setTeam_versions (s : State) (tid : Nat) (x : Team) : (s.setTeam tid x).versions = s.versions := rfl
@[simp] theorem setTeam_carbons (s : State) (tid : Nat) (x : Team) : (s.setTeam tid x).carbons = s.carbons := rfl
@[simp] theorem setTeam_disp (s : State) (tid : Nat) (x : Team) : (s.setTeam tid x).disp = s.disp := rfl
@[simp] theorem setTeam_pigeons (s : State) (tid : Nat) (x : Team) : (s.setTeam tid x).pigeons = s.pigeons := rfl
@[simp] theorem setTeam_pacts (s : State) (tid : Nat) (x : Team) : (s.setTeam tid x).pacts = s.pacts := rfl
@[simp] theorem setTeam_couriers (s : State) (tid : Nat) (x : Team) : (s.setTeam tid x).couriers = s.couriers := rfl
@[simp] theorem setTeam_pairs (s : State) (tid : Nat) (x : Team) : (s.setTeam tid x).pairs = s.pairs := rfl
@[simp] theorem setTeam_kvs (s : State) (tid : Nat) (x : Team) : (s.setTeam tid x).kvs = s.kvs := rfl
@[simp] theorem setTeam_fab (s : State) (tid : Nat) (x : Team) : (s.setTeam tid x).fab = s.fab := rfl
@[simp] theorem setTeam_dbg (s : State) (tid : Nat) (x : Team) : (s.setTeam tid x).dbg = s.dbg := rfl
@[simp] theorem setTeam_trace (s : State) (tid : Nat) (x : Team) : (s.setTeam tid x).trace = s.trace := rfl
@[simp] theorem setTeam_ctrs (s : State) (tid : Nat) (x : Team) : (s.setTeam tid x).ctrs = s.ctrs := rfl
@[simp] theorem setTeam_sys (s : State) (tid : Nat) (x : Team) : (s.setTeam tid x).sys = s.sys := rfl
@[simp] theorem setTeam_answers (s : State) (tid : Nat) (x : Team) : (s.setTeam tid x).answers = s.answers := rfl
@[simp] theorem setTeam_agenda (s : State) (tid : Nat) (x : Team) : (s.setTeam tid x).agenda = s.agenda := rfl
@[simp] theorem setTeam_cur (s : State) (tid : Nat) (x : Team) : (s.setTeam tid x).cur = s.cur := rfl
@[simp] theorem setTeam_ids (s : State) (tid : Nat) (x : Team) : (s.setTeam tid x).ids = s.ids := rfl
@[simp] theorem setTeam_free (s : State) (tid : Nat) (x : Team) : (s.setTeam tid x).free = s.free := rfl
@[simp] theorem setTeam_bus (s : State) (tid : Nat) (x : Team) : (s.setTeam tid x).bus = s.bus := rfl
@[simp] theorem setTeam_wfails (s : State) (tid : Nat) (x : Team) : (s.setTeam tid x).wfails = s.wfails := rfl
@[simp] theorem setTeam_hits (s : State) (tid : Nat) (x : Team) : (s.setTeam tid x).hits = s.hits := rfl

/-! ### modTeam -/

@[simp] theorem modTeam_now (s : State) (tid : Nat) (f : Team → Team) : (s.modTeam tid f).now = s.now := rfl
@[simp] theorem modTeam_cyc (s : State) (tid : Nat) (f : Team → Team) : (s.modTeam tid f).cyc = s.cyc := rfl
@[simp] theorem modTeam_mem (s : State) (tid : Nat) (f : Team → Team) : (s.modTeam tid f).mem = s.mem := rfl
@[simp] theorem modTeam_tags (s : State) (tid : Nat) (f : Team → Team) : (s.modTeam tid f).tags = s.tags := rfl
@[simp] theorem modTeam_backing (s : State) (tid : Nat) (f : Team → Team) : (s.modTeam tid f).backing = s.backing := rfl
@[simp] theorem modTeam_leases (s : State) (tid : Nat) (f : Team → Team) : (s.modTeam tid f).leases = s.leases := rfl
@[simp] theorem modTeam_horizon (s : State) (tid : Nat) (f : Team → Team) : (s.modTeam tid f).horizon = s.horizon := rfl
@[simp] theorem modTeam_flights (s : State) (tid : Nat) (f : Team → Team) : (s.modTeam tid f).flights = s.flights := rfl
@[simp] theorem modTeam_cmds (s : State) (tid : Nat) (f : Team → Team) : (s.modTeam tid f).cmds = s.cmds := rfl
@[simp] theorem modTeam_cores (s : State) (tid : Nat) (f : Team → Team) : (s.modTeam tid f).cores = s.cores := rfl
@[simp] theorem modTeam_clusters (s : State) (tid : Nat) (f : Team → Team) : (s.modTeam tid f).clusters = s.clusters := rfl
theorem modTeam_teams (s : State) (tid : Nat) (f : Team → Team) : (s.modTeam tid f).teams = Tab.upd f tid s.teams := rfl
@[simp] theorem modTeam_grids (s : State) (tid : Nat) (f : Team → Team) : (s.modTeam tid f).grids = s.grids := rfl
@[simp] theorem modTeam_ctxs (s : State) (tid : Nat) (f : Team → Team) : (s.modTeam tid f).ctxs = s.ctxs := rfl
@[simp] theorem modTeam_dlqs (s : State) (tid : Nat) (f : Team → Team) : (s.modTeam tid f).dlqs = s.dlqs := rfl
@[simp] theorem modTeam_posts (s : State) (tid : Nat) (f : Team → Team) : (s.modTeam tid f).posts = s.posts := rfl
@[simp] theorem modTeam_svcs (s : State) (tid : Nat) (f : Team → Team) : (s.modTeam tid f).svcs = s.svcs := rfl
@[simp] theorem modTeam_tasks (s : State) (tid : Nat) (f : Team → Team) : (s.modTeam tid f).tasks = s.tasks := rfl
@[simp] theorem modTeam_versions (s : State) (tid : Nat) (f : Team → Team) : (s.modTeam tid f).versions = s.versions := rfl
@[simp] theorem modTeam_carbons (s : State) (tid : Nat) (f : Team → Team) : (s.modTeam tid f).carbons = s.carbons := rfl
@[simp] theorem modTeam_disp (s : State) (tid : Nat) (f : Team → Team) : (s.modTeam tid f).disp = s.disp := rfl
@[simp] theorem modTeam_pigeons (s : State) (tid : Nat) (f : Team → Team) : (s.modTeam tid f).pigeons = s.pigeons := rfl
@[simp] theorem modTeam_pacts (s : State) (tid : Nat) (f : Team → Team) : (s.modTeam tid f).pacts = s.pacts := rfl
@[simp] theorem modTeam_couriers (s : State) (tid : Nat) (f : Team → Team) : (s.modTeam tid f).couriers = s.couriers := rfl
@[simp] theorem modTeam_pairs (s : State) (tid : Nat) (f : Team → Team) : (s.modTeam tid f).pairs = s.pairs := rfl
@[simp] theorem modTeam_kvs (s : State) (tid : Nat) (f : Team → Team) : (s.modTeam tid f).kvs = s.kvs := rfl
@[simp] theorem modTeam_fab (s : State) (tid : Nat) (f : Team → Team) : (s.modTeam tid f).fab = s.fab := rfl
@[simp] theorem modTeam_dbg (s : State) (tid : Nat) (f : Team → Team) : (s.modTeam tid f).dbg = s.dbg := rfl
@[simp] theorem modTeam_trace (s : State) (tid : Nat) (f : Team → Team) : (s.modTeam tid f).trace = s.trace := rfl
@[simp] theorem modTeam_ctrs (s : State) (tid : Nat) (f : Team → Team) : (s.modTeam tid f).ctrs = s.ctrs := rfl
@[simp] theorem modTeam_sys (s : State) (tid : Nat) (f : Team → Team) : (s.modTeam tid f).sys = s.sys := rfl
@[simp] theorem modTeam_answers (s : State) (tid : Nat) (f : Team → Team) : (s.modTeam tid f).answers = s.answers := rfl
@[simp] theorem modTeam_agenda (s : State) (tid : Nat) (f : Team → Team) : (s.modTeam tid f).agenda = s.agenda := rfl
@[simp] theorem modTeam_cur (s : State) (tid : Nat) (f : Team → Team) : (s.modTeam tid f).cur = s.cur := rfl
@[simp] theorem modTeam_ids (s : State) (tid : Nat) (f : Team → Team) : (s.modTeam tid f).ids = s.ids := rfl
@[simp] theorem modTeam_free (s : State) (tid : Nat) (f : Team → Team) : (s.modTeam tid f).free = s.free := rfl
@[simp] theorem modTeam_bus (s : State) (tid : Nat) (f : Team → Team) : (s.modTeam tid f).bus = s.bus := rfl
@[simp] theorem modTeam_wfails (s : State) (tid : Nat) (f : Team → Team) : (s.modTeam tid f).wfails = s.wfails := rfl
@[simp] theorem modTeam_hits (s : State) (tid : Nat) (f : Team → Team) : (s.modTeam tid f).hits = s.hits := rfl

/-! ### modLane -/

@[simp] theorem modLane_now (s : State) (tid lid : Nat) (f : Lane → Lane) : (s.modLane tid lid f).now = s.now := rfl
@[simp] theorem modLane_cyc (s : State) (tid lid : Nat) (f : Lane → Lane) : (s.modLane tid lid f).cyc = s.cyc := rfl
@[simp] theorem modLane_mem (s : State) (tid lid : Nat) (f : Lane → Lane) : (s.modLane tid lid f).mem = s.mem := rfl
@[simp] theorem modLane_tags (s : State) (tid lid : Nat) (f : Lane → Lane) : (s.modLane tid lid f).tags = s.tags := rfl
@[simp] theorem modLane_backing (s : State) (tid lid : Nat) (f : Lane → Lane) : (s.modLane tid lid f).backing = s.backing := rfl
@[simp] theorem modLane_leases (s : State) (tid lid : Nat) (f : Lane → Lane) : (s.modLane tid lid f).leases = s.leases := rfl
@[simp] theorem modLane_horizon (s : State) (tid lid : Nat) (f : Lane → Lane) : (s.modLane tid lid f).horizon = s.horizon := rfl
@[simp] theorem modLane_flights (s : State) (tid lid : Nat) (f : Lane → Lane) : (s.modLane tid lid f).flights = s.flights := rfl
@[simp] theorem modLane_cmds (s : State) (tid lid : Nat) (f : Lane → Lane) : (s.modLane tid lid f).cmds = s.cmds := rfl
@[simp] theorem modLane_cores (s : State) (tid lid : Nat) (f : Lane → Lane) : (s.modLane tid lid f).cores = s.cores := rfl
@[simp] theorem modLane_clusters (s : State) (tid lid : Nat) (f : Lane → Lane) : (s.modLane tid lid f).clusters = s.clusters := rfl
theorem modLane_teams (s : State) (tid lid : Nat) (f : Lane → Lane) : (s.modLane tid lid f).teams = Tab.upd (fun t => { t with lanes := modAt f t.lanes lid }) tid s.teams := rfl
@[simp] theorem modLane_grids (s : State) (tid lid : Nat) (f : Lane → Lane) : (s.modLane tid lid f).grids = s.grids := rfl
@[simp] theorem modLane_ctxs (s : State) (tid lid : Nat) (f : Lane → Lane) : (s.modLane tid lid f).ctxs = s.ctxs := rfl
@[simp] theorem modLane_dlqs (s : State) (tid lid : Nat) (f : Lane → Lane) : (s.modLane tid lid f).dlqs = s.dlqs := rfl
@[simp] theorem modLane_posts (s : State) (tid lid : Nat) (f : Lane → Lane) : (s.modLane tid lid f).posts = s.posts := rfl
@[simp] theorem modLane_svcs (s : State) (tid lid : Nat) (f : Lane → Lane) : (s.modLane tid lid f).svcs = s.svcs := rfl
@[simp] theorem modLane_tasks (s : State) (tid lid : Nat) (f : Lane → Lane) : (s.modLane tid lid f).tasks = s.tasks := rfl
@[simp] theorem modLane_versions (s : State) (tid lid : Nat) (f : Lane → Lane) : (s.modLane tid lid f).versions = s.versions := rfl
@[simp] theorem modLane_carbons (s : State) (tid lid : Nat) (f : Lane → Lane) : (s.modLane tid lid f).carbons = s.carbons := rfl
@[simp] theorem modLane_disp (s : State) (tid lid : Nat) (f : Lane → Lane) : (s.modLane tid lid f).disp = s.disp := rfl
@[simp] theorem modLane_pigeons (s : State) (tid lid : Nat) (f : Lane → Lane) : (s.modLane tid lid f).pigeons = s.pigeons := rfl
@[simp] theorem modLane_pacts (s : State) (tid lid : Nat) (f : Lane → Lane) : (s.modLane tid lid f).pacts = s.pacts := rfl
@[simp] theorem modLane_couriers (s : State) (tid lid : Nat) (f : Lane → Lane) : (s.modLane tid lid f).couriers = s.couriers := rfl
@[simp] theorem modLane_pairs (s : State) (tid lid : Nat) (f : Lane → Lane) : (s.modLane tid lid f).pairs = s.pairs := rfl
@[simp] theorem modLane_kvs (s : State) (tid lid : Nat) (f : Lane → Lane) : (s.modLane tid lid f).kvs = s.kvs := rfl
@[simp] theorem modLane_fab (s : State) (tid lid : Nat) (f : Lane → Lane) : (s.modLane tid lid f).fab = s.fab := rfl
@[simp] theorem modLane_dbg (s : State) (tid lid : Nat) (f : Lane → Lane) : (s.modLane tid lid f).dbg = s.dbg := rfl
@[simp] theorem modLane_trace (s : State) (tid lid : Nat) (f : Lane → Lane) : (s.modLane tid lid f).trace = s.trace := rfl
@[simp] theorem modLane_ctrs (s : State) (tid lid : Nat) (f : Lane → Lane) : (s.modLane tid lid f).ctrs = s.ctrs := rfl
@[simp] theorem modLane_sys (s : State) (tid lid : Nat) (f : Lane → Lane) : (s.modLane tid lid f).sys = s.sys := rfl
@[simp] theorem modLane_answers (s : State) (tid lid : Nat) (f : Lane → Lane) : (s.modLane tid lid f).answers = s.answers := rfl
@[simp] theorem modLane_agenda (s : State) (tid lid : Nat) (f : Lane → Lane) : (s.modLane tid lid f).agenda = s.agenda := rfl
@[simp] theorem modLane_cur (s : State) (tid lid : Nat) (f : Lane → Lane) : (s.modLane tid lid f).cur = s.cur := rfl
@[simp] theorem modLane_ids (s : State) (tid lid : Nat) (f : Lane → Lane) : (s.modLane tid lid f).ids = s.ids := rfl
@[simp] theorem modLane_free (s : State) (tid lid : Nat) (f : Lane → Lane) : (s.modLane tid lid f).free = s.free := rfl
@[simp] theorem modLane_bus (s : State) (tid lid : Nat) (f : Lane → Lane) : (s.modLane tid lid f).bus = s.bus := rfl
@[simp] theorem modLane_wfails (s : State) (tid lid : Nat) (f : Lane → Lane) : (s.modLane tid lid f).wfails = s.wfails := rfl
@[simp] theorem modLane_hits (s : State) (tid lid : Nat) (f : Lane → Lane) : (s.modLane tid lid f).hits = s.hits := rfl

/-! ### modGrid -/

@[simp] theorem modGrid_now (s : State) (k : Nat) (f : Grid → Grid) : (s.modGrid k f).now = s.now := rfl
@[simp] theorem modGrid_cyc (s : State) (k : Nat) (f : Grid → Grid) : (s.modGrid k f).cyc = s.cyc := rfl
@[simp] theorem modGrid_mem (s : State) (k : Nat) (f : Grid → Grid) : (s.modGrid k f).mem = s.mem := rfl
@[simp] theorem modGrid_tags (s : State) (k : Nat) (f : Grid → Grid) : (s.modGrid k f).tags = s.tags := rfl
@[simp] theorem modGrid_backing (s : State) (k : Nat) (f : Grid → Grid) : (s.modGrid k f).backing = s.backing := rfl
@[simp] theorem modGrid_leases (s : State) (k : Nat) (f : Grid → Grid) : (s.modGrid k f).leases = s.leases := rfl
@[simp] theorem modGrid_horizon (s : State) (k : Nat) (f : Grid → Grid) : (s.modGrid k f).horizon = s.horizon := rfl
@[simp] theorem modGrid_flights (s : State) (k : Nat) (f : Grid → Grid) : (s.modGrid k f).flights = s.flights := rfl
@[simp] theorem modGrid_cmds (s : State) (k : Nat) (f : Grid → Grid) : (s.modGrid k f).cmds = s.cmds := rfl
@[simp] theorem modGrid_cores (s : State) (k : Nat) (f : Grid → Grid) : (s.modGrid k f).cores = s.cores := rfl
@[simp] theorem modGrid_clusters (s : State) (k : Nat) (f : Grid → Grid) : (s.modGrid k f).clusters = s.clusters := rfl
@[simp] theorem modGrid_teams (s : State) (k : Nat) (f : Grid → Grid) : (s.modGrid k f).teams = s.teams := rfl
theorem modGrid_grids (s : State) (k : Nat) (f : Grid → Grid) : (s.modGrid k f).grids = Tab.upd f k s.grids := rfl
@[simp] theorem modGrid_ctxs (s : State) (k : Nat) (f : Grid → Grid) : (s.modGrid k f).ctxs = s.ctxs := rfl
@[simp] theorem modGrid_dlqs (s : State) (k : Nat) (f : Grid → Grid) : (s.modGrid k f).dlqs = s.dlqs := rfl
@[simp] theorem modGrid_posts (s : State) (k : Nat) (f : Grid → Grid) : (s.modGrid k f).posts = s.posts := rfl
@[simp] theorem modGrid_svcs (s : State) (k : Nat) (f : Grid → Grid) : (s.modGrid k f).svcs = s.svcs := rfl
@[simp] theorem modGrid_tasks (s : State) (k : Nat) (f : Grid → Grid) : (s.modGrid k f).tasks = s.tasks := rfl
@[simp] theorem modGrid_versions (s : State) (k : Nat) (f : Grid → Grid) : (s.modGrid k f).versions = s.versions := rfl
@[simp] theorem modGrid_carbons (s : State) (k : Nat) (f : Grid → Grid) : (s.modGrid k f).carbons = s.carbons := rfl
@[simp] theorem modGrid_disp (s : State) (k : Nat) (f : Grid → Grid) : (s.modGrid k f).disp = s.disp := rfl
@[simp] theorem modGrid_pigeons (s : State) (k : Nat) (f : Grid → Grid) : (s.modGrid k f).pigeons = s.pigeons := rfl
@[simp] theorem modGrid_pacts (s : State) (k : Nat) (f : Grid → Grid) : (s.modGrid k f).pacts = s.pacts := rfl
@[simp] theorem modGrid_couriers (s : State) (k : Nat) (f : Grid → Grid) : (s.modGrid k f).couriers = s.couriers := rfl
@[simp] theorem modGrid_pairs (s : State) (k : Nat) (f : Grid → Grid) : (s.modGrid k f).pairs = s.pairs := rfl
@[simp] theorem modGrid_kvs (s : State) (k : Nat) (f : Grid → Grid) : (s.modGrid k f).kvs = s.kvs := rfl
@[simp] theorem modGrid_fab (s : State) (k : Nat) (f : Grid → Grid) : (s.modGrid k f).fab = s.fab := rfl
@[simp] theorem modGrid_dbg (s : State) (k : Nat) (f : Grid → Grid) : (s.modGrid k f).dbg = s.dbg := rfl
@[simp] theorem modGrid_trace (s : State) (k : Nat) (f : Grid → Grid) : (s.modGrid k f).trace = s.trace := rfl
@[simp] theorem modGrid_ctrs (s : State) (k : Nat) (f : Grid → Grid) : (s.modGrid k f).ctrs = s.ctrs := rfl
@[simp] theorem modGrid_sys (s : State) (k : Nat) (f : Grid → Grid) : (s.modGrid k f).sys = s.sys := rfl
@[simp] theorem modGrid_answers (s : State) (k : Nat) (f : Grid → Grid) : (s.modGrid k f).answers = s.answers := rfl
@[simp] theorem modGrid_agenda (s : State) (k : Nat) (f : Grid → Grid) : (s.modGrid k f).agenda = s.agenda := rfl
@[simp] theorem modGrid_cur (s : State) (k : Nat) (f : Grid → Grid) : (s.modGrid k f).cur = s.cur := rfl
@[simp] theorem modGrid_ids (s : State) (k : Nat) (f : Grid → Grid) : (s.modGrid k f).ids = s.ids := rfl
@[simp] theorem modGrid_free (s : State) (k : Nat) (f : Grid → Grid) : (s.modGrid k f).free = s.free := rfl
@[simp] theorem modGrid_bus (s : State) (k : Nat) (f : Grid → Grid) : (s.modGrid k f).bus = s.bus := rfl
@[simp] theorem modGrid_wfails (s : State) (k : Nat) (f : Grid → Grid) : (s.modGrid k f).wfails = s.wfails := rfl
@[simp] theorem modGrid_hits (s : State) (k : Nat) (f : Grid → Grid) : (s.modGrid k f).hits = s.hits := rfl

/-! ### modTask -/

@[simp] theorem modTask_now (s : State) (k : Nat) (f : Task → Task) : (s.modTask k f).now = s.now := rfl
@[simp] theorem modTask_cyc (s : State) (k : Nat) (f : Task → Task) : (s.modTask k f).cyc = s.cyc := rfl
@[simp] theorem modTask_mem (s : State) (k : Nat) (f : Task → Task) : (s.modTask k f).mem = s.mem := rfl
@[simp] theorem modTask_tags (s : State) (k : Nat) (f : Task → Task) : (s.modTask k f).tags = s.tags := rfl
@[simp] theorem modTask_backing (s : State) (k : Nat) (f : Task → Task) : (s.modTask k f).backing = s.backing := rfl
@[simp] theorem modTask_leases (s : State) (k : Nat) (f : Task → Task) : (s.modTask k f).leases = s.leases := rfl
@[simp] theorem modTask_horizon (s : State) (k : Nat) (f : Task → Task) : (s.modTask k f).horizon = s.horizon := rfl
@[simp] theorem modTask_flights (s : State) (k : Nat) (f : Task → Task) : (s.modTask k f).flights = s.flights := rfl
@[simp] theorem modTask_cmds (s : State) (k : Nat) (f : Task → Task) : (s.modTask k f).cmds = s.cmds := rfl
@[simp] theorem modTask_cores (s : State) (k : Nat) (f : Task → Task) : (s.modTask k f).cores = s.cores := rfl
@[simp] theorem modTask_clusters (s : State) (k : Nat) (f : Task → Task) : (s.modTask k f).clusters = s.clusters := rfl
@[simp] theorem modTask_teams (s : State) (k : Nat) (f : Task → Task) : (s.modTask k f).teams = s.teams := rfl
@[simp] theorem modTask_grids (s : State) (k : Nat) (f : Task → Task) : (s.modTask k f).grids = s.grids := rfl
@[simp] theorem modTask_ctxs (s : State) (k : Nat) (f : Task → Task) : (s.modTask k f).ctxs = s.ctxs := rfl
@[simp] theorem modTask_dlqs (s : State) (k : Nat) (f : Task → Task) : (s.modTask k f).dlqs = s.dlqs := rfl
@[simp] theorem modTask_posts (s : State) (k : Nat) (f : Task → Task) : (s.modTask k f).posts = s.posts := rfl
@[simp] theorem modTask_svcs (s : State) (k : Nat) (f : Task → Task) : (s.modTask k f).svcs = s.svcs := rfl
theorem modTask_tasks (s : State) (k : Nat) (f : Task → Task) : (s.modTask k f).tasks = Tab.upd f k s.tasks := rfl
@[simp] theorem modTask_versions (s : State) (k : Nat) (f : Task → Task) : (s.modTask k f).versions = s.versions := rfl
@[simp] theorem modTask_carbons (s : State) (k : Nat) (f : Task → Task) : (s.modTask k f).carbons = s.carbons := rfl
@[simp] theorem modTask_disp (s : State) (k : Nat) (f : Task → Task) : (s.modTask k f).disp = s.disp := rfl
@[simp] theorem modTask_pigeons (s : State) (k : Nat) (f : Task → Task) : (s.modTask k f).pigeons = s.pigeons := rfl
@[simp] theorem modTask_pacts (s : State) (k : Nat) (f : Task → Task) : (s.modTask k f).pacts = s.pacts := rfl
@[simp] theorem modTask_couriers (s : State) (k : Nat) (f : Task → Task) : (s.modTask k f).couriers = s.couriers := rfl
@[simp] theorem modTask_pairs (s : State) (k : Nat) (f : Task → Task) : (s.modTask k f).pairs = s.pairs := rfl
@[simp] theorem modTask_kvs (s : State) (k : Nat) (f : Task → Task) : (s.modTask k f).kvs = s.kvs := rfl
@[simp] theorem modTask_fab (s : State) (k : Nat) (f : Task → Task) : (s.modTask k f).fab = s.fab := rfl
@[simp] theorem modTask_dbg (s : State) (k : Nat) (f : Task → Task) : (s.modTask k f).dbg = s.dbg := rfl
@[simp] theorem modTask_trace (s : State) (k : Nat) (f : Task → Task) : (s.modTask k f).trace = s.trace := rfl
@[simp] theorem modTask_ctrs (s : State) (k : Nat) (f : Task → Task) : (s.modTask k f).ctrs = s.ctrs := rfl
@[simp] theorem modTask_sys (s : State) (k : Nat) (f : Task → Task) : (s.modTask k f).sys = s.sys := rfl
@[simp] theorem modTask_answers (s : State) (k : Nat) (f : Task → Task) : (s.modTask k f).answers = s.answers := rfl
@[simp] theorem modTask_agenda (s : State) (k : Nat) (f : Task → Task) : (s.modTask k f).agenda = s.agenda := rfl
@[simp] theorem modTask_cur (s : State) (k : Nat) (f : Task → Task) : (s.modTask k f).cur = s.cur := rfl
@[simp] theorem modTask_ids (s : State) (k : Nat) (f : Task → Task) : (s.modTask k f).ids = s.ids := rfl
@[simp] theorem modTask_free (s : State) (k : Nat) (f : Task → Task) : (s.modTask k f).free = s.free := rfl
@[simp] theorem modTask_bus (s : State) (k : Nat) (f : Task → Task) : (s.modTask k f).bus = s.bus := rfl
@[simp] theorem modTask_wfails (s : State) (k : Nat) (f : Task → Task) : (s.modTask k f).wfails = s.wfails := rfl
@[simp] theorem modTask_hits (s : State) (k : Nat) (f : Task → Task) : (s.modTask k f).hits = s.hits := rfl

/-! ### modCore -/

@[simp] theorem modCore_now (s : State) (c : Nat) (f : Core → Core) : (s.modCore c f).now = s.now := rfl
@[simp] theorem modCore_cyc (s : State) (c : Nat) (f : Core → Core) : (s.modCore c f).cyc = s.cyc := rfl
@[simp] theorem modCore_mem (s : State) (c : Nat) (f : Core → Core) : (s.modCore c f).mem = s.mem := rfl
@[simp] theorem modCore_tags (s : State) (c : Nat) (f : Core → Core) : (s.modCore c f).tags = s.tags := rfl
@[simp] theorem modCore_backing (s : State) (c : Nat) (f : Core → Core) : (s.modCore c f).backing = s.backing := rfl
@[simp] theorem modCore_leases (s : State) (c : Nat) (f : Core → Core) : (s.modCore c f).leases = s.leases := rfl
@[simp] theorem modCore_horizon (s : State) (c : Nat) (f : Core → Core) : (s.modCore c f).horizon = s.horizon := rfl
@[simp] theorem modCore_flights (s : State) (c : Nat) (f : Core → Core) : (s.modCore c f).flights = s.flights := rfl
@[simp] theorem modCore_cmds (s : State) (c : Nat) (f : Core → Core) : (s.modCore c f).cmds = s.cmds := rfl
theorem modCore_cores (s : State) (c : Nat) (f : Core → Core) : (s.modCore c f).cores = Tab.mod {} f c s.cores := rfl
@[simp] theorem modCore_clusters (s : State) (c : Nat) (f : Core → Core) : (s.modCore c f).clusters = s.clusters := rfl
@[simp] theorem modCore_teams (s : State) (c : Nat) (f : Core → Core) : (s.modCore c f).teams = s.teams := rfl
@[simp] theorem modCore_grids (s : State) (c : Nat) (f : Core → Core) : (s.modCore c f).grids = s.grids := rfl
@[simp] theorem modCore_ctxs (s : State) (c : Nat) (f : Core → Core) : (s.modCore c f).ctxs = s.ctxs := rfl
@[simp] theorem modCore_dlqs (s : State) (c : Nat) (f : Core → Core) : (s.modCore c f).dlqs = s.dlqs := rfl
@[simp] theorem modCore_posts (s : State) (c : Nat) (f : Core → Core) : (s.modCore c f).posts = s.posts := rfl
@[simp] theorem modCore_svcs (s : State) (c : Nat) (f : Core → Core) : (s.modCore c f).svcs = s.svcs := rfl
@[simp] theorem modCore_tasks (s : State) (c : Nat) (f : Core → Core) : (s.modCore c f).tasks = s.tasks := rfl
@[simp] theorem modCore_versions (s : State) (c : Nat) (f : Core → Core) : (s.modCore c f).versions = s.versions := rfl
@[simp] theorem modCore_carbons (s : State) (c : Nat) (f : Core → Core) : (s.modCore c f).carbons = s.carbons := rfl
@[simp] theorem modCore_disp (s : State) (c : Nat) (f : Core → Core) : (s.modCore c f).disp = s.disp := rfl
@[simp] theorem modCore_pigeons (s : State) (c : Nat) (f : Core → Core) : (s.modCore c f).pigeons = s.pigeons := rfl
@[simp] theorem modCore_pacts (s : State) (c : Nat) (f : Core → Core) : (s.modCore c f).pacts = s.pacts := rfl
@[simp] theorem modCore_couriers (s : State) (c : Nat) (f : Core → Core) : (s.modCore c f).couriers = s.couriers := rfl
@[simp] theorem modCore_pairs (s : State) (c : Nat) (f : Core → Core) : (s.modCore c f).pairs = s.pairs := rfl
@[simp] theorem modCore_kvs (s : State) (c : Nat) (f : Core → Core) : (s.modCore c f).kvs = s.kvs := rfl
@[simp] theorem modCore_fab (s : State) (c : Nat) (f : Core → Core) : (s.modCore c f).fab = s.fab := rfl
@[simp] theorem modCore_dbg (s : State) (c : Nat) (f : Core → Core) : (s.modCore c f).dbg = s.dbg := rfl
@[simp] theorem modCore_trace (s : State) (c : Nat) (f : Core → Core) : (s.modCore c f).trace = s.trace := rfl
@[simp] theorem modCore_ctrs (s : State) (c : Nat) (f : Core → Core) : (s.modCore c f).ctrs = s.ctrs := rfl
@[simp] theorem modCore_sys (s : State) (c : Nat) (f : Core → Core) : (s.modCore c f).sys = s.sys := rfl
@[simp] theorem modCore_answers (s : State) (c : Nat) (f : Core → Core) : (s.modCore c f).answers = s.answers := rfl
@[simp] theorem modCore_agenda (s : State) (c : Nat) (f : Core → Core) : (s.modCore c f).agenda = s.agenda := rfl
@[simp] theorem modCore_cur (s : State) (c : Nat) (f : Core → Core) : (s.modCore c f).cur = s.cur := rfl
@[simp] theorem modCore_ids (s : State) (c : Nat) (f : Core → Core) : (s.modCore c f).ids = s.ids := rfl
@[simp] theorem modCore_free (s : State) (c : Nat) (f : Core → Core) : (s.modCore c f).free = s.free := rfl
@[simp] theorem modCore_bus (s : State) (c : Nat) (f : Core → Core) : (s.modCore c f).bus = s.bus := rfl
@[simp] theorem modCore_wfails (s : State) (c : Nat) (f : Core → Core) : (s.modCore c f).wfails = s.wfails := rfl
@[simp] theorem modCore_hits (s : State) (c : Nat) (f : Core → Core) : (s.modCore c f).hits = s.hits := rfl

/-! ### modSched -/

@[simp] theorem modSched_now (s : State) (c k : Nat) (f : Sched → Sched) : (s.modSched c k f).now = s.now := rfl
@[simp] theorem modSched_cyc (s : State) (c k : Nat) (f : Sched → Sched) : (s.modSched c k f).cyc = s.cyc := rfl
@[simp] theorem modSched_mem (s : State) (c k : Nat) (f : Sched → Sched) : (s.modSched c k f).mem = s.mem := rfl
@[simp] theorem modSched_tags (s : State) (c k : Nat) (f : Sched → Sched) : (s.modSched c k f).tags = s.tags := rfl
@[simp] theorem modSched_backing (s : State) (c k : Nat) (f : Sched → Sched) : (s.modSched c k f).backing = s.backing := rfl
@[simp] theorem modSched_leases (s : State) (c k : Nat) (f : Sched → Sched) : (s.modSched c k f).leases = s.leases := rfl
@[simp] theorem modSched_horizon (s : State) (c k : Nat) (f : Sched → Sched) : (s.modSched c k f).horizon = s.horizon := rfl
@[simp] theorem modSched_flights (s : State) (c k : Nat) (f : Sched → Sched) : (s.modSched c k f).flights = s.flights := rfl
@[simp] theorem modSched_cmds (s : State) (c k : Nat) (f : Sched → Sched) : (s.modSched c k f).cmds = s.cmds := rfl
theorem modSched_cores (s : State) (c k : Nat) (f : Sched → Sched) : (s.modSched c k f).cores = Tab.mod {} (fun x => { x with scheds := modAt f x.scheds k }) c s.cores := rfl
@[simp] theorem modSched_clusters (s : State) (c k : Nat) (f : Sched → Sched) : (s.modSched c k f).clusters = s.clusters := rfl
@[simp] theorem modSched_teams (s : State) (c k : Nat) (f : Sched → Sched) : (s.modSched c k f).teams = s.teams := rfl
@[simp] theorem modSched_grids (s : State) (c k : Nat) (f : Sched → Sched) : (s.modSched c k f).grids = s.grids := rfl
@[simp] theorem modSched_ctxs (s : State) (c k : Nat) (f : Sched → Sched) : (s.modSched c k f).ctxs = s.ctxs := rfl
@[simp] theorem modSched_dlqs (s : State) (c k : Nat) (f : Sched → Sched) : (s.modSched c k f).dlqs = s.dlqs := rfl
@[simp] theorem modSched_posts (s : State) (c k : Nat) (f : Sched → Sched) : (s.modSched c k f).posts = s.posts := rfl
@[simp] theorem modSched_svcs (s : State) (c k : Nat) (f : Sched → Sched) : (s.modSched c k f).svcs = s.svcs := rfl
@[simp] theorem modSched_tasks (s : State) (c k : Nat) (f : Sched → Sched) : (s.modSched c k f).tasks = s.tasks := rfl
@[simp] theorem modSched_versions (s : State) (c k : Nat) (f : Sched → Sched) : (s.modSched c k f).versions = s.versions := rfl
@[simp] theorem modSched_carbons (s : State) (c k : Nat) (f : Sched → Sched) : (s.modSched c k f).carbons = s.carbons := rfl
@[simp] theorem modSched_disp (s : State) (c k : Nat) (f : Sched → Sched) : (s.modSched c k f).disp = s.disp := rfl
@[simp] theorem modSched_pigeons (s : State) (c k : Nat) (f : Sched → Sched) : (s.modSched c k f).pigeons = s.pigeons := rfl
@[simp] theorem modSched_pacts (s : State) (c k : Nat) (f : Sched → Sched) : (s.modSched c k f).pacts = s.pacts := rfl
@[simp] theorem modSched_couriers (s : State) (c k : Nat) (f : Sched → Sched) : (s.modSched c k f).couriers = s.couriers := rfl
@[simp] theorem modSched_pairs (s : State) (c k : Nat) (f : Sched → Sched) : (s.modSched c k f).pairs = s.pairs := rfl
@[simp] theorem modSched_kvs (s : State) (c k : Nat) (f : Sched → Sched) : (s.modSched c k f).kvs = s.kvs := rfl
@[simp] theorem modSched_fab (s : State) (c k : Nat) (f : Sched → Sched) : (s.modSched c k f).fab = s.fab := rfl
@[simp] theorem modSched_dbg (s : State) (c k : Nat) (f : Sched → Sched) : (s.modSched c k f).dbg = s.dbg := rfl
@[simp] theorem modSched_trace (s : State) (c k : Nat) (f : Sched → Sched) : (s.modSched c k f).trace = s.trace := rfl
@[simp] theorem modSched_ctrs (s : State) (c k : Nat) (f : Sched → Sched) : (s.modSched c k f).ctrs = s.ctrs := rfl
@[simp] theorem modSched_sys (s : State) (c k : Nat) (f : Sched → Sched) : (s.modSched c k f).sys = s.sys := rfl
@[simp] theorem modSched_answers (s : State) (c k : Nat) (f : Sched → Sched) : (s.modSched c k f).answers = s.answers := rfl
@[simp] theorem modSched_agenda (s : State) (c k : Nat) (f : Sched → Sched) : (s.modSched c k f).agenda = s.agenda := rfl
@[simp] theorem modSched_cur (s : State) (c k : Nat) (f : Sched → Sched) : (s.modSched c k f).cur = s.cur := rfl
@[simp] theorem modSched_ids (s : State) (c k : Nat) (f : Sched → Sched) : (s.modSched c k f).ids = s.ids := rfl
@[simp] theorem modSched_free (s : State) (c k : Nat) (f : Sched → Sched) : (s.modSched c k f).free = s.free := rfl
@[simp] theorem modSched_bus (s : State) (c k : Nat) (f : Sched → Sched) : (s.modSched c k f).bus = s.bus := rfl
@[simp] theorem modSched_wfails (s : State) (c k : Nat) (f : Sched → Sched) : (s.modSched c k f).wfails = s.wfails := rfl
@[simp] theorem modSched_hits (s : State) (c k : Nat) (f : Sched → Sched) : (s.modSched c k f).hits = s.hits := rfl

/-! ### modCluster -/

@[simp] theorem modCluster_now (s : State) (c : Nat) (f : Cluster → Cluster) : (s.modCluster c f).now = s.now := rfl
@[simp] theorem modCluster_cyc (s : State) (c : Nat) (f : Cluster → Cluster) : (s.modCluster c f).cyc = s.cyc := rfl
@[simp] theorem modCluster_mem (s : State) (c : Nat) (f : Cluster → Cluster) : (s.modCluster c f).mem = s.mem := rfl
@[simp] theorem modCluster_tags (s : State) (c : Nat) (f : Cluster → Cluster) : (s.modCluster c f).tags = s.tags := rfl
@[simp] theorem modCluster_backing (s : State) (c : Nat) (f : Cluster → Cluster) : (s.modCluster c f).backing = s.backing := rfl
@[simp] theorem modCluster_leases (s : State) (c : Nat) (f : Cluster → Cluster) : (s.modCluster c f).leases = s.leases := rfl
@[simp] theorem modCluster_horizon (s : State) (c : Nat) (f : Cluster → Cluster) : (s.modCluster c f).horizon = s.horizon := rfl
@[simp] theorem modCluster_flights (s : State) (c : Nat) (f : Cluster → Cluster) : (s.modCluster c f).flights = s.flights := rfl
@[simp] theorem modCluster_cmds (s : State) (c : Nat) (f : Cluster → Cluster) : (s.modCluster c f).cmds = s.cmds := rfl
@[simp] theorem modCluster_cores (s : State) (c : Nat) (f : Cluster → Cluster) : (s.modCluster c f).cores = s.cores := rfl
theorem modCluster_clusters (s : State) (c : Nat) (f : Cluster → Cluster) : (s.modCluster c f).clusters = Tab.mod {} f c s.clusters := rfl
@[simp] theorem modCluster_teams (s : State) (c : Nat) (f : Cluster → Cluster) : (s.modCluster c f).teams = s.teams := rfl
@[simp] theorem modCluster_grids (s : State) (c : Nat) (f : Cluster → Cluster) : (s.modCluster c f).grids = s.grids := rfl
@[simp] theorem modCluster_ctxs (s : State) (c : Nat) (f : Cluster → Cluster) : (s.modCluster c f).ctxs = s.ctxs := rfl
@[simp] theorem modCluster_dlqs (s : State) (c : Nat) (f : Cluster → Cluster) : (s.modCluster c f).dlqs = s.dlqs := rfl
@[simp] theorem modCluster_posts (s : State) (c : Nat) (f : Cluster → Cluster) : (s.modCluster c f).posts = s.posts := rfl
@[simp] theorem modCluster_svcs (s : State) (c : Nat) (f : Cluster → Cluster) : (s.modCluster c f).svcs = s.svcs := rfl
@[simp] theorem modCluster_tasks (s : State) (c : Nat) (f : Cluster → Cluster) : (s.modCluster c f).tasks = s.tasks := rfl
@[simp] theorem modCluster_versions (s : State) (c : Nat) (f : Cluster → Cluster) : (s.modCluster c f).versions = s.versions := rfl
@[simp] theorem modCluster_carbons (s : State) (c : Nat) (f : Cluster → Cluster) : (s.modCluster c f).carbons = s.carbons := rfl
@[simp] theorem modCluster_disp (s : State) (c : Nat) (f : Cluster → Cluster) : (s.modCluster c f).disp = s.disp := rfl
@[simp] theorem modCluster_pigeons (s : State) (c : Nat) (f : Cluster → Cluster) : (s.modCluster c f).pigeons = s.pigeons := rfl
@[simp] theorem modCluster_pacts (s : State) (c : Nat) (f : Cluster → Cluster) : (s.modCluster c f).pacts = s.pacts := rfl
@[simp] theorem modCluster_couriers (s : State) (c : Nat) (f : Cluster → Cluster) : (s.modCluster c f).couriers = s.couriers := rfl
@[simp] theorem modCluster_pairs (s : State) (c : Nat) (f : Cluster → Cluster) : (s.modCluster c f).pairs = s.pairs := rfl
@[simp] theorem modCluster_kvs (s : State) (c : Nat) (f : Cluster → Cluster) : (s.modCluster c f).kvs = s.kvs := rfl
@[simp] theorem modCluster_fab (s : State) (c : Nat) (f : Cluster → Cluster) : (s.modCluster c f).fab = s.fab := rfl
@[simp] theorem modCluster_dbg (s : State) (c : Nat) (f : Cluster → Cluster) : (s.modCluster c f).dbg = s.dbg := rfl
@[simp] theorem modCluster_trace (s : State) (c : Nat) (f : Cluster → Cluster) : (s.modCluster c f).trace = s.trace := rfl
@[simp] theorem modCluster_ctrs (s : State) (c : Nat) (f : Cluster → Cluster) : (s.modCluster c f).ctrs = s.ctrs := rfl
@[simp] theorem modCluster_sys (s : State) (c : Nat) (f : Cluster → Cluster) : (s.modCluster c f).sys = s.sys := rfl
@[simp] theorem modCluster_answers (s : State) (c : Nat) (f : Cluster → Cluster) : (s.modCluster c f).answers = s.answers := rfl
@[simp] theorem modCluster_agenda (s : State) (c : Nat) (f : Cluster → Cluster) : (s.modCluster c f).agenda = s.agenda := rfl
@[simp] theorem modCluster_cur (s : State) (c : Nat) (f : Cluster → Cluster) : (s.modCluster c f).cur = s.cur := rfl
@[simp] theorem modCluster_ids (s : State) (c : Nat) (f : Cluster → Cluster) : (s.modCluster c f).ids = s.ids := rfl
@[simp] theorem modCluster_free (s : State) (c : Nat) (f : Cluster → Cluster) : (s.modCluster c f).free = s.free := rfl
@[simp] theorem modCluster_bus (s : State) (c : Nat) (f : Cluster → Cluster) : (s.modCluster c f).bus = s.bus := rfl
@[simp] theorem modCluster_wfails (s : State) (c : Nat) (f : Cluster → Cluster) : (s.modCluster c f).wfails = s.wfails := rfl
@[simp] theorem modCluster_hits (s : State) (c : Nat) (f : Cluster → Cluster) : (s.modCluster c f).hits = s.hits := rfl

/-! ### modCtx -/

@[simp] theorem modCtx_now (s : State) (c : Nat) (f : Ctx → Ctx) : (s.modCtx c f).now = s.now := rfl
@[simp] theorem modCtx_cyc (s : State) (c : Nat) (f : Ctx → Ctx) : (s.modCtx c f).cyc = s.cyc := rfl
@[simp] theorem modCtx_mem (s : State) (c : Nat) (f : Ctx → Ctx) : (s.modCtx c f).mem = s.mem := rfl
@[simp] theorem modCtx_tags (s : State) (c : Nat) (f : Ctx → Ctx) : (s.modCtx c f).tags = s.tags := rfl
@[simp] theorem modCtx_backing (s : State) (c : Nat) (f : Ctx → Ctx) : (s.modCtx c f).backing = s.backing := rfl
@[simp] theorem modCtx_leases (s : State) (c : Nat) (f : Ctx → Ctx) : (s.modCtx c f).leases = s.leases := rfl
@[simp] theorem modCtx_horizon (s : State) (c : Nat) (f : Ctx → Ctx) : (s.modCtx c f).horizon = s.horizon := rfl
@[simp] theorem modCtx_flights (s : State) (c : Nat) (f : Ctx → Ctx) : (s.modCtx c f).flights = s.flights := rfl
@[simp] theorem modCtx_cmds (s : State) (c : Nat) (f : Ctx → Ctx) : (s.modCtx c f).cmds = s.cmds := rfl
@[simp] theorem modCtx_cores (s : State) (c : Nat) (f : Ctx → Ctx) : (s.modCtx c f).cores = s.cores := rfl
@[simp] theorem modCtx_clusters (s : State) (c : Nat) (f : Ctx → Ctx) : (s.modCtx c f).clusters = s.clusters := rfl
@[simp] theorem modCtx_teams (s : State) (c : Nat) (f : Ctx → Ctx) : (s.modCtx c f).teams = s.teams := rfl
@[simp] theorem modCtx_grids (s : State) (c : Nat) (f : Ctx → Ctx) : (s.modCtx c f).grids = s.grids := rfl
theorem modCtx_ctxs (s : State) (c : Nat) (f : Ctx → Ctx) : (s.modCtx c f).ctxs = Tab.mod {} f c s.ctxs := rfl
@[simp] theorem modCtx_dlqs (s : State) (c : Nat) (f : Ctx → Ctx) : (s.modCtx c f).dlqs = s.dlqs := rfl
@[simp] theorem modCtx_posts (s : State) (c : Nat) (f : Ctx → Ctx) : (s.modCtx c f).posts = s.posts := rfl
@[simp] theorem modCtx_svcs (s : State) (c : Nat) (f : Ctx → Ctx) : (s.modCtx c f).svcs = s.svcs := rfl
@[simp] theorem modCtx_tasks (s : State) (c : Nat) (f : Ctx → Ctx) : (s.modCtx c f).tasks = s.tasks := rfl
@[simp] theorem modCtx_versions (s : State) (c : Nat) (f : Ctx → Ctx) : (s.modCtx c f).versions = s.versions := rfl
@[simp] theorem modCtx_carbons (s : State) (c : Nat) (f : Ctx → Ctx) : (s.modCtx c f).carbons = s.carbons := rfl
@[simp] theorem modCtx_disp (s : State) (c : Nat) (f : Ctx → Ctx) : (s.modCtx c f).disp = s.disp := rfl
@[simp] theorem modCtx_pigeons (s : State) (c : Nat) (f : Ctx → Ctx) : (s.modCtx c f).pigeons = s.pigeons := rfl
@[simp] theorem modCtx_pacts (s : State) (c : Nat) (f : Ctx → Ctx) : (s.modCtx c f).pacts = s.pacts := rfl
@[simp] theorem modCtx_couriers (s : State) (c : Nat) (f : Ctx → Ctx) : (s.modCtx c f).couriers = s.couriers := rfl
@[simp] theorem modCtx_pairs (s : State) (c : Nat) (f : Ctx → Ctx) : (s.modCtx c f).pairs = s.pairs := rfl
@[simp] theorem modCtx_kvs (s : State) (c : Nat) (f : Ctx → Ctx) : (s.modCtx c f).kvs = s.kvs := rfl
@[simp] theorem modCtx_fab (s : State) (c : Nat) (f : Ctx → Ctx) : (s.modCtx c f).fab = s.fab := rfl
@[simp] theorem modCtx_dbg (s : State) (c : Nat) (f : Ctx → Ctx) : (s.modCtx c f).dbg = s.dbg := rfl
@[simp] theorem modCtx_trace (s : State) (c : Nat) (f : Ctx → Ctx) : (s.modCtx c f).trace = s.trace := rfl
@[simp] theorem modCtx_ctrs (s : State) (c : Nat) (f : Ctx → Ctx) : (s.modCtx c f).ctrs = s.ctrs := rfl
@[simp] theorem modCtx_sys (s : State) (c : Nat) (f : Ctx → Ctx) : (s.modCtx c f).sys = s.sys := rfl
@[simp] theorem modCtx_answers (s : State) (c : Nat) (f : Ctx → Ctx) : (s.modCtx c f).answers = s.answers := rfl
@[simp] theorem modCtx_agenda (s : State) (c : Nat) (f : Ctx → Ctx) : (s.modCtx c f).agenda = s.agenda := rfl
@[simp] theorem modCtx_cur (s : State) (c : Nat) (f : Ctx → Ctx) : (s.modCtx c f).cur = s.cur := rfl
@[simp] theorem modCtx_ids (s : State) (c : Nat) (f : Ctx → Ctx) : (s.modCtx c f).ids = s.ids := rfl
@[simp] theorem modCtx_free (s : State) (c : Nat) (f : Ctx → Ctx) : (s.modCtx c f).free = s.free := rfl
@[simp] theorem modCtx_bus (s : State) (c : Nat) (f : Ctx → Ctx) : (s.modCtx c f).bus = s.bus := rfl
@[simp] theorem modCtx_wfails (s : State) (c : Nat) (f : Ctx → Ctx) : (s.modCtx c f).wfails = s.wfails := rfl
@[simp] theorem modCtx_hits (s : State) (c : Nat) (f : Ctx → Ctx) : (s.modCtx c f).hits = s.hits := rfl

/-! ### modDlq -/

@[simp] theorem modDlq_now (s : State) (d : Nat) (f : Dlq → Dlq) : (s.modDlq d f).now = s.now := rfl
@[simp] theorem modDlq_cyc (s : State) (d : Nat) (f : Dlq → Dlq) : (s.modDlq d f).cyc = s.cyc := rfl
@[simp] theorem modDlq_mem (s : State) (d : Nat) (f : Dlq → Dlq) : (s.modDlq d f).mem = s.mem := rfl
@[simp] theorem modDlq_tags (s : State) (d : Nat) (f : Dlq → Dlq) : (s.modDlq d f).tags = s.tags := rfl
@[simp] theorem modDlq_backing (s : State) (d : Nat) (f : Dlq → Dlq) : (s.modDlq d f).backing = s.backing := rfl
@[simp] theorem modDlq_leases (s : State) (d : Nat) (f : Dlq → Dlq) : (s.modDlq d f).leases = s.leases := rfl
@[simp] theorem modDlq_horizon (s : State) (d : Nat) (f : Dlq → Dlq) : (s.modDlq d f).horizon = s.horizon := rfl
@[simp] theorem modDlq_flights (s : State) (d : Nat) (f : Dlq → Dlq) : (s.modDlq d f).flights = s.flights := rfl
@[simp] theorem modDlq_cmds (s : State) (d : Nat) (f : Dlq → Dlq) : (s.modDlq d f).cmds = s.cmds := rfl
@[simp] theorem modDlq_cores (s : State) (d : Nat) (f : Dlq → Dlq) : (s.modDlq d f).cores = s.cores := rfl
@[simp] theorem modDlq_clusters (s : State) (d : Nat) (f : Dlq → Dlq) : (s.modDlq d f).clusters = s.clusters := rfl
@[simp] theorem modDlq_teams (s : State) (d : Nat) (f : Dlq → Dlq) : (s.modDlq d f).teams = s.teams := rfl
@[simp] theorem modDlq_grids (s : State) (d : Nat) (f : Dlq → Dlq) : (s.modDlq d f).grids = s.grids := rfl
@[simp] theorem modDlq_ctxs (s : State) (d : Nat) (f : Dlq → Dlq) : (s.modDlq d f).ctxs = s.ctxs := rfl
theorem modDlq_dlqs (s : State) (d : Nat) (f : Dlq → Dlq) : (s.modDlq d f).dlqs = modAt f s.dlqs d := rfl
@[simp] theorem modDlq_posts (s : State) (d : Nat) (f : Dlq → Dlq) : (s.modDlq d f).posts = s.posts := rfl
@[simp] theorem modDlq_svcs (s : State) (d : Nat) (f : Dlq → Dlq) : (s.modDlq d f).svcs = s.svcs := rfl
@[simp] theorem modDlq_tasks (s : State) (d : Nat) (f : Dlq → Dlq) : (s.modDlq d f).tasks = s.tasks := rfl
@[simp] theorem modDlq_versions (s : State) (d : Nat) (f : Dlq → Dlq) : (s.modDlq d f).versions = s.versions := rfl
@[simp] theorem modDlq_carbons (s : State) (d : Nat) (f : Dlq → Dlq) : (s.modDlq d f).carbons = s.carbons := rfl
@[simp] theorem modDlq_disp (s : State) (d : Nat) (f : Dlq → Dlq) : (s.modDlq d f).disp = s.disp := rfl
@[simp] theorem modDlq_pigeons (s : State) (d : Nat) (f : Dlq → Dlq) : (s.modDlq d f).pigeons = s.pigeons := rfl
@[simp] theorem modDlq_pacts (s : State) (d : Nat) (f : Dlq → Dlq) : (s.modDlq d f).pacts = s.pacts := rfl
@[simp] theorem modDlq_couriers (s : State) (d : Nat) (f : Dlq → Dlq) : (s.modDlq d f).couriers = s.couriers := rfl
@[simp] theorem modDlq_pairs (s : State) (d : Nat) (f : Dlq → Dlq) : (s.modDlq d f).pairs = s.pairs := rfl
@[simp] theorem modDlq_kvs (s : State) (d : Nat) (f : Dlq → Dlq) : (s.modDlq d f).kvs = s.kvs := rfl
@[simp] theorem modDlq_fab (s : State) (d : Nat) (f : Dlq → Dlq) : (s.modDlq d f).fab = s.fab := rfl
@[simp] theorem modDlq_dbg (s : State) (d : Nat) (f : Dlq → Dlq) : (s.modDlq d f).dbg = s.dbg := rfl
@[simp] theorem modDlq_trace (s : State) (d : Nat) (f : Dlq → Dlq) : (s.modDlq d f).trace = s.trace := rfl
@[simp] theorem modDlq_ctrs (s : State) (d : Nat) (f : Dlq → Dlq) : (s.modDlq d f).ctrs = s.ctrs := rfl
@[simp] theorem modDlq_sys (s : State) (d : Nat) (f : Dlq → Dlq) : (s.modDlq d f).sys = s.sys := rfl
@[simp] theorem modDlq_answers (s : State) (d : Nat) (f : Dlq → Dlq) : (s.modDlq d f).answers = s.answers := rfl
@[simp] theorem modDlq_agenda (s : State) (d : Nat) (f : Dlq → Dlq) : (s.modDlq d f).agenda = s.agenda := rfl
@[simp] theorem modDlq_cur (s : State) (d : Nat) (f : Dlq → Dlq) : (s.modDlq d f).cur = s.cur := rfl
@[simp] theorem modDlq_ids (s : State) (d : Nat) (f : Dlq → Dlq) : (s.modDlq d f).ids = s.ids := rfl
@[simp] theorem modDlq_free (s : State) (d : Nat) (f : Dlq → Dlq) : (s.modDlq d f).free = s.free := rfl
@[simp] theorem modDlq_bus (s : State) (d : Nat) (f : Dlq → Dlq) : (s.modDlq d f).bus = s.bus := rfl
@[simp] theorem modDlq_wfails (s : State) (d : Nat) (f : Dlq → Dlq) : (s.modDlq d f).wfails = s.wfails := rfl
@[simp] theorem modDlq_hits (s : State) (d : Nat) (f : Dlq → Dlq) : (s.modDlq d f).hits = s.hits := rfl

/-! ### modSys -/

@[simp] theorem modSys_now (s : State) (f : Sys → Sys) : (s.modSys f).now = s.now := rfl
@[simp] theorem modSys_cyc (s : State) (f : Sys → Sys) : (s.modSys f).cyc = s.cyc := rfl
@[simp] theorem modSys_mem (s : State) (f : Sys → Sys) : (s.modSys f).mem = s.mem := rfl
@[simp] theorem modSys_tags (s : State) (f : Sys → Sys) : (s.modSys f).tags = s.tags := rfl
@[simp] theorem modSys_backing (s : State) (f : Sys → Sys) : (s.modSys f).backing = s.backing := rfl
@[simp] theorem modSys_leases (s : State) (f : Sys → Sys) : (s.modSys f).leases = s.leases := rfl
@[simp] theorem modSys_horizon (s : State) (f : Sys → Sys) : (s.modSys f).horizon = s.horizon := rfl
@[simp] theorem modSys_flights (s : State) (f : Sys → Sys) : (s.modSys f).flights = s.flights := rfl
@[simp] theorem modSys_cmds (s : State) (f : Sys → Sys) : (s.modSys f).cmds = s.cmds := rfl
@[simp] theorem modSys_cores (s : State) (f : Sys → Sys) : (s.modSys f).cores = s.cores := rfl
@[simp] theorem modSys_clusters (s : State) (f : Sys → Sys) : (s.modSys f).clusters = s.clusters := rfl
@[simp] theorem modSys_teams (s : State) (f : Sys → Sys) : (s.modSys f).teams = s.teams := rfl
@[simp] theorem modSys_grids (s : State) (f : Sys → Sys) : (s.modSys f).grids = s.grids := rfl
@[simp] theorem modSys_ctxs (s : State) (f : Sys → Sys) : (s.modSys f).ctxs = s.ctxs := rfl
@[simp] theorem modSys_dlqs (s : State) (f : Sys → Sys) : (s.modSys f).dlqs = s.dlqs := rfl
@[simp] theorem modSys_posts (s : State) (f : Sys → Sys) : (s.modSys f).posts = s.posts := rfl
@[simp] theorem modSys_svcs (s : State) (f : Sys → Sys) : (s.modSys f).svcs = s.svcs := rfl
@[simp] theorem modSys_tasks (s : State) (f : Sys → Sys) : (s.modSys f).tasks = s.tasks := rfl
@[simp] theorem modSys_versions (s : State) (f : Sys → Sys) : (s.modSys f).versions = s.versions := rfl
@[simp] theorem modSys_carbons (s : State) (f : Sys → Sys) : (s.modSys f).carbons = s.carbons := rfl
@[simp] theorem modSys_disp (s : State) (f : Sys → Sys) : (s.modSys f).disp = s.disp := rfl
@[simp] theorem modSys_pigeons (s : State) (f : Sys → Sys) : (s.modSys f).pigeons = s.pigeons := rfl
@[simp] theorem modSys_pacts (s : State) (f : Sys → Sys) : (s.modSys f).pacts = s.pacts := rfl
@[simp] theorem modSys_couriers (s : State) (f : Sys → Sys) : (s.modSys f).couriers = s.couriers := rfl
@[simp] theorem modSys_pairs (s : State) (f : Sys → Sys) : (s.modSys f).pairs = s.pairs := rfl
@[simp] theorem modSys_kvs (s : State) (f : Sys → Sys) : (s.modSys f).kvs = s.kvs := rfl
@[simp] theorem modSys_fab (s : State) (f : Sys → Sys) : (s.modSys f).fab = s.fab := rfl
@[simp] theorem modSys_dbg (s : State) (f : Sys → Sys) : (s.modSys f).dbg = s.dbg := rfl
@[simp] theorem modSys_trace (s : State) (f : Sys → Sys) : (s.modSys f).trace = s.trace := rfl
@[simp] theorem modSys_ctrs (s : State) (f : Sys → Sys) : (s.modSys f).ctrs = s.ctrs := rfl
theorem modSys_sys (s : State) (f : Sys → Sys) : (s.modSys f).sys = f s.sys := rfl
@[simp] theorem modSys_answers (s : State) (f : Sys → Sys) : (s.modSys f).answers = s.answers := rfl
@[simp] theorem modSys_agenda (s : State) (f : Sys → Sys) : (s.modSys f).agenda = s.agenda := rfl
@[simp] theorem modSys_cur (s : State) (f : Sys → Sys) : (s.modSys f).cur = s.cur := rfl
@[simp] theorem modSys_ids (s : State) (f : Sys → Sys) : (s.modSys f).ids = s.ids := rfl
@[simp] theorem modSys_free (s : State) (f : Sys → Sys) : (s.modSys f).free = s.free := rfl
@[simp] theorem modSys_bus (s : State) (f : Sys → Sys) : (s.modSys f).bus = s.bus := rfl
@[simp] theorem modSys_wfails (s : State) (f : Sys → Sys) : (s.modSys f).wfails = s.wfails := rfl
@[simp] theorem modSys_hits (s : State) (f : Sys → Sys) : (s.modSys f).hits = s.hits := rfl

end Sys2Proof.Machine
end

