-- ==== Sys2Proof/Laws/Tables.lean ====
section
/-! SUPPORT. Laws/Tables.lean: reads after writes in tables, lists and sparse memories, and the canonical forms that they keep. -/

namespace Sys2Proof.Machine

open Sys2Proof

/-! ### Tables -/

theorem tab_find_put_same {α : Type} (k : Nat) (v : α) (t : List (Nat × α)) : Tab.find k (Tab.put k v t) = some v := by
  induction t with
  | nil => simp [Tab.put, Tab.find]
  | cons e t ih =>
    obtain ⟨k', v'⟩ := e
    simp only [Tab.put]
    split
    · simp [Tab.find]
    · split
      · simp [Tab.find]
      · simp [Tab.find, *]

theorem tab_find_put_other {α : Type} (j k : Nat) (v : α) (t : List (Nat × α)) (h : j ≠ k) :
    Tab.find j (Tab.put k v t) = Tab.find j t := by
  induction t with
  | nil => simp [Tab.put, Tab.find, Ne.symm h]
  | cons e t ih =>
    obtain ⟨k', v'⟩ := e
    simp only [Tab.put]
    split
    · simp [Tab.find, Ne.symm h]
    · split
      · next heq => subst heq; simp [Tab.find, Ne.symm h]
      · simp only [Tab.find, ih]

theorem tab_find_upd_same {α : Type} (f : α → α) (k : Nat) (t : List (Nat × α)) :
    Tab.find k (Tab.upd f k t) = (Tab.find k t).map f := by
  induction t with
  | nil => rfl
  | cons e t ih =>
    obtain ⟨k', v'⟩ := e
    simp only [Tab.upd]
    split <;> simp_all [Tab.find]

theorem tab_find_upd_other {α : Type} (f : α → α) (j k : Nat) (t : List (Nat × α)) (h : j ≠ k) :
    Tab.find j (Tab.upd f k t) = Tab.find j t := by
  induction t with
  | nil => rfl
  | cons e t ih =>
    obtain ⟨k', v'⟩ := e
    simp only [Tab.upd]
    split
    · next heq => subst heq; simp [Tab.find, Ne.symm h]
    · simp only [Tab.find, ih]

theorem tab_get_mod_same {α : Type} (d : α) (f : α → α) (k : Nat) (t : List (Nat × α)) :
    Tab.get d k (Tab.mod d f k t) = f (Tab.get d k t) := by
  simp [Tab.get, Tab.mod, tab_find_put_same]

theorem tab_get_mod_other {α : Type} (d : α) (f : α → α) (j k : Nat) (t : List (Nat × α)) (h : j ≠ k) :
    Tab.get d j (Tab.mod d f k t) = Tab.get d j t := by
  simp [Tab.get, Tab.mod, tab_find_put_other _ _ _ _ h]

theorem tab_get_put_same {α : Type} (d : α) (k : Nat) (v : α) (t : List (Nat × α)) : Tab.get d k (Tab.put k v t) = v := by
  simp [Tab.get, tab_find_put_same]

/-! ### Lists by position -/

theorem nth_setAt_same {α : Type} (d : α) (l : List α) (n : Nat) (x : α) (h : n < l.length) : nth d (setAt l n x) n = x := by
  induction l generalizing n with
  | nil => simp at h
  | cons y t ih => cases n with
    | zero => rfl
    | succ n => simpa [setAt, nth] using ih n (by simpa using h)

theorem nth_setAt_other {α : Type} (d : α) (l : List α) (m n : Nat) (x : α) (h : m ≠ n) : nth d (setAt l n x) m = nth d l m := by
  induction l generalizing m n with
  | nil => rfl
  | cons y t ih => cases n with
    | zero => cases m with
      | zero => exact absurd rfl h
      | succ m => rfl
    | succ n => cases m with
      | zero => rfl
      | succ m => simpa [setAt, nth] using ih m n (by omega)

theorem nth_modAt_same {α : Type} (d : α) (f : α → α) (l : List α) (n : Nat) (h : n < l.length) : nth d (modAt f l n) n = f (nth d l n) := by
  induction l generalizing n with
  | nil => simp at h
  | cons y t ih => cases n with
    | zero => rfl
    | succ n => simpa [modAt, nth] using ih n (by simpa using h)

theorem nth_modAt_other {α : Type} (d : α) (f : α → α) (l : List α) (m n : Nat) (h : m ≠ n) : nth d (modAt f l n) m = nth d l m := by
  induction l generalizing m n with
  | nil => rfl
  | cons y t ih => cases n with
    | zero => cases m with
      | zero => exact absurd rfl h
      | succ m => rfl
    | succ n => cases m with
      | zero => rfl
      | succ m => simpa [modAt, nth] using ih m n (by omega)

@[simp] theorem length_setAt {α : Type} (l : List α) (n : Nat) (x : α) : (setAt l n x).length = l.length := by
  induction l generalizing n with
  | nil => rfl
  | cons y t ih => cases n <;> simp [setAt, ih]

@[simp] theorem length_modAt {α : Type} (f : α → α) (l : List α) (n : Nat) : (modAt f l n).length = l.length := by
  induction l generalizing n with
  | nil => rfl
  | cons y t ih => cases n <;> simp [modAt, ih]

/-! ### Sparse memories -/

theorem mem_get_below (lo a : Nat) (m : List Host.Cell) (h : Mem.wfFrom lo m = true) (ha : a < lo) : Mem.get m a = 0 := by
  induction m generalizing lo with
  | nil => rfl
  | cons e t ih =>
    obtain ⟨k, b⟩ := e
    simp only [Mem.wfFrom, Bool.and_eq_true, decide_eq_true_eq] at h
    simp only [Mem.get]
    rw [if_neg (by omega)]
    exact ih _ h.2 (by omega)

theorem mem_get_set_other (m : List Host.Cell) (a c : Nat) (b : Byte) (h : c ≠ a) : Mem.get (Mem.set m a b) c = Mem.get m c := by
  induction m with
  | nil =>
    simp only [Mem.set]
    split <;> simp [Mem.get, Ne.symm h]
  | cons e t ih =>
    obtain ⟨k, x⟩ := e
    simp only [Mem.set]
    split
    · split <;> simp [Mem.get, Ne.symm h]
    · split
      · next heq =>
        subst heq
        split <;> simp [Mem.get, Ne.symm h]
      · simp only [Mem.get, ih]

theorem mem_get_set_same (lo : Nat) (m : List Host.Cell) (a : Nat) (b : Byte) (h : Mem.wfFrom lo m = true) :
    Mem.get (Mem.set m a b) a = b := by
  induction m generalizing lo with
  | nil =>
    simp only [Mem.set]
    split <;> simp_all [Mem.get]
  | cons e t ih =>
    obtain ⟨k, x⟩ := e
    have h' := h
    simp only [Mem.wfFrom, Bool.and_eq_true, decide_eq_true_eq] at h
    simp only [Mem.set]
    split
    · next hlt =>
      split
      · next hb =>
        have hw : Mem.wfFrom k ((k, x) :: t) = true := by
          simp only [Mem.wfFrom, Bool.and_eq_true, decide_eq_true_eq]
          exact ⟨⟨Nat.le_refl k, h.1.2⟩, h.2⟩
        rw [hb]
        exact mem_get_below k a ((k, x) :: t) hw hlt
      · simp [Mem.get]
    · split
      · next heq =>
        subst heq
        split
        · next hb =>
          rw [hb]
          exact mem_get_below _ _ _ h.2 (by omega)
        · simp [Mem.get]
      · next hne =>
        simp only [Mem.get]
        rw [if_neg (by omega)]
        exact ih _ h.2

theorem mem_wfFrom_le (lo lo' : Nat) (m : List Host.Cell) (h : Mem.wfFrom lo m = true) (hl : lo' ≤ lo) : Mem.wfFrom lo' m = true := by
  cases m with
  | nil => rfl
  | cons e t =>
    obtain ⟨k, b⟩ := e
    simp only [Mem.wfFrom, Bool.and_eq_true, decide_eq_true_eq] at h ⊢
    exact ⟨⟨by omega, h.1.2⟩, h.2⟩

theorem mem_wfFrom_set (lo : Nat) (m : List Host.Cell) (a : Nat) (b : Byte) (h : Mem.wfFrom lo m = true) (hl : lo ≤ a) :
    Mem.wfFrom lo (Mem.set m a b) = true := by
  induction m generalizing lo with
  | nil =>
    simp only [Mem.set]
    split
    · rfl
    · simp_all [Mem.wfFrom]
  | cons e t ih =>
    obtain ⟨k, x⟩ := e
    simp only [Mem.wfFrom, Bool.and_eq_true, decide_eq_true_eq] at h
    simp only [Mem.set]
    split
    · next hlt =>
      split
      · simp only [Mem.wfFrom, Bool.and_eq_true, decide_eq_true_eq]
        exact h
      · simp only [Mem.wfFrom, Bool.and_eq_true, decide_eq_true_eq]
        exact ⟨⟨hl, by simp_all⟩, ⟨by omega, h.1.2⟩, h.2⟩
    · split
      · next heq =>
        subst heq
        split
        · exact mem_wfFrom_le _ _ _ h.2 (by omega)
        · simp only [Mem.wfFrom, Bool.and_eq_true, decide_eq_true_eq]
          exact ⟨⟨hl, by simp_all⟩, h.2⟩
      · simp only [Mem.wfFrom, Bool.and_eq_true, decide_eq_true_eq]
        exact ⟨h.1, ih _ h.2 (by omega)⟩

/-- Writing a byte keeps the canonical form. -/
theorem mem_wf_set (m : List Host.Cell) (a : Nat) (b : Byte) (h : Mem.wf m = true) : Mem.wf (Mem.set m a b) = true :=
  mem_wfFrom_set 0 m a b h (Nat.zero_le a)

/-- Writing bytes keeps the canonical form. -/
theorem mem_wf_write (m : List Host.Cell) (a : Nat) (bs : List Byte) (h : Mem.wf m = true) : Mem.wf (Mem.write m a bs) = true := by
  induction bs generalizing m a with
  | nil => exact h
  | cons b t ih => exact ih _ _ (mem_wf_set m a b h)

/-- Dropping entries keeps the canonical form. -/
theorem mem_wfFrom_filter (lo : Nat) (m : List Host.Cell) (p : Host.Cell → Bool) (h : Mem.wfFrom lo m = true) :
    Mem.wfFrom lo (m.filter p) = true := by
  induction m generalizing lo with
  | nil => rfl
  | cons e t ih =>
    obtain ⟨k, b⟩ := e
    simp only [Mem.wfFrom, Bool.and_eq_true, decide_eq_true_eq] at h
    simp only [List.filter]
    split
    · simp only [Mem.wfFrom, Bool.and_eq_true, decide_eq_true_eq]
      exact ⟨h.1, ih _ h.2⟩
    · exact mem_wfFrom_le _ _ _ (ih _ h.2) (by omega)

/-- Writing the bytes of a list of entries keeps the canonical form. -/
theorem mem_wf_sets (cs : List Host.Cell) (at_ : Nat) (m : List Host.Cell) (h : Mem.wf m = true) :
    Mem.wf (cs.foldl (fun m c => Mem.set m (at_ + c.1) c.2) m) = true := by
  induction cs generalizing m with
  | nil => exact h
  | cons c t ih => exact ih _ (mem_wf_set _ _ _ h)

/-- Bytes outside those written read as before. -/
theorem mem_get_write_other (m : List Host.Cell) (a c : Nat) (bs : List Byte) (h : c < a ∨ a + bs.length ≤ c) :
    Mem.get (Mem.write m a bs) c = Mem.get m c := by
  induction bs generalizing m a with
  | nil => rfl
  | cons b t ih =>
    simp only [List.length_cons] at h
    simp only [Mem.write]
    rw [ih _ _ (by omega), mem_get_set_other _ _ _ _ (by omega)]

/-- Bytes written read back. -/
theorem mem_read_write (m : List Host.Cell) (a : Nat) (bs : List Byte) (h : Mem.wf m = true) :
    Mem.read (Mem.write m a bs) a bs.length = bs := by
  induction bs generalizing m a with
  | nil => rfl
  | cons b t ih =>
    simp only [List.length_cons, Mem.read, Mem.write]
    rw [ih _ _ (mem_wf_set m a b h), mem_get_write_other _ _ _ _ (by omega), mem_get_set_same 0 _ _ _ h]

end Sys2Proof.Machine
end

