-- ==== Sys2Proof/Safety.lean ====
section
/-! DEFINITION. Safety.lean: what a claim may call a sound state, a safe step, and a word that runs undisturbed. -/

namespace Sys2Proof

open Sys2Proof.Machine

/-- Nothing of a step is left over after it: no access to an absent address, no failed write and no firing still to be handled. -/
abbrev Settled (s : State) : Prop := s.bus = none ∧ s.wfails = [] ∧ s.hits = []

/-- A step that goes on. -/
def SafeStep (s : State) : Prop := ∃ t, step s = .next t

/-- What every step keeps. -/
def Kept (inv : State → Prop) : Prop := ∀ s t, inv s → step s = .next t → inv t

/-! ### Words that run undisturbed -/

/-- The executing group of a state: distinct lanes of its team, none of them stepped by a debugger; no move of the team's baton waits;
the state is settled. -/
structure Ready (s : State) (w : WordCtx) : Prop where
  ctx : s.wordCtx = some w
  nodup : (w.group.lanes.map Prod.snd).Nodup
  within : ∀ p ∈ w.group.lanes, p.2 < w.team.lanes.length
  unstepped : ∀ e ∈ w.ents, e.lane.stepping = none
  noMove : w.team.batonMove = none
  settled : Settled s

/-- A ready group whose word is not the last of its clause. -/
structure Inside (s : State) (w : WordCtx) : Prop extends Ready s w where
  notLast : w.group.slot < hdrCount w.group.hdr

/-- Lane `e` of the group executes the word with the values `a`, `b` and `c` of its sources: its guard holds, its registers are within its
budget, full where they are read, and owed nothing where they are written (R56). -/
def Executes (s : State) (w : WordCtx) (i : Instr) (e : Ent) (a b c : Val) : Prop := e ∈ w.ents ∧ gate s w i e = .go a b c

/-- Every lane of the group executes the word or is guarded off. -/
def Clear (s : State) (w : WordCtx) (i : Instr) : Prop := ∀ e ∈ w.ents, gate s w i e = .off ∨ ∃ a b c, gate s w i e = .go a b c

/-- The word's destination is no team scalar: a lane register, a predicate, or nothing. -/
abbrev LaneDest (i : Instr) : Prop := ∀ u, destOf i = some u → isScal u.code.toNat = false

/-- A ready group of one lane `e`, which executes the word with the values `a`, `b` and `c` of its sources. -/
structure Single (s : State) (w : WordCtx) (i : Instr) (e : Ent) (a b c : Val) : Prop extends Ready s w where
  one : w.ents = [e]
  runs : gate s w i e = .go a b c

/-- Such a group whose word is not the last of its clause. -/
structure Alone (s : State) (w : WordCtx) (i : Instr) (e : Ent) (a b c : Val) : Prop extends Single s w i e a b c where
  notLast : w.group.slot < hdrCount w.group.hdr

/-- The state after a word whose lanes' acts are no traps: the lanes as their acts say, the scalar writes that wait for the end of the cycle
(R78, R79), and the group at its next slot with the lanes that go on; a group without lanes is no more (R74). -/
def afterWord (s : State) (w : WordCtx) (i : Instr) (acts : List (Ent × Act)) : State :=
  (s.modTeam w.group.tid (fun t => { t with
    lanes := settleLanes w.group (destOf i) acts 0 t.lanes, pendScal := t.pendScal ++ scalarWrites i w.sched acts })).modSched w.core w.sched
    (fun x => { x with
      groups := (x.groups.map (fun g => if g.gid = w.group.gid then
        { g with lanes := (acts.filter (fun e => e.2.goesOn)).map (fun e => (e.1.slot, e.1.lid)),
                 slot := (if w.group.slot < hdrCount w.group.hdr then g.slot + 1 else g.slot), entry := false } else g)).filter
        (fun g => !g.lanes.isEmpty) })

/-- The same at the end of a clause, where the group is no more one of its scheduler's (R70). -/
def leftClause (s : State) (w : WordCtx) (i : Instr) (acts : List (Ent × Act)) : State :=
  (afterWord s w i acts).modSched w.core w.sched (fun x => { x with groups := x.groups.filter (fun g => g.gid != w.group.gid) })

/-- The state after the last word of a clause whose group dissolves: the lanes that go on are filed at their PCs (R69, R70). -/
def afterLast (s : State) (w : WordCtx) (i : Instr) (acts : List (Ent × Act)) : State :=
  fileLanes (leftClause s w i acts) w.group.tid ((acts.filter (fun e => e.2.goesOn)).map (fun e => e.1.lid))

/-- The lanes that go on after the last word of a clause, none of which anything holds. -/
def goers (s : State) (w : WordCtx) (i : Instr) (acts : List (Ent × Act)) : List Nat :=
  ((acts.filter (fun e => e.2.goesOn)).map (fun e => e.1.lid)).filter (fun lid => ((afterWord s w i acts).lane w.group.tid lid).elim false Lane.free)

/-- A group that has finished the last word of its clause continues into the clause at `h`, where all its lanes go (R70): at the header, or at the
word `j` to which brx.slot has sent them. A trap-entry group does not (R101). -/
structure Continues (s : State) (w : WordCtx) (i : Instr) (acts : List (Ent × Act)) (h : Addr) (j : Option Nat) : Prop where
  lanes : goers s w i acts ≠ []
  same : ∀ lid ∈ goers s w i acts, ∀ l, (afterWord s w i acts).lane w.group.tid lid = some l → l.h = h ∧ l.slot = j
  reform : hdrReform w.group.hdr = false
  plain : w.group.own = false
  unfiled : ∀ b ∈ ((afterWord s w i acts).sched w.core w.sched).bins, b.tid ≠ w.group.tid
  alone : ∀ g ∈ ((afterWord s w i acts).sched w.core w.sched).groups, g.tid = w.group.tid → g.gid = w.group.gid
  fed : ∀ b ∈ ((afterWord s w i acts).sched w.core w.sched).bins, b.age s.cyc < 2048
  yields : hdrYield w.group.hdr = false ∨ (afterWord s w i acts).anyCandidate w.core w.sched = false

/-- Otherwise it dissolves (R70). -/
abbrev Dissolves (s : State) (w : WordCtx) (i : Instr) (acts : List (Ent × Act)) : Prop := ∀ h j, ¬ Continues s w i acts h j

/-- The state after the last word of a clause whose group continues into the clause at `h`, which it enters. -/
def entered (s : State) (w : WordCtx) (i : Instr) (acts : List (Ent × Act)) (h : Addr) (j : Option Nat) : State :=
  enterClause (leftClause s w i acts) w.core w.sched w.group.gid w.group.tid h j (goers s w i acts) false

/-- A word whose lanes' acts are `acts`, none a trap, completes; `t` is the state with what the acts do to the rest of it. Inside a clause the group
stands at its next word; at the end of one its lanes are filed, where it dissolves. -/
structure Leaves (i : Instr) (s t : State) (w : WordCtx) (acts : List (Ent × Act)) : Prop where
  inside : w.group.slot < hdrCount w.group.hdr → exec i s = .next (afterWord t w i acts)
  ends : ¬ w.group.slot < hdrCount w.group.hdr → Dissolves t w i acts → exec i s = .next (afterLast t w i acts)

/-- The same, and where the group continues, it enters the clause that comes next; what that makes of the lanes is said in GroupsAndWaits. -/
structure LeavesOn (i : Instr) (s t : State) (w : WordCtx) (acts : List (Ent × Act)) : Prop extends Leaves i s t w acts where
  goes : ¬ w.group.slot < hdrCount w.group.hdr → ∀ h j, Continues t w i acts h j → (entered t w i acts h j).bus = none →
    exec i s = .next (entered t w i acts h j)

/-- The state after a word some of whose lanes trap: the state after the word, and then the traps, in rising order of the lanes' slots (R55, R101). -/
def afterTraps (s : State) (w : WordCtx) (i : Instr) (acts : List (Ent × Act)) : State :=
  acts.foldl (fun s e => match e.2 with
    | .trap code info => raiseTrap s w.group.tid e.1.lid ⟨w.group.h, causeWord code (i.cls.getD 0) w.group.slot false false (hdrCount w.group.hdr), info⟩
    | _ => s) (afterWord s w i acts)

/-- What a word of a group leaves unchanged: every part of the state but the teams and the group's own scheduler; every other team; of its own
team everything but the lanes and the scalar writes that wait for the end of the cycle; and the lanes outside the group. -/
structure LanesOnly (s t : State) (w : WordCtx) : Prop where
  rest : t = { s with teams := t.teams, cores := t.cores }
  scheds : ∃ f, t.cores = (s.modSched w.core w.sched f).cores
  others : ∀ tid, tid ≠ w.group.tid → t.team tid = s.team tid
  own : ∃ lanes pend, t.team w.group.tid = some { w.team with lanes := lanes, pendScal := pend }
  outside : ∀ lid, (∀ p ∈ w.group.lanes, p.2 ≠ lid) → t.lane w.group.tid lid = s.lane w.group.tid lid

/-- The acts of the lanes of a word that puts `f` of its sources into D: the value; the trap POISON_CONSUMED where D is a team scalar and the value
is poisoned (R78, R100); nothing where the guard is false (R45). -/
def putActs (s : State) (w : WordCtx) (i : Instr) (d : Code) (f : List Exe → Ent → Val → Val → Val → Val) : List (Ent × Act) :=
  w.ents.map (fun e => (e, match gate s w i e with
    | .go a b c =>
      let v := f (executing s w i) e a b c
      let r := scalarTrap i a b c v ((readLanes i (executing s w i) e b).map (fun x => (x.a, x.b, x.c)))
      if isScal d.toNat && v.poison then .trap r.1 r.2 else .put v
    | .off | .trap _ _ | .block _ => .off))

/-- The value that the lane in the lowest slot gives, of those that give one (R78). -/
def lowestPut (acts : List (Ent × Act)) : Option Val := firstSome (fun (e : Ent × Act) => match e.2 with
  | .put v => some v
  | _ => none) acts

/-- A word puts `f` of its sources into D and does nothing else: it completes, each lane acts as `putActs` says, and the group stands at its next slot.
In a lane register or a predicate, every lane that executes gets its value; a lane whose guard is false only goes on. In a team scalar, where no
value is poisoned, the lanes only go on, and the value of the lowest slot waits for the end of the cycle (R78, R79). -/
def Puts (s : State) (w : WordCtx) (i : Instr) (d : Code) (wide : Bool) (f : List Exe → Ent → Val → Val → Val → Val) : Prop :=
  ∃ t, exec i s = .next t ∧ t = afterTraps s w i (putActs s w i d f)
    ∧ (isScal d.toNat = false → LanesOnly s t w ∧ ∀ e ∈ w.ents,
      (∀ a b c, gate s w i e = .go a b c →
        t.lane w.group.tid e.lid = some (advance w.group (e.lane.writeD d.toNat wide (f (executing s w i) e a b c))))
      ∧ (gate s w i e = .off → t.lane w.group.tid e.lid = some (advance w.group e.lane)))
    ∧ (isScal d.toNat = true → (∀ e ∈ w.ents, ∀ a b c, gate s w i e = .go a b c → (f (executing s w i) e a b c).poison = false) →
      LanesOnly s t w ∧ (∀ e ∈ w.ents, t.lane w.group.tid e.lid = some (advance w.group e.lane))
      ∧ ∃ m, t.team w.group.tid = some m ∧ m.scal = w.team.scal ∧ m.pendScal = w.team.pendScal ++ ((lowestPut (putActs s w i d f)).elim [] (fun v =>
          (w.sched, d.toNat - 128, v.lo) :: (if wide then [(w.sched, d.toNat - 127, v.hi)] else []))))

/-- The same for a group of any slot: as `Puts` says inside a clause; at the end of one, where no lane traps, the lanes are as their acts say, and the
group dissolves or continues. -/
def Gives (s : State) (w : WordCtx) (i : Instr) (d : Code) (wide : Bool) (f : List Exe → Ent → Val → Val → Val → Val) : Prop :=
  (w.group.slot < hdrCount w.group.hdr → Puts s w i d wide f)
    ∧ ((∀ x ∈ putActs s w i d f, ∀ code info, x.2 ≠ .trap code info) → LeavesOn i s s w (putActs s w i d f))

/-- A word that computes D and does nothing else: in every ready group whose lanes execute the word, with sources that meet
`ok`, or are guarded off, it completes, and every lane that executes gets `f` of the state, the group's context and its sources in D. -/
def ComputesIf (i : Instr) (d : Code) (wide : Bool) (ok : Val → Val → Val → Prop) (f : State → WordCtx → Val → Val → Val → Val) : Prop :=
  ∀ s w, Ready s w → Clear s w i → (∀ e ∈ w.ents, ∀ a b c, gate s w i e = .go a b c → ok a b c) → Gives s w i d wide (fun _ _ => f s w)

/-- The same for a word that computes D from any sources alone. -/
def Computes (i : Instr) (d : Code) (wide : Bool) (f : Val → Val → Val → Val) : Prop :=
  ComputesIf i d wide (fun _ _ _ => True) (fun _ _ => f)

/-- The same for a word that computes D from any sources and its team's flush bit (R113). -/
def Floats (i : Instr) (d : Code) (f : Bool → Val → Val → Val → Val) : Prop :=
  ComputesIf i d false (fun _ _ _ => True) (fun _ w => f w.team.flush)

/-- The same for a word whose result depends on the lanes that execute it (R91). -/
def ComputesAcross (i : Instr) (d : Code) (wide : Bool) (f : List Exe → Ent → Val → Val → Val → Val) : Prop :=
  ∀ s w, Ready s w → Clear s w i → Gives s w i d wide f

/-- What one lane's word does: in every group of one lane `e` that executes it with the values `a`, `b` and `c` of its sources,
where `pre` holds, the word completes; `out` is the lane's act and the state that the word leaves apart from the lane, the group and the scalar
writes that wait. -/
def Does (i : Instr) (pre : State → WordCtx → Ent → Val → Val → Val → Prop) (out : State → WordCtx → Ent → Val → Val → Val → Act × State) : Prop :=
  ∀ s w e a b c, Single s w i e a b c → pre s w e a b c → Leaves i s (out s w e a b c).2 w [(e, (out s w e a b c).1)]

/-- The same inside a clause alone. -/
def DoesInside (i : Instr) (pre : State → WordCtx → Ent → Val → Val → Val → Prop) (out : State → WordCtx → Ent → Val → Val → Val → Act × State) :
    Prop :=
  ∀ s w e a b c, Alone s w i e a b c → pre s w e a b c → exec i s = .next (afterWord (out s w e a b c).2 w i [(e, (out s w e a b c).1)])

/-- The acts of lanes `es` of a group, in the order of their slots: each acts in the state that the lanes before it have left, where `pre` holds, as
`out` says; a lane whose guard is false does nothing. `s` is the state before the word, in which the operands are read (R56). -/
inductive Each (s : State) (w : WordCtx) (i : Instr) (pre : State → WordCtx → Ent → Val → Val → Val → Prop)
    (out : State → WordCtx → Ent → Val → Val → Val → Act × State) : List Ent → State → List (Ent × Act) → State → Prop
  | done (u : State) : Each s w i pre out [] u [] u
  | off (e : Ent) (es : List Ent) (u t : State) (acts : List (Ent × Act)) : gate s w i e = .off → Each s w i pre out es u acts t →
      Each s w i pre out (e :: es) u ((e, .off) :: acts) t
  | act (e : Ent) (es : List Ent) (u t : State) (acts : List (Ent × Act)) (a b c : Val) : gate s w i e = .go a b c → pre u w e a b c →
      Each s w i pre out es (out u w e a b c).2 acts t → Each s w i pre out (e :: es) u ((e, (out u w e a b c).1) :: acts) t

/-- What the lanes of a group do, of any number: `start` holds before the word, and each lane executes it, as `pre` and `out` say, or is guarded off. -/
def DoesAll (i : Instr) (start : State → WordCtx → Prop) (pre : State → WordCtx → Ent → Val → Val → Val → Prop)
    (out : State → WordCtx → Ent → Val → Val → Val → Act × State) : Prop :=
  ∀ s w t acts, Ready s w → start s w → Each s w i pre out w.ents s acts t → Leaves i s t w acts

/-- The same for a word whose lanes go where it sends them: a group that is not split continues there. -/
def Sends (i : Instr) (pre : State → WordCtx → Ent → Val → Val → Val → Prop) (out : State → WordCtx → Ent → Val → Val → Val → Act × State) : Prop :=
  ∀ s w t acts, Ready s w → Each s w i pre out w.ents s acts t → LeavesOn i s t w acts

/-- Where a lane goes on after a word that is no transfer (R43). -/
abbrev nextHead (w : WordCtx) (e : Ent) : Addr := if w.group.slot < hdrCount w.group.hdr then e.lane.h else fallThrough w.group.h w.group.hdr
abbrev nextWord (w : WordCtx) : Option Nat := if w.group.slot < hdrCount w.group.hdr then some (w.group.slot + 1) else none

/-- A lane's team is no task, or stands at the frontier: its irrevocable acts and traps take place at once (R32, R348). -/
abbrev AtFront (s : State) (w : WordCtx) : Prop := s.atFront w.core w.team.lseq = true

/-- No ldp of the lane is on its way (R160). -/
abbrev NoLdp (s : State) (w : WordCtx) (e : Ent) : Prop := s.ldpDone w.group.tid e.lid = true

/-- No memory watchpoint fires for an access of the lane (R435). -/
abbrev Unwatched (s : State) (w : WordCtx) (e : Ent) (rd wr : Bool) (ptr : DWord) (n : Nat) : Prop :=
  memFiring s w.grid.ctx w.team.tlin e.lid e.lane rd wr (eaVa ptr) n = []

/-- A pointer reaches memory: its bits [59:56] are 0, it lies outside the dead-letter window, its page is not being served (R179), and its page's leaf
allows the access (R172, R176); `pa` and `leaf` are what it is translated to, and every table entry on the way lies in memory. -/
structure Reaches (s : State) (w : WordCtx) (acc : Acc) (ptr : DWord) (n pa leaf : Nat) : Prop where
  outside : s.window w.grid.ctx (eaVa ptr) = none
  served : s.svc w.grid.ctx (s.pageAt w.grid.ctx ptr.toNat) = none
  maps : ∃ big, (translate s (clusterOf w.core) w.grid.ctx ptr.toNat acc n).1 = .ok pa leaf big
  bus : (translate s (clusterOf w.core) w.grid.ctx ptr.toNat acc n).2.bus = none

/-- The state once a pointer has been translated: the cluster's TLB keeps the leaf (R173). -/
def translated (s : State) (w : WordCtx) (acc : Acc) (ptr : DWord) (n : Nat) : State :=
  (translate s (clusterOf w.core) w.grid.ctx ptr.toNat acc n).2

/-- The state as the check of a lane's write finds it at its issue: writes of tags that the lane has issued before have been performed (R176, R193,
assumption log 107). -/
abbrev ownView (s : State) (w : WordCtx) (e : Ent) : State := s.withOwnTags w.group.tid e.lid

/-- The state once a lane's write has been translated: the cluster's TLB keeps the leaf. -/
def issuedWrite (s : State) (w : WordCtx) (e : Ent) (acc : Acc) (ptr : DWord) (n : Nat) : State :=
  { translated (ownView s w e) w acc ptr n with tags := s.tags }

/-- The state once a lane has read its bytes from a copy of the L1 level: the lane remembers how old the sector is that it has read (R158 point 1),
and a read of a task on a versioned page enters its signature (R344). -/
def sawCopy (s : State) (w : WordCtx) (e : Ent) (c : Copy) (ptr : DWord) : State :=
  let u := noteSeen s w.core w.group.tid e.lid (c.pa * 128 + eaVa ptr % 128) c.filled
  if leafVersioned c.leaf.toNat then noteRead u (s.tagsOf w.core w.team).task ((c.pa * 128 + eaVa ptr % 128) / 512) else u

/-- No access of the group's team is one that has failed and is still to be recorded. -/
abbrev NoneFailed (s : State) (w : WordCtx) : Prop := ∀ f ∈ s.flights, f.2.tid = w.group.tid → ∀ c, f.2.stage ≠ .fail c

/-- A global write of the group may go out: on a versioned page it lies in the task's declared ranges (R351), on another page, or as a write of tags,
the team stands at the frontier (R348). -/
abbrev Permitted (s : State) (w : WordCtx) (acc : Acc) (ptr : DWord) (n leaf : Nat) : Prop :=
  if leafVersioned leaf ∧ acc ≠ .tagw then undeclared s w.team.lseq (eaVa ptr) n = false else AtFront s w

/-- The outcome of a word that writes global memory: D is owed if it is `late`, and the write is on its way with its address and data; `g` is its
pointer as formed, where the write acts on the block around it. -/
def Writes (s : State) (w : WordCtx) (e : Ent) (i : Instr) (kind : FKind) (acc : Acc) (ptr : DWord) (n : Nat) (data : DWord) (pa leaf : Nat)
    (late : Bool) (g : DWord := ptr) : Act × State :=
  (if late then oweD s i { e with lane := { e.lane with refused := none } } else .upd { e.lane with refused := none },
    launch (issuedWrite s w e acc ptr n) { flightOf s w e i kind g with pa := pa, leaf := BitVec.ofNat 64 leaf, data := data })

/-- A load of `n` bytes is read at its home slice now: it is on its way, nothing earlier holds it back (R158), its frame is the one in force (R209), it lies
in memory, and passes the tag check (R176); no access of its team has failed and is still to be recorded. -/
structure Reads (s : State) (fid : Nat) (f : Flight) (n : Nat) : Prop where
  stage : f.stage = .ready
  pointed : s.repoint f = .ok f
  clear : s.clear fid f = true
  tagged : leafTagged f.leaf.toNat = false ∨ s.tagsOk f.tags.ctx f.ptr.toNat f.pa n = true
  inFrame : hasFrame f.pa = true ∧ f.pa % n = 0 ∧ n ≤ 8
  none : ∀ x ∈ s.flights, x.2.tid = f.tid → ∀ c, x.2.stage ≠ .fail c

/-- A write is performed at its home slice now: it is on its way, its launch lives (R347), its frame is the one in force, nothing earlier holds it
back, and the entry of a queue that it touches carries the pointer's tag (R176). -/
structure Performs (s : State) (fid : Nat) (f : Flight) : Prop where
  stage : f.stage = .ready
  live : s.stale f.tags = false
  pointed : s.repoint f = .ok f
  clear : s.clear fid f = true
  entry : entryTagOk s f = true

/-- The `n` bytes of a write lie in memory, which is in its canonical form. -/
abbrev Stored (s : State) (f : Flight) (n : Nat) : Prop := Mem.wf s.mem = true ∧ hasFrame f.pa = true ∧ hasFrame (f.pa + n - 1) = true

/-- What a write of an access that has been performed leaves (R154): the bytes of each run are in memory, and every byte outside the runs is as it was; the
WCT of its lane has risen to `w`; of the rest, only the copies of its core may differ, the access itself, and what its lane has seen. -/
structure Wrote (s t : State) (f : Flight) (w : Nat) (runs : List (Nat × List Byte)) : Prop where
  rest : t = { s with mem := t.mem, teams := t.teams, flights := t.flights, cores := t.cores, clusters := t.clusters }
  bytes : ∀ r ∈ runs, Mem.read t.mem r.1 r.2.length = r.2
  outside : ∀ a, (∀ r ∈ runs, a < r.1 ∨ r.1 + r.2.length ≤ a) → Mem.get t.mem a = Mem.get s.mem a
  lane : ∀ l, s.lane f.tid f.lid = some l → ∃ m, t.lane f.tid f.lid = some m ∧ m = { l with wct := max l.wct w, seen := m.seen }
  lanes : ∀ q k, (q, k) ≠ (f.tid, f.lid) → t.lane q k = s.lane q k

/-- No watch slot of the group's context is set (R433). -/
abbrev NoSlots (s : State) (w : WordCtx) : Prop := (s.dbgOf w.grid.ctx).slots = []

/-- No command of the lane on the object that a handle names is still to step: the lane's acts on it follow those commands (R226). -/
abbrev NoneOwed (s : State) (w : WordCtx) (e : Ent) (h : Word) : Prop := s.holeOwed w.group.tid e.lid h s.ids = false

/-- A handle names a live pigeonhole of the group's context, and an act of the lane on it takes place at once: none of the lane's commands comes before
it, and it is the team's own, or the team stands at the frontier (R224, R226, R246). -/
abbrev Names (s : State) (w : WordCtx) (e : Ent) (h : Word) (p : Pigeon) : Prop :=
  NoneOwed s w e h ∧ s.named w.group.tid w.core w.grid.ctx h = some p ∧ (1 ≤ p.scope → AtFront s w)

/-- A pointer's page has a leaf of the fabric, whose endpoint has a route that is up (R407, R410). -/
structure LeavesPackage (s : State) (w : WordCtx) (acc : Acc) (ptr : DWord) (n leaf : Nat) (big : Bool) : Prop where
  outside : s.window w.grid.ctx (eaVa ptr) = none
  maps : (translate s (clusterOf w.core) w.grid.ctx ptr.toNat acc n).1 = .fail 2 (some (leaf, big))
  bus : (translate s (clusterOf w.core) w.grid.ctx ptr.toNat acc n).2.bus = none
  up : s.routeUp (dieOf w.core) (fld leaf 42 10) = true

/-- A lane's request on its way to the endpoint of a leaf of the fabric: the access that waits for the answer, and the request (R407). -/
def Asks (s : State) (w : WordCtx) (e : Ent) (i : Instr) (kind : FKind) (acc : Acc) (ptr : DWord) (n leaf : Nat) (ask : FabKind) (tag : Option FabTag)
    (d : Nat) : State :=
  sendReq (launch (translated s w acc ptr n) { flightOf s w e i kind ptr with leaf := BitVec.ofNat 64 leaf, d := d, stage := .ready })
    (dieOf w.core) (fld leaf 42 10)
    { src := s.epid (dieOf w.core), entry := BitVec.ofNat 12 (fld leaf 30 12), key := BitVec.ofNat 14 (fld leaf 16 14), off := ptr.extractLsb' 0 28,
      kind := ask, tag := tag } (.lane s.ids)

/-- An access of `n` bytes of a command, which crosses no 4 KiB boundary, reaches memory that is not versioned, through a leaf that its cluster's TLB
holds: it lies outside the dead-letter window, no service of its page is pending, and the leaf allows the access (R172, R173, R179, R476). -/
structure Touches (s : State) (c : Cmd) (acc : Acc) (ptr n pa leaf : Nat) : Prop where
  within : 0 < n ∧ fld ptr 0 56 % 4096 + n ≤ 4096 ∧ pa % 4096 = fld ptr 0 56 % 4096
  outside : s.window c.tags.ctx (fld ptr 0 56) = none
  maps : ∃ big, translateOr s (clusterOf c.tags.core) c.tags.ctx ptr acc n = (.ok pa leaf big, s)
  plain : leafVersioned leaf = false
  frame : hasFrame pa = true ∧ hasFrame (pa + n - 1) = true

/-- A command whose next step is performed whole: it runs and waits for nothing, its launch lives, and neither are reads performed before the step nor
writes after it. -/
structure Steps (s : State) (cid : Nat) (c : Cmd) : Prop where
  here : s.cmd cid = some c
  may : s.mayStep cid c = true
  live : s.stale c.tags = false
  whole : c.early = [] ∧ c.lag = none ∧ c.late = []
  bus : s.bus = none

/-- The command after a step that is not its last. -/
def stepped (c : Cmd) : Cmd :=
  { c with
    step := c.step + 1, held := false, full := false, page := none, refused := none, keep := [], edge := none, counted := [], lag := none
    early := if c.cls = 4 then c.early else [] }

/-- The command after its last step. -/
def finished (c : Cmd) (detail : Nat) : Cmd := { c with st := .ended (statusWord 0 c.cls detail) false }

/-- Where a form traps on its operands, at place 8 of R56: in every group of one lane `e` that executes it inside a clause, where `why` gives a code and
an info word, the lane's act is that trap, with nothing else of the word. -/
def TrapsAs (i : Instr) (why : State → WordCtx → Ent → Val → Val → Val → Option (Nat × Word)) : Prop :=
  ∀ s w e x y z c n, Alone s w i e x y z → NoneFailed s w → s.couriers = [] → (∀ f ∈ s.flights, f.1 < s.ids) → why s w e x y z = some (c, n) →
    exec i s = .next (afterTraps s w i [(e, .trap c n)])

/-- A word of an engine command, in a group of one lane: a poisoned A or B is consumed, and a block that is not in the pad traps (R14); else the command
enters its core's queue with the operands of the word, and D is owed its status (R13, R15). A word of an irrevocable command needs the frontier (R348). -/
def Queues (i : Instr) (d : Code) (parks : Bool) : Prop :=
  TrapsAs i (fun _ w _ x y _ => (consumed i.uses [(.A, x), (.B, y)]).or (if x.lo.toNat % 64 ≠ 0 ∨ w.team.padb < x.lo.toNat + 64 then some (7, x.lo) else none))
  ∧ Does i (fun s w _ x y _ => x.poison = false ∧ y.poison = false ∧ x.lo.toNat % 64 = 0 ∧ x.lo.toNat + 64 ≤ w.team.padb
      ∧ s.queued w.core < 64 ∧ (parks = true → AtFront s w))
    (fun s w e x y _ => (.upd (e.lane.owe d.toNat false s.ids false), { s with
      ids := s.ids + 1
      cmds := Tab.put s.ids { instr := i, tid := w.group.tid, lid := e.lid, tags := s.tagsOf w.core w.team, h := w.group.h, slot := w.group.slot,
                              d := d.toNat, aoff := x.lo.toNat, b := y.lo, spec := s.isSpec w.team.lseq } s.cmds }))

/-- The state in which a scheduler has chosen the group of its next word (R73). -/
def issuing (s : State) (core k : Nat) (g : Group) : State :=
  { s.modSched core k (fun x => { x with
      issued := s.cyc + 1, issuedFor := (s.team g.tid).bind (fun t => (s.task t.lseq).map (fun u => (t.lseq, u.launch))), wasted := false }) with
    cur := ⟨core, g.gid⟩ }

/-- The state in which that word is executed: neither its group nor its scheduler issues again before the cycles that the word takes have passed (R73,
R118). -/
def running (s : State) (core k : Nat) (g : Group) (i : Instr) : State :=
  (issuing s core k g).modSched core k (fun x => { x with issued := s.cyc + busyFor i, groups := x.groups.map (fun q => if q.gid = g.gid then
    { q with busy := s.cyc + busyFor i, since := s.cyc + busyFor i, slow := decide (2 ≤ i.cls.getD 0) } else q) })

/-- A scheduler that has not issued in this cycle issues for group `g`: one of a plain entry whose context has no watch slots. `w` is the group with its
team and grid. -/
structure Issues (s : State) (core k : Nat) (g : Group) (w : WordCtx) : Prop where
  turn : (s.sched core k).issued ≤ s.cyc
  pick : pickGroup s core k = some g
  plain : g.entry = false
  slots : ∀ t, s.team g.tid = some t → (s.dbgOf (s.ctxOf t)).slots = []
  ctx : (issuing s core k g).wordCtx = some w

/-- The magnitude of a code of a format, in units of its smallest subnormal (R105). -/
def fmtUnits (f : FFmt) (c : Nat) : Nat := if c / 2 ^ f.mb = 0 then c else (2 ^ f.mb + c % 2 ^ f.mb) * 2 ^ (c / 2 ^ f.mb - 1)

/-- Code `c` is a magnitude rounded in a mode (R109, R110); the code after the largest finite one stands for every magnitude that overflows. `cmp k`
compares `k` halves of the smallest subnormal with the magnitude, and `neg` is its sign. -/
def RoundsTo (f : FFmt) (rm : RMode) (neg : Bool) (cmp : Nat → Ordering) (c : Nat) : Prop :=
  let nearest := (c = 0 ∨ cmp (fmtUnits f (c - 1) + fmtUnits f c) = .lt ∨ (c % 2 = 0 ∧ cmp (fmtUnits f (c - 1) + fmtUnits f c) = .eq))
    ∧ (c = f.big + 1 ∨ cmp (fmtUnits f c + fmtUnits f (c + 1)) = .gt ∨ (c % 2 = 0 ∧ cmp (fmtUnits f c + fmtUnits f (c + 1)) = .eq))
  let down := c ≤ f.big ∧ cmp (2 * fmtUnits f c) ≠ .gt ∧ (c = f.big ∨ cmp (2 * fmtUnits f (c + 1)) = .gt)
  let up := (c = f.big + 1 ∨ cmp (2 * fmtUnits f c) ≠ .lt) ∧ (c = 0 ∨ cmp (2 * fmtUnits f (c - 1)) = .lt)
  c ≤ f.big + 1 ∧ (match rm with
    | .rn => nearest
    | .rz => down
    | .rd => if neg then up else down
    | .ru => if neg then down else up)

/-- The comparison with the magnitude p / q · 2^u. -/
def ratio (f : FFmt) (p q : Nat) (u : Int) (k : Nat) : Ordering := compare (k * q * 2 ^ (f.emin - u).toNat) (2 * p * 2 ^ (u - f.emin).toNat)

/-- The code `v` of an IEEE format holds a magnitude rounded in a mode, with SAT (R110, R112). -/
def HoldsRounded (f : FFmt) (rm : RMode) (sat neg : Bool) (cmp : Nat → Ordering) (v : Nat) : Prop :=
  ∃ c, RoundsTo f rm neg cmp c ∧ v = f.sign neg + (if sat = true ∧ c = f.infCode then f.big else c)

/-- An integer in place of a magnitude in a rounding mode (R124): the magnitude is p / q. -/
def RoundsInt (rm : RMode) (neg : Bool) (p q h : Nat) : Prop :=
  let down := h * q ≤ p ∧ p < (h + 1) * q
  let up := p ≤ h * q ∧ h * q < p + q
  match rm with
  | .rn => 2 * h * q ≤ 2 * p + q ∧ 2 * p ≤ 2 * h * q + q ∧ ((2 * p + q = 2 * h * q ∨ 2 * p = 2 * h * q + q) → h % 2 = 0)
  | .rz => down
  | .rd => if neg then up else down
  | .ru => if neg then down else up

/-- The clamp of R82: the nearest integer that `n` bits hold, without a sign if `u`. -/
def clamp (n : Nat) (u : Bool) (t : Int) : Int :=
  max (if u then 0 else -2 ^ (n - 1)) (min t (if u then 2 ^ n - 1 else 2 ^ (n - 1) - 1))

/-- The result of R82: `t`, clamped if `sat`, modulo 2^n. -/
def fit (n : Nat) (sat u : Bool) (t : Int) : BitVec n := BitVec.ofInt n (if sat then clamp n u t else t)

end Sys2Proof
end

