-- ==== Sys2Proof/Laws/Words.lean ====
section
/-! SUPPORT. Laws/Words.lean: what a word of a group does, once for every word: the end of a meaning, the executing group, the settling of the
lanes' acts. -/

namespace Sys2Proof.Machine

open Sys2Proof

/-- A meaning that touches no absent address goes on. -/
theorem finish_next {s : State} (h : s.bus = none) : finish s = .next s := by
  unfold finish; rw [h]

/-- A meaning that goes on touched no absent address, and ends in the state that it computed. -/
theorem finish_eq_next {s t : State} (h : finish s = .next t) : s = t ∧ t.bus = none := by
  unfold finish at h
  split at h
  · next hb => cases h; exact ⟨rfl, hb⟩
  · cases h

theorem firstSome_mem {α β : Type} (f : α → Option β) (l : List α) (y : β) (h : firstSome f l = some y) : ∃ x ∈ l, f x = some y := by
  induction l with
  | nil => cases h
  | cons x t ih =>
    simp only [firstSome] at h
    split at h
    · next z hz => cases h; exact ⟨x, by simp, hz⟩
    · obtain ⟨u, hu, hf⟩ := ih h
      exact ⟨u, by simp [hu], hf⟩

/-- The executing group's team and grid are those of the state, and the group is one of its core's. -/
theorem wordCtx_spec {s : State} {w : WordCtx} (h : s.wordCtx = some w) :
    s.team w.group.tid = some w.team ∧ s.grid w.team.lseq = some w.grid ∧ w.core = s.cur.core
      ∧ w.group ∈ (s.sched w.core w.sched).groups ∧ w.group.gid = s.cur.gid := by
  unfold State.wordCtx at h
  obtain ⟨k, -, hk⟩ := firstSome_mem _ _ _ h
  obtain ⟨g, hg, hf⟩ := firstSome_mem _ _ _ hk
  split at hf
  · next hgid =>
    split at hf
    · next t ht =>
      cases hgr : s.grid t.lseq with
      | none => simp [hgr] at hf
      | some gr =>
        simp only [hgr, Option.map_some, Option.some.injEq] at hf
        subst hf
        exact ⟨ht, hgr, rfl, hg, hgid⟩
    · cases hf
  · cases hf

theorem foldl_keep {α β : Type} (f : α → β → α) (l : List β) (x : α) (h : ∀ y ∈ l, ∀ z, f z y = z) : l.foldl f x = x := by
  induction l generalizing x with
  | nil => rfl
  | cons y t ih =>
    simp only [List.foldl_cons]
    rw [h y (by simp)]
    exact ih x (fun z hz => h z (by simp [hz]))

/-- A field that no step of a fold changes. -/
theorem foldl_field {α β γ : Type} (g : α → γ) (f : α → β → α) (h : ∀ z y, g (f z y) = g z) (l : List β) (z : α) : g (l.foldl f z) = g z := by
  induction l generalizing z with
  | nil => rfl
  | cons y t ih => rw [List.foldl_cons, ih, h]

/-- No act of a list is a trap. -/
def NoTraps (acts : List (Ent × Act)) : Prop := ∀ e ∈ acts, ∀ code info, e.2 ≠ .trap code info

/-- Settling a word whose acts are no traps: the state after the word, and at the end of a clause what follows from it. -/
theorem settle_ready {s : State} {w : WordCtx} {i : Instr} {acts : List (Ent × Act)} {t : Team} (hits : s.hits = [])
    (hteam : s.team w.group.tid = some t) (hbat : t.batonMove = none) (hstep : ∀ e ∈ acts, e.1.lane.stepping = none) (htrap : NoTraps acts) :
    settle s w i acts = if w.group.slot < hdrCount w.group.hdr then afterWord s w i acts
      else clauseEnd (afterWord s w i acts) w (((acts.filter (fun e => e.2.goesOn)).map (fun e => (e.1.slot, e.1.lid))).filter (fun e =>
        match (afterWord s w i acts).team w.group.tid with
        | some t => (nth {} t.lanes e.2).free
        | none => false) |>.map Prod.snd) := by
  have keep : ∀ (f : State → Ent × Act → State) (z : State), (∀ y ∈ acts, ∀ z, f z y = z) → acts.foldl f z = z :=
    fun f z h => foldl_keep f acts z h
  have hslot : (fun (g : Group) => if g.gid = w.group.gid then
        ({ g with lanes := (acts.filter (fun e => e.2.goesOn)).map (fun e => (e.1.slot, e.1.lid)), slot :=
           (if !decide (w.group.slot < hdrCount w.group.hdr) then g.slot else g.slot + 1), entry := false } : Group) else g)
      = (fun (g : Group) => if g.gid = w.group.gid then
        ({ g with lanes := (acts.filter (fun e => e.2.goesOn)).map (fun e => (e.1.slot, e.1.lid)), slot :=
           (if w.group.slot < hdrCount w.group.hdr then g.slot + 1 else g.slot), entry := false } : Group) else g) := by
    funext g
    by_cases h : w.group.slot < hdrCount w.group.hdr <;> simp [h]
  unfold settle
  dsimp only
  rw [keep _ _ (fun y hy z => by simp [hstep y hy]), keep _ _ (fun y hy z => by
    have := htrap y hy
    cases hy2 : y.2 <;> simp_all)]
  have h3 : ∀ z : State, z.hits = [] → settleHits z = z := by
    intro z hz
    simp [settleHits, hz]
  rw [h3 _ (by simpa using hits), hslot]
  by_cases h : w.group.slot < hdrCount w.group.hdr
  · simp only [h, decide_true, Bool.not_true, Bool.false_eq_true, if_false, if_true]
    unfold batonCheck
    have hfind : Tab.find w.group.tid s.teams = some t := hteam
    simp [afterWord, State.team, modTeam_teams, tab_find_upd_same, hfind, hbat, h]
  · simp only [afterWord, h, decide_false, Bool.not_false, if_false, if_true] <;> rfl

/-- Settling a word inside a clause changes the lanes, the scalar writes that wait, and the group. -/
theorem settle_inside {s : State} {w : WordCtx} {i : Instr} {acts : List (Ent × Act)} {t : Team} (hits : s.hits = [])
    (hteam : s.team w.group.tid = some t) (hbat : t.batonMove = none) (hslot : w.group.slot < hdrCount w.group.hdr)
    (hstep : ∀ e ∈ acts, e.1.lane.stepping = none) (htrap : NoTraps acts) : settle s w i acts = afterWord s w i acts := by
  rw [settle_ready hits hteam hbat hstep htrap, if_pos hslot]

/-- Lanes that something holds are not filed. -/
theorem fileLanes_filter {s : State} {tid : Nat} {t : Team} (h : s.team tid = some t) (lids : List Nat) :
    fileLanes s tid (lids.filter (fun lid => (nth {} t.lanes lid).free)) = fileLanes s tid lids := by
  unfold fileLanes
  simp only [h, List.filter_filter, Bool.and_self]

/-- The lanes that go on, among those of a team. -/
theorem goers_eq {s : State} {w : WordCtx} {i : Instr} {acts : List (Ent × Act)} {t : Team} (h : (afterWord s w i acts).team w.group.tid = some t) :
    goers s w i acts = (((acts.filter (fun e => e.2.goesOn)).map (fun e => (e.1.slot, e.1.lid))).filter (fun e => (nth {} t.lanes e.2).free)).map Prod.snd := by
  unfold goers
  rw [List.filter_map, List.filter_map, List.map_map]
  simp only [State.lane, h, Option.map_some, Option.elim]
  rfl

/-- The conditions of R70, in one. -/
theorem continues_iff {s : State} {w : WordCtx} {i : Instr} {acts : List (Ent × Act)} {t : Team} (h : (afterWord s w i acts).team w.group.tid = some t) :
    continues (afterWord s w i acts) w ((goers s w i acts).map (nth {} t.lanes)) = true ↔ ∃ h j, Continues s w i acts h j := by
  have hl : ∀ lid, (afterWord s w i acts).lane w.group.tid lid = some (nth {} t.lanes lid) := by
    intro lid; simp [State.lane, h]
  have hc : (afterWord s w i acts).cyc = s.cyc := by simp [afterWord]
  unfold continues
  rw [hc]
  constructor
  · intro hb
    simp only [Bool.and_eq_true, Bool.not_eq_true', List.any_eq_false, decide_eq_true_eq, Bool.or_eq_true] at hb
    obtain ⟨⟨⟨⟨⟨⟨h1, h2⟩, h3⟩, h4⟩, h5⟩, h6⟩, h7⟩ := hb
    cases hg : goers s w i acts with
    | nil => rw [hg] at h1; simp at h1
    | cons x r =>
      refine ⟨(nth {} t.lanes x).h, (nth {} t.lanes x).slot, by simp [hg], ?_, h2, h3, ?_, ?_, ?_, h7⟩
      · intro lid hm l hlid
        rw [hl] at hlid; cases hlid
        rw [hg] at hm h1
        rcases List.mem_cons.mp hm with rfl | hm
        · exact ⟨rfl, rfl⟩
        · simp only [List.map_cons, List.all_eq_true, Bool.and_eq_true, beq_iff_eq, List.mem_map, forall_exists_index, and_imp,
            forall_apply_eq_imp_iff₂] at h1
          exact h1 lid hm
      · intro b hb; simpa using h4 b hb
      · intro g hgm htid
        have := h5 g hgm
        simp [htid] at this
        exact this
      · intro b hb; have := h6 b hb; omega
  · rintro ⟨h, j, hc⟩
    simp only [Bool.and_eq_true, Bool.not_eq_true', List.any_eq_false, decide_eq_true_eq, Bool.or_eq_true]
    refine ⟨⟨⟨⟨⟨⟨?_, hc.reform⟩, hc.plain⟩, ?_⟩, ?_⟩, ?_⟩, hc.yields⟩
    · cases hg : goers s w i acts with
      | nil => exact absurd hg hc.lanes
      | cons x r =>
        have hx := hc.same x (by simp [hg]) _ (hl x)
        simp only [List.map_cons, List.all_eq_true, Bool.and_eq_true, beq_iff_eq, List.mem_map, forall_exists_index, and_imp,
            forall_apply_eq_imp_iff₂]
        intro y hy
        have := hc.same y (by simp [hg, hy]) _ (hl y)
        exact ⟨this.1.trans hx.1.symm, this.2.trans hx.2.symm⟩
    · intro b hb; simpa using hc.unfiled b hb
    · intro g hg; by_cases htid : g.tid = w.group.tid
      · simp [hc.alone g hg htid]
      · simp [htid]
    · intro b hb; have := hc.fed b hb; omega

/-- Settling the last word of a clause: the group dissolves, or enters the clause into which it continues. -/
theorem settle_ends {s : State} {w : WordCtx} {i : Instr} {acts : List (Ent × Act)} {t : Team} (hits : s.hits = [])
    (hteam : s.team w.group.tid = some t) (hbat : t.batonMove = none) (hslot : ¬ w.group.slot < hdrCount w.group.hdr)
    (hstep : ∀ e ∈ acts, e.1.lane.stepping = none) (htrap : NoTraps acts) :
    (Dissolves s w i acts → settle s w i acts = afterLast s w i acts)
      ∧ ∀ h j, Continues s w i acts h j → settle s w i acts = entered s w i acts h j := by
  rw [settle_ready hits hteam hbat hstep htrap, if_neg hslot]
  have hfind : Tab.find w.group.tid s.teams = some t := hteam
  have hA : (afterWord s w i acts).team w.group.tid = some { t with
      lanes := settleLanes w.group (destOf i) acts 0 t.lanes, pendScal := t.pendScal ++ scalarWrites i w.sched acts } := by
    simp [afterWord, State.team, modTeam_teams, tab_find_upd_same, hfind]
  have hT : (leftClause s w i acts).team w.group.tid = some { t with
      lanes := settleLanes w.group (destOf i) acts 0 t.lanes, pendScal := t.pendScal ++ scalarWrites i w.sched acts } := by
    rw [← hA]; simp [leftClause, State.team]
  have hb : batonCheck (leftClause s w i acts) w.group.tid = leftClause s w i acts := by
    unfold batonCheck
    rw [hT]
    simp only [hbat]
  have hgo := goers_eq hA
  simp only [hA]
  rw [← hgo]
  unfold clauseEnd
  simp only [hA]
  have hb' : batonCheck ((afterWord s w i acts).modSched w.core w.sched (fun x => { x with groups := x.groups.filter (fun g => g.gid != w.group.gid) }))
      w.group.tid = leftClause s w i acts := hb
  simp only [hb']
  have hiff := continues_iff hA
  constructor
  · intro hd
    have hn : continues (afterWord s w i acts) w ((goers s w i acts).map (nth {} (settleLanes w.group (destOf i) acts 0 t.lanes))) = false := by
      by_contra hc
      obtain ⟨h, j, hh⟩ := hiff.mp (by simpa using hc)
      exact hd h j hh
    rw [if_neg (by simpa using hn)]
    unfold afterLast
    rw [← fileLanes_filter hT ((acts.filter (fun e => e.2.goesOn)).map (fun e => e.1.lid)), hgo]
    congr 1
    rw [List.filter_map, List.filter_map, List.map_map]
    rfl
  · intro h j hc
    rw [if_pos (hiff.mpr ⟨h, j, hc⟩)]
    unfold entered
    cases hg : goers s w i acts with
    | nil => exact absurd hg hc.lanes
    | cons x r =>
      have hx := hc.same x (by simp [hg]) (nth {} (settleLanes w.group (destOf i) acts 0 t.lanes) x) (by simp [State.lane, hA])
      simp only [List.map_cons, hx.1, hx.2]

/-! ### The lanes after a word -/

theorem nth_settleLanes (g : Group) (d : Option OpUse) (acts : List (Ent × Act)) (k n : Nat) (ls : List Lane) (h : n < ls.length) :
    nth {} (settleLanes g d acts k ls) n = (match actFor acts (k + n) with
      | some a => a.onLane g d (nth {} ls n)
      | none => nth {} ls n) := by
  induction ls generalizing k n with
  | nil => simp at h
  | cons l t ih =>
    cases n with
    | zero => rfl
    | succ n =>
      have := ih (k + 1) n (by simpa using h)
      simp only [settleLanes, nth]
      rw [this]
      have hk : k + 1 + n = k + (n + 1) := by omega
      rw [hk]

theorem actFor_none {acts : List (Ent × Act)} {lid : Nat} (h : ∀ e ∈ acts, e.1.lid ≠ lid) : actFor acts lid = none := by
  unfold actFor
  induction acts with
  | nil => rfl
  | cons x t ih =>
    simp only [firstSome]
    rw [if_neg (h x (by simp))]
    exact ih (fun e he => h e (by simp [he]))

theorem actFor_mem {acts : List (Ent × Act)} {e : Ent} {a : Act} (h : (e, a) ∈ acts) (hn : (acts.map (fun x => x.1.lid)).Nodup) :
    actFor acts e.lid = some a := by
  unfold actFor
  induction acts with
  | nil => cases h
  | cons x t ih =>
    simp only [List.map_cons, List.nodup_cons] at hn
    simp only [firstSome]
    rcases List.mem_cons.mp h with rfl | h
    · simp
    · have hne : x.1.lid ≠ e.lid := by
        intro heq
        apply hn.1
        rw [heq]
        exact List.mem_map.mpr ⟨(e, a), h, rfl⟩
      rw [if_neg hne]
      exact ih h hn.2

theorem length_settleLanes (g : Group) (d : Option OpUse) (acts : List (Ent × Act)) (k : Nat) (ls : List Lane) :
    (settleLanes g d acts k ls).length = ls.length := by
  induction ls generalizing k with
  | nil => rfl
  | cons l t ih => simp [settleLanes, ih]

theorem afterWord_team {s : State} {w : WordCtx} {i : Instr} {acts : List (Ent × Act)} (h : s.team w.group.tid = some w.team) :
    (afterWord s w i acts).team w.group.tid = some { w.team with
      lanes := settleLanes w.group (destOf i) acts 0 w.team.lanes, pendScal := w.team.pendScal ++ scalarWrites i w.sched acts } := by
  have hf : Tab.find w.group.tid s.teams = some w.team := h
  simp [afterWord, State.team, modTeam_teams, tab_find_upd_same, hf]

/-- The lane of an act, after the word. -/
theorem afterWord_lane {s : State} {w : WordCtx} {i : Instr} {acts : List (Ent × Act)} {e : Ent} {a : Act}
    (h : s.team w.group.tid = some w.team) (hm : (e, a) ∈ acts) (hn : (acts.map (fun x => x.1.lid)).Nodup) (hl : e.lid < w.team.lanes.length) :
    (afterWord s w i acts).lane w.group.tid e.lid = some (a.onLane w.group (destOf i) (nth {} w.team.lanes e.lid)) := by
  simp only [State.lane, afterWord_team h, Option.map_some, nth_settleLanes _ _ _ _ _ _ hl, Nat.zero_add, actFor_mem hm hn]

theorem nth_beyond {α : Type} (d : α) (l : List α) (n : Nat) (h : l.length ≤ n) : nth d l n = d := by
  induction l generalizing n with
  | nil => rfl
  | cons x t ih => cases n with
    | zero => simp at h
    | succ n => simpa [nth] using ih n (by simpa using h)

/-- A word of a group leaves everything but its lanes, the scalar writes that wait, and the schedulers. -/
theorem afterWord_lanesOnly {s : State} {w : WordCtx} {i : Instr} {acts : List (Ent × Act)} (h : s.team w.group.tid = some w.team)
    (ha : acts.map Prod.fst = w.ents) : LanesOnly s (afterWord s w i acts) w where
  rest := rfl
  scheds := ⟨_, rfl⟩
  others := by
    intro tid ht
    simp [afterWord, State.team, modTeam_teams, tab_find_upd_other _ _ _ _ ht]
  own := ⟨_, _, afterWord_team h⟩
  outside := by
    intro lid hl
    have hn : actFor acts lid = none := by
      apply actFor_none
      intro e he heq
      have : e.1 ∈ w.ents := by rw [← ha]; exact List.mem_map.mpr ⟨e, he, rfl⟩
      simp only [WordCtx.ents, List.mem_map] at this
      obtain ⟨p, hp, hpe⟩ := this
      apply hl p hp
      rw [← heq, ← hpe]
    simp only [State.lane, afterWord_team h, h, Option.map_some]
    by_cases hlt : lid < w.team.lanes.length
    · simp only [nth_settleLanes _ _ _ _ _ _ hlt, Nat.zero_add, hn]
    · rw [nth_beyond _ _ _ (by rw [length_settleLanes]; omega), nth_beyond _ _ _ (by omega)]

theorem ents_lids (w : WordCtx) : w.ents.map Ent.lid = w.group.lanes.map Prod.snd := by
  simp [WordCtx.ents, List.map_map, Function.comp_def]

theorem ents_lane {w : WordCtx} {e : Ent} (h : e ∈ w.ents) : e.lane = nth {} w.team.lanes e.lid := by
  simp only [WordCtx.ents, List.mem_map] at h
  obtain ⟨p, -, rfl⟩ := h
  rfl

theorem ents_within {s : State} {w : WordCtx} (hr : Ready s w) {e : Ent} (h : e ∈ w.ents) : e.lid < w.team.lanes.length := by
  simp only [WordCtx.ents, List.mem_map] at h
  obtain ⟨p, hp, rfl⟩ := h
  exact hr.within p hp

/-- The act of a lane in a word whose acts depend on the state before it alone. -/
def crossAct (s : State) (w : WordCtx) (i : Instr) (f : WordCtx → List Exe → Ent → Val → Val → Val → Act) (e : Ent) : Act :=
  match gate s w i e with
  | .go a b c => scalarPoison i a b c ((readLanes i (executing s w i) e b).map (fun x => (x.a, x.b, x.c))) (f w (executing s w i) e a b c)
  | .off => .off
  | .trap c n => .trap c n
  | .block rs => .block (.regs rs)

/-! ### Words some of whose lanes trap -/

/-- Nothing of a team waits for the end of a word: no firing, no absent address, no move of its baton. -/
structure Quiet (s : State) (tid : Nat) : Prop where
  bus : s.bus = none
  hits : s.hits = []
  move : ∀ t, s.team tid = some t → t.batonMove = none

/-- A change that leaves the team, the firings and the bus. -/
theorem Quiet.of_eq {s t : State} {tid : Nat} (h : Quiet s tid) (hb : t.bus = s.bus) (hh : t.hits = s.hits) (ht : t.teams = s.teams) : Quiet t tid :=
  ⟨hb.trans h.bus, hh.trans h.hits, fun u hu => h.move u (by rw [← hu]; simp [State.team, ht])⟩

theorem Quiet.modTeam {s : State} {tid : Nat} (h : Quiet s tid) (k : Nat) (f : Team → Team) (hf : ∀ t, (f t).batonMove = t.batonMove) : Quiet (s.modTeam k f) tid := by
  refine ⟨h.bus, h.hits, fun u hu => ?_⟩
  by_cases he : tid = k
  · subst he
    cases hs : Tab.find tid s.teams with
    | none => simp [State.team, modTeam_teams, tab_find_upd_same, hs] at hu
    | some t =>
      simp [State.team, modTeam_teams, tab_find_upd_same, hs] at hu
      rw [← hu, hf]; exact h.move t hs
  · exact h.move u (by rw [← hu]; simp [State.team, modTeam_teams, tab_find_upd_other _ _ _ _ he])

theorem Quiet.modLane {s : State} {tid : Nat} (h : Quiet s tid) (k lid : Nat) (f : Lane → Lane) : Quiet (s.modLane k lid f) tid :=
  h.modTeam _ _ (fun _ => rfl)

theorem batonCheck_quiet {s : State} {tid : Nat} (h : Quiet s tid) : batonCheck s tid = s := by
  unfold batonCheck
  cases ht : s.team tid with
  | none => rfl
  | some t => simp [h.move t ht]

theorem Quiet.unplace {s : State} {tid : Nat} (h : Quiet s tid) (lids : List Nat) : Quiet (unplace s tid lids) tid := by
  unfold Machine.unplace
  split
  · exact h
  split
  · exact h
  · next t _ _ c _ _ =>
    have hq : Quiet (s.modCore c (fun x => { x with scheds := x.scheds.map (fun q =>
        if t.traps.any (fun p => lids.contains p.lid) then ((q.ungroup tid lids).unfile tid lids).dropEntries tid
        else (q.ungroup tid lids).unfile tid lids) })) tid := h.of_eq rfl rfl rfl
    dsimp only
    rw [batonCheck_quiet hq]; exact hq

theorem Quiet.postTrace {s : State} {tid : Nat} (h : Quiet s tid) (k c : Nat) (a : Bool) (r : BitVec 256) : Quiet (postTrace s k c a r) tid := by
  unfold Machine.postTrace
  split
  · split <;> exact h.of_eq rfl rfl rfl
  · exact h

theorem Quiet.laneTrace {s : State} {tid : Nat} (h : Quiet s tid) (k lid kind data info : Nat) : Quiet (laneTrace s k lid kind data info) tid := by
  unfold Machine.laneTrace
  split
  · exact h
  · exact h.postTrace _ _ _ _

theorem Quiet.stepAnswer {s : State} {tid : Nat} (h : Quiet s tid) (l : Lane) (n : Nat) : Quiet (stepAnswer s l n) tid := by
  unfold Machine.stepAnswer
  split
  · exact h
  · exact h.of_eq rfl rfl rfl

theorem Quiet.endStep {s : State} {tid : Nat} (h : Quiet s tid) (lid : Nat) : Quiet (endStep s tid lid) tid := by
  unfold Machine.endStep
  split
  · exact h
  split
  · exact h
  have h1 := (h.unplace [lid]).modLane tid lid (fun l => { l with stepping := none })
  dsimp only
  split
  · exact h1.stepAnswer _ _
  · exact ((h1.modLane tid lid _).laneTrace _ _ _ _ _).stepAnswer _ _

theorem Quiet.ctxFault {s : State} {tid : Nat} (h : Quiet s tid) (c k d : Nat) : Quiet (ctxFault s c k d) tid := by
  unfold Machine.ctxFault
  dsimp only
  split
  · exact h.of_eq rfl rfl rfl
  · exact h

theorem Quiet.foldl {α : Type} {tid : Nat} (f : State → α → State) (hf : ∀ s a, Quiet s tid → Quiet (f s a) tid) (l : List α) {s : State} (h : Quiet s tid) :
    Quiet (l.foldl f s) tid := by
  induction l generalizing s with
  | nil => exact h
  | cons a t ih => exact ih (hf s a h)

theorem Quiet.returnTeam {s : State} {tid : Nat} (h : Quiet s tid) (why : Nat) : Quiet (returnTeam s tid why) tid := by
  unfold Machine.returnTeam
  split
  · exact h
  · next t _ =>
    have h1 := h.unplace (upFrom 0 t.lanes.length)
    have h2 : Quiet { Machine.unplace s tid (upFrom 0 t.lanes.length) with
        pacts := (Machine.unplace s tid (upFrom 0 t.lanes.length)).pacts.filter (fun e => e.2.tid != tid) } tid := ⟨h1.bus, h1.hits, h1.move⟩
    exact Quiet.foldl _ (fun s a h => h.endStep a) _ (h2.modTeam tid _ (fun _ => rfl))

theorem Quiet.deliverTrap {s : State} {tid : Nat} (h : Quiet s tid) (lid : Nat) (tr : TrapRec) : Quiet (deliverTrap s tid lid tr) tid := by
  unfold Machine.deliverTrap
  split
  · exact h
  split
  · exact h
  dsimp only
  have h1 := h.unplace [lid]
  split
  · exact h1
  split
  · exact h1.ctxFault _ _ _
  split
  · exact h1.ctxFault _ _ _
  split
  · exact h1.returnTeam _
  · exact (h1.modTeam tid _ (by intros; rfl)).endStep _

theorem Quiet.raiseTrap {s : State} {tid : Nat} (h : Quiet s tid) (lid : Nat) (tr : TrapRec) : Quiet (raiseTrap s tid lid tr) tid := by
  unfold Machine.raiseTrap
  split
  · exact h
  dsimp only
  split
  · exact h
  split
  · exact h.deliverTrap _ _
  · exact (h.unplace _).modLane _ _ _

/-- Settling a word inside a clause: the state after the word, and then its traps. -/
theorem settle_traps {s : State} {w : WordCtx} {i : Instr} {acts : List (Ent × Act)} (h : Quiet s w.group.tid) (hslot : w.group.slot < hdrCount w.group.hdr)
    (hstep : ∀ e ∈ acts, e.1.lane.stepping = none) : settle s w i acts = afterTraps s w i acts ∧ Quiet (afterTraps s w i acts) w.group.tid := by
  have hA : Quiet (afterWord s w i acts) w.group.tid := (h.modTeam w.group.tid _ (by intros; rfl)).of_eq rfl rfl rfl
  have hq : Quiet (afterTraps s w i acts) w.group.tid := by
    unfold afterTraps
    apply Quiet.foldl _ _ _ hA
    intro s a hs
    cases a.2 <;> first | exact hs | exact hs.raiseTrap _ _
  refine ⟨?_, hq⟩
  have hslot' : (fun (g : Group) => if g.gid = w.group.gid then
        ({ g with lanes := (acts.filter (fun e => e.2.goesOn)).map (fun e => (e.1.slot, e.1.lid)), slot :=
           (if !decide (w.group.slot < hdrCount w.group.hdr) then g.slot else g.slot + 1), entry := false } : Group) else g)
      = (fun (g : Group) => if g.gid = w.group.gid then
        ({ g with lanes := (acts.filter (fun e => e.2.goesOn)).map (fun e => (e.1.slot, e.1.lid)), slot :=
           (if w.group.slot < hdrCount w.group.hdr then g.slot + 1 else g.slot), entry := false } : Group) else g) := by
    funext g
    simp [hslot]
  unfold settle
  dsimp only
  rw [hslot', if_neg (by simp [hslot])]
  show batonCheck (settleHits (List.foldl _ (afterTraps s w i acts) acts)) w.group.tid = _
  rw [foldl_keep _ acts _ (fun y hy z => by simp [hstep y hy])]
  have h3 : settleHits (afterTraps s w i acts) = afterTraps s w i acts := by simp [settleHits, hq.hits]
  rw [h3]
  exact batonCheck_quiet hq

theorem Ready.quiet {s : State} {w : WordCtx} (h : Ready s w) : Quiet s w.group.tid :=
  ⟨h.settled.1, h.settled.2.2, fun t ht => by rw [(wordCtx_spec h.ctx).1] at ht; cases ht; exact h.noMove⟩

/-- A word whose acts depend on the state before it alone, inside a clause: the state after the word, and then its traps. -/
theorem runCross_traps {s : State} {w : WordCtx} {i : Instr} {f : WordCtx → List Exe → Ent → Val → Val → Val → Act} (hs : Inside s w) :
    finish (runCross s i f) = .next (afterTraps s w i (w.ents.map (fun e => (e, crossAct s w i f e)))) := by
  have hrun : runCross s i f = settle s w i (w.ents.map (fun e => (e, crossAct s w i f e))) := by
    unfold runCross
    rw [hs.ctx]
    rfl
  obtain ⟨he, hq⟩ := settle_traps (i := i) (acts := w.ents.map (fun e => (e, crossAct s w i f e))) (Ready.quiet hs.toReady) hs.notLast (by
    intro e he
    obtain ⟨x, hx, rfl⟩ := List.mem_map.mp he
    exact hs.unstepped x hx)
  rw [hrun, he]
  exact finish_next hq.bus

/-- Without traps, the state after the word is all. -/
theorem afterTraps_none {s : State} {w : WordCtx} {i : Instr} {acts : List (Ent × Act)} (h : NoTraps acts) : afterTraps s w i acts = afterWord s w i acts := by
  unfold afterTraps
  apply foldl_keep
  intro y hy z
  have := h y hy
  cases hy2 : y.2 <;> simp_all

/-! ### Groups of one lane -/

/-- The state in which the lane's own effect leaves a team fit for the word to end: no move of a baton waits, no firing, and the team is there. -/
structure Ends (s : State) (w : WordCtx) : Prop where
  bus : s.bus = none
  hits : s.hits = []
  team : ∃ t, s.team w.group.tid = some t ∧ t.batonMove = none

theorem Ready.ends {s : State} {w : WordCtx} (h : Ready s w) : Ends s w :=
  ⟨h.settled.1, h.settled.2.2, _, (wordCtx_spec h.ctx).1, h.noMove⟩

theorem bus_afterWord (s : State) (w : WordCtx) (i : Instr) (acts : List (Ent × Act)) : (afterWord s w i acts).bus = s.bus := by
  simp [afterWord]

theorem bus_fileLanes (s : State) (tid : Nat) (lids : List Nat) : (fileLanes s tid lids).bus = s.bus := by
  unfold fileLanes
  split
  · rfl
  split
  · rfl
  exact foldl_field State.bus _ (by intros; rfl) _ _

theorem bus_afterLast (s : State) (w : WordCtx) (i : Instr) (acts : List (Ent × Act)) : (afterLast s w i acts).bus = s.bus := by
  simp [afterLast, leftClause, bus_fileLanes, bus_afterWord]

/-- A word whose meaning settles acts that are no traps in a state that is fit for the word to end. -/
theorem leavesOn_of {i : Instr} {s u : State} {w : WordCtx} {acts : List (Ent × Act)} (hu : Ends u w) (hstep : ∀ e ∈ acts, e.1.lane.stepping = none)
    (htrap : NoTraps acts) (hexec : exec i s = finish (settle u w i acts)) : LeavesOn i s u w acts where
  inside h := by
    obtain ⟨t, hteam, hbat⟩ := hu.team
    rw [hexec, settle_inside hu.hits hteam hbat h hstep htrap]
    exact finish_next (by rw [bus_afterWord]; exact hu.bus)
  ends h hd := by
    obtain ⟨t, hteam, hbat⟩ := hu.team
    rw [hexec, (settle_ends hu.hits hteam hbat h hstep htrap).1 hd]
    exact finish_next (by rw [bus_afterLast]; exact hu.bus)
  goes h hd j hc hb := by
    obtain ⟨t, hteam, hbat⟩ := hu.team
    rw [hexec, (settle_ends hu.hits hteam hbat h hstep htrap).2 hd j hc]
    exact finish_next hb

/-- A sequential word of one lane. -/
theorem runSeq_single {s : State} {w : WordCtx} {i : Instr} {e : Ent} {a b c : Val} (h : Single s w i e a b c)
    (f : State → WordCtx → Ent → Val → Val → Val → Act × State) :
    runSeq s i f = settle (f s w e a b c).2 w i [(e, scalarPoison i a b c [] (f s w e a b c).1)] := by
  unfold runSeq
  rw [h.ctx]
  simp only [h.one, List.foldl_cons, List.foldl_nil, seqLane, h.runs, List.nil_append]

/-- A cross-lane word of one lane. -/
theorem runCross_single {s : State} {w : WordCtx} {i : Instr} {e : Ent} {a b c : Val} (h : Single s w i e a b c)
    (f : WordCtx → List Exe → Ent → Val → Val → Val → Act) :
    runCross s i f = settle s w i [(e, scalarPoison i a b c ((readLanes i [⟨e, a, b, c⟩] e b).map (fun x => (x.a, x.b, x.c))) (f w [⟨e, a, b, c⟩] e a b c))] := by
  unfold runCross
  rw [h.ctx]
  simp only [executing, h.one, List.map_cons, List.map_nil, List.filterMap_cons, List.filterMap_nil, h.runs]

/-- An act that puts no value into D is not changed by a team-scalar destination. -/
theorem scalarPoison_of_not_put {i : Instr} {a b c : Val} {os : List (Val × Val × Val)} {x : Act} (h : ∀ v, x ≠ .put v) : scalarPoison i a b c os x = x := by
  unfold scalarPoison
  cases x <;> simp_all

/-- A value for a lane register or a predicate is put as it is. -/
theorem scalarPoison_lane {i : Instr} {a b c : Val} {os : List (Val × Val × Val)} {v : Val} (h : LaneDest i) : scalarPoison i a b c os (.put v) = .put v := by
  unfold scalarPoison
  cases hd : destOf i with
  | none => rfl
  | some u => simp [h u hd]

/-- The acts of a group's lanes, one after the other, are what a sequential word settles; `inv` is what every act keeps of the state. -/
theorem runSeq_each {s : State} {w : WordCtx} {i : Instr} {pre : State → WordCtx → Ent → Val → Val → Val → Prop}
    {out f : State → WordCtx → Ent → Val → Val → Val → Act × State} {inv : State → Prop} (hr : Ready s w)
    (h : ∀ u e a b c, inv u → e ∈ w.ents → gate s w i e = .go a b c → pre u w e a b c → f u w e a b c = out u w e a b c ∧ inv (out u w e a b c).2
      ∧ (∀ code info, (out u w e a b c).1 ≠ .trap code info) ∧ (∀ v, (out u w e a b c).1 ≠ .put v))
    {t : State} {acts : List (Ent × Act)} (hs : inv s) (he : Each s w i pre out w.ents s acts t) :
    runSeq s i f = settle t w i acts ∧ inv t ∧ NoTraps acts ∧ ∀ x ∈ acts, x.1.lane.stepping = none := by
  have key : ∀ es u acts t, Each s w i pre out es u acts t → (∀ e ∈ es, e ∈ w.ents) → inv u → ∀ acc : List (Ent × Act),
      es.foldl (seqLane s w i f) (acc, u) = (acc ++ acts, t)
      ∧ inv t ∧ NoTraps acts ∧ ∀ x ∈ acts, x.1 ∈ w.ents := by
    intro es u acts t he
    induction he with
    | done u => intro _ hi acc; exact ⟨by simp, hi, by simp [NoTraps], by simp⟩
    | off e es u t acts hg _ ih =>
      intro hm hi acc
      obtain ⟨h1, h2, h3, h4⟩ := ih (fun x hx => hm x (by simp [hx])) hi (acc ++ [(e, .off)])
      refine ⟨?_, h2, ?_, ?_⟩
      · simp only [List.foldl_cons, seqLane, hg]; rw [h1]; simp
      · intro y hy; rcases List.mem_cons.mp hy with rfl | hy
        · simp
        · exact h3 y hy
      · intro y hy; rcases List.mem_cons.mp hy with rfl | hy
        · exact hm _ (by simp)
        · exact h4 y hy
    | act e es u t acts a b c hg hp _ ih =>
      intro hm hi acc
      obtain ⟨hf, hi', ht, hv⟩ := h u e a b c hi (hm e (by simp)) hg hp
      obtain ⟨h1, h2, h3, h4⟩ := ih (fun x hx => hm x (by simp [hx])) hi' (acc ++ [(e, (out u w e a b c).1)])
      refine ⟨?_, h2, ?_, ?_⟩
      · simp only [List.foldl_cons, seqLane, hg, hf, scalarPoison_of_not_put hv]; rw [h1]; simp
      · intro y hy; rcases List.mem_cons.mp hy with rfl | hy
        · exact ht
        · exact h3 y hy
      · intro y hy; rcases List.mem_cons.mp hy with rfl | hy
        · exact hm _ (by simp)
        · exact h4 y hy
  obtain ⟨h1, h2, h3, h4⟩ := key _ _ _ _ he (fun _ hx => hx) hs []
  refine ⟨?_, h2, h3, fun x hx => hr.unstepped _ (h4 x hx)⟩
  unfold runSeq
  rw [hr.ctx]
  simp only
  rw [h1]
  rfl

/-- No write of the word failed: no record is formed. -/
theorem postWrites_none {s : State} (h : s.wfails = []) (w : WordCtx) (i : Instr) : postWrites s w i = s := by
  unfold postWrites
  simp only [h, List.map_nil, List.filter_nil]
  show ({ s with wfails := [] } : State) = s
  rw [← h]

/-- No access of a team has failed: no record is formed. -/
theorem postLoads_none {s : State} {tid core : Nat} (h : ∀ e ∈ s.flights, e.2.tid = tid → ∀ c, e.2.stage ≠ .fail c) :
    postLoads s tid core = s := by
  unfold postLoads
  dsimp only
  generalize hF : List.flatMap (_ : Nat × Flight → List (Nat × Flight × Nat)) s.flights = F
  have hn : F = [] := by
    rw [← hF, List.flatMap_eq_nil_iff]
    intro e he
    cases hst : e.2.stage <;> simp_all
    intro htid
    exact absurd hst (h _ _ he htid _)
  subst hn
  split <;> rfl

end Sys2Proof.Machine
end

