-- ==== Sys2Proof/Laws/Alu.lean ====
section
/-! SUPPORT. Laws/Alu.lean: words that compute D from their sources. -/

namespace Sys2Proof.Machine

open Sys2Proof

/-- What a word with a value for D makes of it (R78). -/
theorem scalarPoison_put {i : Instr} {a b c v : Val} {os : List (Val × Val × Val)} {u : OpUse} (hu : destOf i = some u) :
    scalarPoison i a b c os (.put v) = if isScal u.code.toNat && v.poison then .trap (scalarTrap i a b c v os).1 (scalarTrap i a b c v os).2 else .put v := by
  unfold scalarPoison
  simp [hu]

theorem firstSome_map {α β γ : Type} (f : β → Option γ) (g : α → β) (l : List α) : firstSome f (l.map g) = firstSome (f ∘ g) l := by
  induction l with
  | nil => rfl
  | cons x t ih => simp [firstSome, ih]

/-- A word that puts `f` of its sources into D in a group inside a clause. -/
theorem puts_of {s : State} {w : WordCtx} {i : Instr} {d : Code} {wide : Bool} {f : List Exe → Ent → Val → Val → Val → Val}
    (g : WordCtx → List Exe → Ent → Val → Val → Val → Act) (hexec : exec i s = finish (runCross s i g)) (u : OpUse)
    (hu : destOf i = some u) (hd : u.code = d) (hw : u.kind.wide = wide) (hin : Inside s w) (hcl : Clear s w i)
    (hg : ∀ e ∈ w.ents, ∀ a b c, gate s w i e = .go a b c → g w (executing s w i) e a b c = .put (f (executing s w i) e a b c)) :
    Puts s w i d wide f := by
  have hteam := (wordCtx_spec hin.ctx).1
  have hacts : w.ents.map (fun e => (e, crossAct s w i g e)) = putActs s w i d f := by
    unfold putActs
    apply List.map_congr_left
    intro e he
    unfold crossAct
    rcases hcl e he with h | ⟨a, b, c, h⟩
    · simp only [h]
    · simp only [h, hg e he a b c h, scalarPoison_put hu, hd]
  have hfst : (putActs s w i d f).map Prod.fst = w.ents := by simp [putActs, List.map_map, Function.comp_def]
  have hlid : ((putActs s w i d f).map (fun x => x.1.lid)).Nodup := by
    have : (putActs s w i d f).map (fun x => x.1.lid) = w.group.lanes.map Prod.snd := by
      rw [← ents_lids]; simp [putActs, List.map_map, Function.comp_def]
    rw [this]; exact hin.nodup
  have hmem : ∀ e ∈ w.ents, ∀ a b c, gate s w i e = .go a b c → (isScal d.toNat && (f (executing s w i) e a b c).poison) = false →
      (e, Act.put (f (executing s w i) e a b c)) ∈ putActs s w i d f := by
    intro e he a b c hgo hp
    exact List.mem_map.mpr ⟨e, he, by simp [hgo, hp]⟩
  have hoff : ∀ e ∈ w.ents, gate s w i e = .off → (e, Act.off) ∈ putActs s w i d f := by
    intro e he ho
    exact List.mem_map.mpr ⟨e, he, by simp [ho]⟩
  have hnt : (∀ e ∈ w.ents, ∀ a b c, gate s w i e = .go a b c → (isScal d.toNat && (f (executing s w i) e a b c).poison) = false) →
      NoTraps (putActs s w i d f) := by
    intro hp y hy code info
    obtain ⟨e, he, rfl⟩ := List.mem_map.mp hy
    rcases hcl e he with h | ⟨a, b, c, h⟩
    · simp [h]
    · simp [h, hp e he a b c h]
  refine ⟨_, by rw [hexec, runCross_traps hin], by rw [hacts], fun hsc => ?_, fun hsc hpo => ?_⟩
  · rw [hacts, afterTraps_none (hnt (by simp [hsc]))]
    refine ⟨afterWord_lanesOnly hteam hfst, fun e he => ⟨fun a b c hgo => ?_, fun ho => ?_⟩⟩
    · rw [afterWord_lane hteam (hmem e he a b c hgo (by simp [hsc])) hlid (ents_within hin.toReady he), ents_lane he]
      simp only [Act.onLane, hu, hd, hw]
    · rw [afterWord_lane hteam (hoff e he ho) hlid (ents_within hin.toReady he), ents_lane he]
      rfl
  · rw [hacts, afterTraps_none (hnt (by intro e he a b c hgo; simp [hpo e he a b c hgo]))]
    refine ⟨afterWord_lanesOnly hteam hfst, fun e he => ?_, _, afterWord_team hteam, rfl, ?_⟩
    · rcases hcl e he with h | ⟨a, b, c, h⟩
      · rw [afterWord_lane hteam (hoff e he h) hlid (ents_within hin.toReady he), ents_lane he]
        rfl
      · rw [afterWord_lane hteam (hmem e he a b c h (by simp [hpo e he a b c h])) hlid (ents_within hin.toReady he), ents_lane he]
        have hr : 128 ≤ d.toNat ∧ d.toNat < 160 := by simpa [isScal] using hsc
        simp only [Act.onLane, hu, hd, Lane.writeD]
        rw [if_neg (by omega), if_neg (by omega)]
    · unfold scalarWrites lowestPut
      simp only [hu, hd, hw, hsc, Bool.not_true, Bool.false_eq_true, if_false]
      congr 1
      generalize firstSome _ (putActs s w i d f) = o
      cases o <;> rfl

/-- The same for a group of any slot. -/
theorem gives_of {s : State} {w : WordCtx} {i : Instr} {d : Code} {wide : Bool} {f : List Exe → Ent → Val → Val → Val → Val}
    (g : WordCtx → List Exe → Ent → Val → Val → Val → Act) (hexec : exec i s = finish (runCross s i g)) (u : OpUse)
    (hu : destOf i = some u) (hd : u.code = d) (hw : u.kind.wide = wide) (hin : Ready s w) (hcl : Clear s w i)
    (hg : ∀ e ∈ w.ents, ∀ a b c, gate s w i e = .go a b c → g w (executing s w i) e a b c = .put (f (executing s w i) e a b c)) :
    Gives s w i d wide f := by
  refine ⟨fun hl => puts_of g hexec u hu hd hw ⟨hin, hl⟩ hcl hg, fun hnt => leavesOn_of (Ready.ends hin) ?_ hnt ?_⟩
  · intro x hx
    obtain ⟨e, he, rfl⟩ := List.mem_map.mp hx
    exact hin.unstepped e he
  · rw [hexec]
    unfold runCross
    rw [hin.ctx]
    simp only
    congr 2
    unfold putActs
    apply List.map_congr_left
    intro e he
    rcases hcl e he with h | ⟨a, b, c, h⟩
    · simp only [h]
    · simp only [h, hg e he a b c h, scalarPoison_put hu, hd]

/-- A word that puts a value into D, in a group whose lanes execute it with sources that are `ok`. -/
theorem computesIf_of {i : Instr} {d : Code} {wide : Bool} {ok : Val → Val → Val → Prop} {f : State → WordCtx → Val → Val → Val → Val}
    (g : State → WordCtx → List Exe → Ent → Val → Val → Val → Act) (hexec : ∀ s, exec i s = finish (runCross s i (g s))) (u : OpUse)
    (hu : destOf i = some u) (hd : u.code = d) (hw : u.kind.wide = wide) (hg : ∀ s w xs e a b c, ok a b c → g s w xs e a b c = .put (f s w a b c)) :
    ComputesIf i d wide ok f := fun s w hin hcl hok =>
  gives_of (g s) (hexec s) u hu hd hw hin hcl (fun e he a b c h => hg s w _ e a b c (hok e he a b c h))

/-- A word of class 0x0 that computes D from its sources alone. -/
theorem computes_of {i : Instr} {d : Code} {wide : Bool} {g f : Val → Val → Val → Val} (hexec : ∀ s, exec i s = finish (runAlu s i g))
    (u : OpUse) (hu : destOf i = some u) (hd : u.code = d) (hw : u.kind.wide = wide) (hg : ∀ a b c, g a b c = f a b c) : Computes i d wide f :=
  computesIf_of (fun _ _ _ _ a b c => .put (g a b c)) hexec u hu hd hw (fun _ _ _ _ a b c _ => by rw [hg])

end Sys2Proof.Machine
end

