-- ==== Sys2Proof/Laws/PerInstr.lean ====
section
/-! SUPPORT. PerInstr.lean: the round trip of the encoding, one lemma for each row of the opcode table. -/

namespace Sys2Proof

/-! ### Laying out and reading a word -/

/-- A bit of a concatenation. -/
theorem pack_bit (r : Raw) (i : Nat) : r.pack.getLsbD i =
    if i < 8 then r.op.getLsbD i else if i < 14 then r.g.p.getLsbD (i - 8) else if i < 15 then r.g.neg else if i < 16 then r.e
    else if i < 24 then r.d.getLsbD (i - 16) else if i < 32 then r.a.getLsbD (i - 24) else if i < 40 then r.b.getLsbD (i - 32)
    else r.hi.getLsbD (i - 40) := by
  unfold Raw.pack
  simp only [BitVec.getLsbD_cast, BitVec.getLsbD_append, BitVec.getLsbD_ofBool]
  simp only [Nat.sub_sub, Nat.reduceAdd]
  by_cases h0 : i < 8
  · simp only [h0, if_true]
  by_cases h1 : i < 14
  · simp only [h0, h1, if_true, if_false, show i - 8 < 6 by omega]
  by_cases h2 : i < 15
  · simp only [h0, h1, h2, if_true, if_false, show ¬ i - 8 < 6 by omega, show i - 14 = 0 by omega, decide_true, Bool.true_and, Nat.zero_lt_one]
  by_cases h3 : i < 16
  · simp only [h0, h1, h2, h3, if_true, if_false, show ¬ i - 8 < 6 by omega, show ¬ i - 14 < 1 by omega,
      show i - 15 = 0 by omega, decide_true, Bool.true_and, Nat.zero_lt_one]
  have e0 : ¬ i - 8 < 6 := by omega
  have e1 : ¬ i - 14 < 1 := by omega
  have e2 : ¬ i - 15 < 1 := by omega
  simp only [h0, h1, h2, h3, e0, e1, e2, if_false]
  by_cases h4 : i < 24
  · simp only [h4, show i - 16 < 8 by omega, if_true]
  have e3 : ¬ i - 16 < 8 := by omega
  by_cases h5 : i < 32
  · simp only [h4, h5, e3, show i - 24 < 8 by omega, if_true, if_false]
  have e4 : ¬ i - 24 < 8 := by omega
  by_cases h6 : i < 40
  · simp only [h4, h5, h6, e3, e4, show i - 32 < 8 by omega, if_true, if_false]
  · simp only [h4, h5, h6, e3, e4, show ¬ i - 32 < 8 by omega, if_false]

/-- Reading a word gives the fields that it was laid out from. -/
theorem unpack_pack (r : Raw) : Raw.unpack r.pack = r := by
  obtain ⟨hi, b, a, d, e, ⟨neg, p⟩, op⟩ := r
  simp only [Raw.unpack, Raw.mk.injEq, Guard.mk.injEq]
  refine ⟨?_, ?_, ?_, ?_, ?_, ⟨?_, ?_⟩, ?_⟩
  all_goals first
    | (apply BitVec.eq_of_getLsbD_eq
       intro i hi
       simp only [BitVec.getLsbD_extractLsb', pack_bit]
       simp only [hi, decide_true, Bool.true_and]
       split_ifs <;> first | omega | (congr 1; omega))
    | (simp only [pack_bit]; rfl)

theorem ofR_fn (op fn : BitVec 8) (md : BitVec 5) (late : Bool) (g : Guard) (d : Code) (a b c : Src) :
    (Raw.ofR op fn md late g d a b c).fn = fn := by
  apply BitVec.eq_of_getLsbD_eq
  intro i hi
  simp only [Raw.fn, Raw.ofR, BitVec.getLsbD_extractLsb', BitVec.getLsbD_cast, BitVec.getLsbD_append]
  simp only [hi, decide_true, Bool.true_and]
  split_ifs <;> first | omega | (congr 1; omega)

theorem ofR_md (op fn : BitVec 8) (md : BitVec 5) (late : Bool) (g : Guard) (d : Code) (a b c : Src) :
    (Raw.ofR op fn md late g d a b c).md = md := by
  apply BitVec.eq_of_getLsbD_eq
  intro i hi
  simp only [Raw.md, Raw.ofR, BitVec.getLsbD_extractLsb', BitVec.getLsbD_cast, BitVec.getLsbD_append]
  simp only [hi, decide_true, Bool.true_and]
  split_ifs <;> first | omega | (congr 1; omega)

theorem ofR_c (op fn : BitVec 8) (md : BitVec 5) (late : Bool) (g : Guard) (d : Code) (a b c : Src) :
    (Raw.ofR op fn md late g d a b c).c = c.code := by
  apply BitVec.eq_of_getLsbD_eq
  intro i hi
  simp only [Raw.c, Raw.ofR, BitVec.getLsbD_extractLsb', BitVec.getLsbD_cast, BitVec.getLsbD_append]
  simp only [hi, decide_true, Bool.true_and]
  split_ifs <;> first | omega | (congr 1; omega)

theorem ofR_tieA (op fn : BitVec 8) (md : BitVec 5) (late : Bool) (g : Guard) (d : Code) (a b c : Src) :
    (Raw.ofR op fn md late g d a b c).srcA = a := by
  simp only [Raw.srcA, Raw.ofR, BitVec.getLsbD_cast, BitVec.getLsbD_append, BitVec.getLsbD_ofBool]
  rfl

theorem ofR_tieB (op fn : BitVec 8) (md : BitVec 5) (late : Bool) (g : Guard) (d : Code) (a b c : Src) :
    (Raw.ofR op fn md late g d a b c).srcB = b := by
  simp only [Raw.srcB, Raw.ofR, BitVec.getLsbD_cast, BitVec.getLsbD_append, BitVec.getLsbD_ofBool]
  rfl

theorem ofR_bit10 (op fn : BitVec 8) (md : BitVec 5) (late : Bool) (g : Guard) (d : Code) (a b c : Src) :
    (Raw.ofR op fn md late g d a b c).hi.getLsbD 10 = c.tie := by
  simp only [Raw.ofR, BitVec.getLsbD_cast, BitVec.getLsbD_append, BitVec.getLsbD_ofBool]
  rfl

theorem ofR_srcC (op fn : BitVec 8) (md : BitVec 5) (late : Bool) (g : Guard) (d : Code) (a b c : Src) :
    (Raw.ofR op fn md late g d a b c).srcC = c := by
  unfold Raw.srcC
  rw [ofR_bit10, ofR_c]

theorem ofI_imm (op : BitVec 8) (g : Guard) (d a : Code) (imm : Word) : (Raw.ofI op g d a imm).imm = imm := by
  apply BitVec.eq_of_getLsbD_eq
  intro i hi
  simp only [Raw.imm, Raw.ofI, BitVec.getLsbD_cast, BitVec.getLsbD_append, BitVec.getLsbD_extractLsb']
  split_ifs with h
  · simp [h]
  · simp only [show i - 8 < 24 by omega, decide_true, Bool.true_and]
    congr 1; omega

theorem ofJ_off (op : BitVec 8) (g : Guard) (d : Code) (off : BitVec 40) : (Raw.ofJ op g d off).off = off := by
  apply BitVec.eq_of_getLsbD_eq
  intro i hi
  simp only [Raw.off, Raw.ofJ, BitVec.getLsbD_cast, BitVec.getLsbD_append, BitVec.getLsbD_extractLsb']
  split_ifs with h h'
  · simp [h]
  · simp only [h', decide_true, Bool.true_and]
    congr 1; omega
  · simp only [show i - 8 - 8 < 24 by omega, decide_true, Bool.true_and]
    congr 1; omega

theorem chkWf_some {i : Instr} (h : i.wf = true) : chkWf (some i) = .ok i := by
  simp [chkWf, h]

end Sys2Proof

namespace Sys2Proof.Laws.RoundTrip

open Sys2Proof

/-- Decoding the word of a well-formed instruction gives the instruction back; an event has no word. -/
def Statement (i : Instr) : Prop := i.guard.isSome = true → i.wf = true → decode (encode i) = .ok i

/-- The decoder, on a word that is laid out from fields. -/
theorem decode_pack (r : Raw) : decode r.pack = decodeRaw r := by
  unfold decode
  rw [unpack_pack]

/-- Format R, once for every form: what the decoder's row gives, when the fields that it checks are as the encoder lays them out. -/
theorem rtR {n : Nat} {r : Raw} {late : Bool} {mask : Nat} {ud ua ub : Bool} {uc : CUse} {i : Instr} {io : Option Instr}
    (hdec : decodeR r = chkR r late mask ud ua ub uc io) (hop : r.op.toNat = n) (hf : formatOf n = some .R) (hc : ¬ n / 16 ≥ 13)
    (he : r.e = late) (hm : r.md &&& ~~~(BitVec.ofNat 5 mask) = 0) (hd : ud = true ∨ r.d = 0) (ha : ua = true ∨ r.srcA = noSrc)
    (hb : ub = true ∨ r.srcB = noSrc) (hcu : uc = .opnd ∨ (r.hi.getLsbD 10 = false ∧ (uc = .imm ∨ r.c = 0)))
    (hio : io = some i) (hwf : i.wf = true) : decode r.pack = .ok i := by
  rw [decode_pack]
  unfold decodeRaw
  rw [hop, if_neg hc, hf]
  show decodeR r = _
  rw [hdec, hio]
  unfold chkR
  have h1 : ((!ud && r.d != 0) || (!ua && r.srcA != ⟨0, false⟩) || (!ub && r.srcB != ⟨0, false⟩)
      || (uc == .none && r.c != 0) || (uc != .opnd && r.hi.getLsbD 10)) = false := by
    have e1 : (!ud && r.d != 0) = false := by rcases hd with h | h <;> simp [h]
    have e2 : (!ua && r.srcA != ⟨0, false⟩) = false := by rcases ha with h | h <;> simp [h, noSrc]
    have e3 : (!ub && r.srcB != ⟨0, false⟩) = false := by rcases hb with h | h <;> simp [h, noSrc]
    have e4 : (uc == .none && r.c != 0) = false := by
      rcases hcu with h | ⟨-, h | h⟩
      · rw [h]; rfl
      · rw [h]; rfl
      · rw [h]; simp
    have e5 : (uc != .opnd && r.hi.getLsbD 10) = false := by
      rcases hcu with h | ⟨h, -⟩
      · rw [h]; rfl
      · rw [h]; simp
    rw [e1, e2, e3, e4, e5]; rfl
  rw [h1, hm, he]
  simp [chkWf_some hwf]

/-- Format P, once for every form. -/
theorem rtP {n : Nat} {r : Raw} {mask fix : Nat} {ub : Bool} {i : Instr} {io : Option Instr}
    (hdec : decodeP r = chkP r mask fix ub io) (hop : r.op.toNat = n) (hf : formatOf n = some .P) (hc : ¬ n / 16 ≥ 13) (he : r.e = true)
    (hm : r.hi &&& ~~~(BitVec.ofNat 24 mask) = BitVec.ofNat 24 fix) (hb : ub = true ∨ r.b = 224) (hio : io = some i) (hwf : i.wf = true) :
    decode r.pack = .ok i := by
  rw [decode_pack]
  unfold decodeRaw
  rw [hop, if_neg hc, hf]
  show decodeP r = _
  rw [hdec, hio]
  unfold chkP
  have h1 : (!ub && r.b != 224) = false := by rcases hb with h | h <;> simp [h]
  rw [h1, hm, he]
  simp [chkWf_some hwf]

theorem io_lea (md : BitVec 5) (u : Bool) (sh : BitVec 3) (h : md = bitAt 5 3 u ||| fieldAt 5 0 sh) :
    md.getLsbD 3 = u ∧ md.extractLsb' 0 3 = sh := by
  subst h; revert sh; cases u <;> decide

theorem md_lea (u : Bool) (sh : BitVec 3) : (bitAt 5 3 u ||| fieldAt 5 0 sh : BitVec 5) &&& ~~~(BitVec.ofNat 5 15) = 0 := by
  revert sh; cases u <;> decide

theorem md_ldp (pt : BitVec 5) : (fieldAt 5 0 pt : BitVec 5) &&& ~~~(BitVec.ofNat 5 31) = 0 := by revert pt; decide

theorem io_ldp (pt : BitVec 5) : (fieldAt 5 0 pt : BitVec 5).extractLsb' 0 5 = pt := by revert pt; decide

/-- Format I. -/
theorem decodeRaw_I {n : Nat} {r : Raw} (hop : r.op.toNat = n) (hf : formatOf n = some .I) (hc : ¬ n / 16 ≥ 13) :
    decodeRaw r = if r.op = 0x07 then chkI r true (some (.addi r.g r.d r.a r.imm)) else chkI r false (some (.movi r.g r.d r.imm)) := by
  unfold decodeRaw
  rw [hop, if_neg hc, hf]

theorem addi (g : Guard) (d : Code) (a : Code) (imm : Word) : Statement (.addi g d a imm) := fun _ hwf => by
  show decode (Raw.ofI 0x7 g d a imm).pack = _
  rw [decode_pack, decodeRaw_I (n := 7) rfl (by decide) (by decide), if_pos (show (Raw.ofI 0x7 g d a imm).op = 0x7 from rfl), ofI_imm]
  exact chkWf_some hwf

theorem movi (g : Guard) (d : Code) (imm : Word) : Statement (.movi g d imm) := fun _ hwf => by
  show decode (Raw.ofI 0x8 g d 0 imm).pack = _
  rw [decode_pack, decodeRaw_I (n := 8) rfl (by decide) (by decide), if_neg (show ¬ (Raw.ofI 0x8 g d 0 imm).op = 0x7 from (by decide : ¬ (0x8 : BitVec 8) = 0x7)), ofI_imm]
  exact chkWf_some hwf

theorem bra (g : Guard) (d : Code) (off : BitVec 40) : Statement (.bra g d off) := fun _ hwf => by
  show decode (Raw.ofJ 0x9 g d off).pack = _
  rw [decode_pack]
  unfold decodeRaw
  rw [show (Raw.ofJ 0x9 g d off).op.toNat = 9 from rfl, if_neg (by decide), show formatOf 9 = some .J by decide, ofJ_off]
  exact chkWf_some hwf

theorem add (g : Guard) (sat : Bool) (u : Bool) (d : Code) (a : Src) (b : Src) : Statement (.add g sat u d a b) := by
  intro _ hwf
  refine rtR (io := ?io) (n := 0x0) (r := Raw.ofR _ _ _ _ _ _ _ _ _) (late := false) (mask := 3) (ud := true) (ua := true) (ub := true) (uc := .none)
    ?_ rfl (by decide) (by decide) rfl ?_ (.inl rfl) (.inl rfl) (.inl rfl) (.inr ⟨ofR_bit10 .., .inr (ofR_c ..)⟩) ?_ hwf
  rotate_left
  · unfold decodeR; rw [ofR_fn]; rfl
  · rw [ofR_md]; cases sat <;> cases u <;> decide
  · rw [ofR_md, ofR_tieA, ofR_tieB]; cases sat <;> cases u <;> rfl

theorem sub (g : Guard) (sat : Bool) (u : Bool) (d : Code) (a : Src) (b : Src) : Statement (.sub g sat u d a b) := by
  intro _ hwf
  refine rtR (io := ?io) (n := 0x0) (r := Raw.ofR _ _ _ _ _ _ _ _ _) (late := false) (mask := 3) (ud := true) (ua := true) (ub := true) (uc := .none)
    ?_ rfl (by decide) (by decide) rfl ?_ (.inl rfl) (.inl rfl) (.inl rfl) (.inr ⟨ofR_bit10 .., .inr (ofR_c ..)⟩) ?_ hwf
  rotate_left
  · unfold decodeR; rw [ofR_fn]; rfl
  · rw [ofR_md]; cases sat <;> cases u <;> decide
  · rw [ofR_md, ofR_tieA, ofR_tieB]; cases sat <;> cases u <;> rfl

theorem mul (g : Guard) (sat : Bool) (u : Bool) (d : Code) (a : Src) (b : Src) : Statement (.mul g sat u d a b) := by
  intro _ hwf
  refine rtR (io := ?io) (n := 0x0) (r := Raw.ofR _ _ _ _ _ _ _ _ _) (late := false) (mask := 3) (ud := true) (ua := true) (ub := true) (uc := .none)
    ?_ rfl (by decide) (by decide) rfl ?_ (.inl rfl) (.inl rfl) (.inl rfl) (.inr ⟨ofR_bit10 .., .inr (ofR_c ..)⟩) ?_ hwf
  rotate_left
  · unfold decodeR; rw [ofR_fn]; rfl
  · rw [ofR_md]; cases sat <;> cases u <;> decide
  · rw [ofR_md, ofR_tieA, ofR_tieB]; cases sat <;> cases u <;> rfl

theorem mulh (g : Guard) (u : Bool) (d : Code) (a : Src) (b : Src) : Statement (.mulh g u d a b) := by
  intro _ hwf
  refine rtR (io := ?io) (n := 0x0) (r := Raw.ofR _ _ _ _ _ _ _ _ _) (late := false) (mask := 1) (ud := true) (ua := true) (ub := true) (uc := .none)
    ?_ rfl (by decide) (by decide) rfl ?_ (.inl rfl) (.inl rfl) (.inl rfl) (.inr ⟨ofR_bit10 .., .inr (ofR_c ..)⟩) ?_ hwf
  rotate_left
  · unfold decodeR; rw [ofR_fn]; rfl
  · rw [ofR_md]; cases u <;> decide
  · rw [ofR_md, ofR_tieA, ofR_tieB]; cases u <;> rfl

theorem mad (g : Guard) (sat : Bool) (u : Bool) (d : Code) (a : Src) (b : Src) (c : Src) : Statement (.mad g sat u d a b c) := by
  intro _ hwf
  refine rtR (io := ?io) (n := 0x0) (r := Raw.ofR _ _ _ _ _ _ _ _ _) (late := false) (mask := 3) (ud := true) (ua := true) (ub := true) (uc := .opnd)
    ?_ rfl (by decide) (by decide) rfl ?_ (.inl rfl) (.inl rfl) (.inl rfl) (.inl rfl) ?_ hwf
  rotate_left
  · unfold decodeR; rw [ofR_fn]; rfl
  · rw [ofR_md]; cases sat <;> cases u <;> decide
  · rw [ofR_md, ofR_tieA, ofR_tieB, ofR_srcC]; cases sat <;> cases u <;> rfl

theorem min (g : Guard) (u : Bool) (d : Code) (a : Src) (b : Src) : Statement (.min g u d a b) := by
  intro _ hwf
  refine rtR (io := ?io) (n := 0x0) (r := Raw.ofR _ _ _ _ _ _ _ _ _) (late := false) (mask := 1) (ud := true) (ua := true) (ub := true) (uc := .none)
    ?_ rfl (by decide) (by decide) rfl ?_ (.inl rfl) (.inl rfl) (.inl rfl) (.inr ⟨ofR_bit10 .., .inr (ofR_c ..)⟩) ?_ hwf
  rotate_left
  · unfold decodeR; rw [ofR_fn]; rfl
  · rw [ofR_md]; cases u <;> decide
  · rw [ofR_md, ofR_tieA, ofR_tieB]; cases u <;> rfl

theorem max (g : Guard) (u : Bool) (d : Code) (a : Src) (b : Src) : Statement (.max g u d a b) := by
  intro _ hwf
  refine rtR (io := ?io) (n := 0x0) (r := Raw.ofR _ _ _ _ _ _ _ _ _) (late := false) (mask := 1) (ud := true) (ua := true) (ub := true) (uc := .none)
    ?_ rfl (by decide) (by decide) rfl ?_ (.inl rfl) (.inl rfl) (.inl rfl) (.inr ⟨ofR_bit10 .., .inr (ofR_c ..)⟩) ?_ hwf
  rotate_left
  · unfold decodeR; rw [ofR_fn]; rfl
  · rw [ofR_md]; cases u <;> decide
  · rw [ofR_md, ofR_tieA, ofR_tieB]; cases u <;> rfl

theorem abs (g : Guard) (sat : Bool) (d : Code) (a : Src) : Statement (.abs g sat d a) := by
  intro _ hwf
  refine rtR (io := ?io) (n := 0x0) (r := Raw.ofR _ _ _ _ _ _ _ _ _) (late := false) (mask := 2) (ud := true) (ua := true) (ub := false) (uc := .none)
    ?_ rfl (by decide) (by decide) rfl ?_ (.inl rfl) (.inl rfl) (.inr (ofR_tieB ..)) (.inr ⟨ofR_bit10 .., .inr (ofR_c ..)⟩) ?_ hwf
  rotate_left
  · unfold decodeR; rw [ofR_fn]; rfl
  · rw [ofR_md]; cases sat <;> decide
  · rw [ofR_md, ofR_tieA]; cases sat <;> rfl

theorem neg (g : Guard) (sat : Bool) (d : Code) (a : Src) : Statement (.neg g sat d a) := by
  intro _ hwf
  refine rtR (io := ?io) (n := 0x0) (r := Raw.ofR _ _ _ _ _ _ _ _ _) (late := false) (mask := 2) (ud := true) (ua := true) (ub := false) (uc := .none)
    ?_ rfl (by decide) (by decide) rfl ?_ (.inl rfl) (.inl rfl) (.inr (ofR_tieB ..)) (.inr ⟨ofR_bit10 .., .inr (ofR_c ..)⟩) ?_ hwf
  rotate_left
  · unfold decodeR; rw [ofR_fn]; rfl
  · rw [ofR_md]; cases sat <;> decide
  · rw [ofR_md, ofR_tieA]; cases sat <;> rfl

theorem and (g : Guard) (d : Code) (a : Src) (b : Src) : Statement (.and g d a b) := by
  intro _ hwf
  refine rtR (io := ?io) (n := 0x1) (r := Raw.ofR _ _ _ _ _ _ _ _ _) (late := false) (mask := 0) (ud := true) (ua := true) (ub := true) (uc := .none)
    ?_ rfl (by decide) (by decide) rfl ?_ (.inl rfl) (.inl rfl) (.inl rfl) (.inr ⟨ofR_bit10 .., .inr (ofR_c ..)⟩) ?_ hwf
  rotate_left
  · unfold decodeR; rw [ofR_fn]; rfl
  · rw [ofR_md]; decide
  · rw [ofR_tieA, ofR_tieB]; rfl

theorem or (g : Guard) (d : Code) (a : Src) (b : Src) : Statement (.or g d a b) := by
  intro _ hwf
  refine rtR (io := ?io) (n := 0x1) (r := Raw.ofR _ _ _ _ _ _ _ _ _) (late := false) (mask := 0) (ud := true) (ua := true) (ub := true) (uc := .none)
    ?_ rfl (by decide) (by decide) rfl ?_ (.inl rfl) (.inl rfl) (.inl rfl) (.inr ⟨ofR_bit10 .., .inr (ofR_c ..)⟩) ?_ hwf
  rotate_left
  · unfold decodeR; rw [ofR_fn]; rfl
  · rw [ofR_md]; decide
  · rw [ofR_tieA, ofR_tieB]; rfl

theorem xor (g : Guard) (d : Code) (a : Src) (b : Src) : Statement (.xor g d a b) := by
  intro _ hwf
  refine rtR (io := ?io) (n := 0x1) (r := Raw.ofR _ _ _ _ _ _ _ _ _) (late := false) (mask := 0) (ud := true) (ua := true) (ub := true) (uc := .none)
    ?_ rfl (by decide) (by decide) rfl ?_ (.inl rfl) (.inl rfl) (.inl rfl) (.inr ⟨ofR_bit10 .., .inr (ofR_c ..)⟩) ?_ hwf
  rotate_left
  · unfold decodeR; rw [ofR_fn]; rfl
  · rw [ofR_md]; decide
  · rw [ofR_tieA, ofR_tieB]; rfl

theorem not (g : Guard) (d : Code) (a : Src) : Statement (.not g d a) := by
  intro _ hwf
  refine rtR (io := ?io) (n := 0x1) (r := Raw.ofR _ _ _ _ _ _ _ _ _) (late := false) (mask := 0) (ud := true) (ua := true) (ub := false) (uc := .none)
    ?_ rfl (by decide) (by decide) rfl ?_ (.inl rfl) (.inl rfl) (.inr (ofR_tieB ..)) (.inr ⟨ofR_bit10 .., .inr (ofR_c ..)⟩) ?_ hwf
  rotate_left
  · unfold decodeR; rw [ofR_fn]; rfl
  · rw [ofR_md]; decide
  · rw [ofR_tieA]; rfl

theorem shl (g : Guard) (d : Code) (a : Src) (b : Src) : Statement (.shl g d a b) := by
  intro _ hwf
  refine rtR (io := ?io) (n := 0x1) (r := Raw.ofR _ _ _ _ _ _ _ _ _) (late := false) (mask := 0) (ud := true) (ua := true) (ub := true) (uc := .none)
    ?_ rfl (by decide) (by decide) rfl ?_ (.inl rfl) (.inl rfl) (.inl rfl) (.inr ⟨ofR_bit10 .., .inr (ofR_c ..)⟩) ?_ hwf
  rotate_left
  · unfold decodeR; rw [ofR_fn]; rfl
  · rw [ofR_md]; decide
  · rw [ofR_tieA, ofR_tieB]; rfl

theorem shr (g : Guard) (sx : Bool) (d : Code) (a : Src) (b : Src) : Statement (.shr g sx d a b) := by
  intro _ hwf
  refine rtR (io := ?io) (n := 0x1) (r := Raw.ofR _ _ _ _ _ _ _ _ _) (late := false) (mask := 1) (ud := true) (ua := true) (ub := true) (uc := .none)
    ?_ rfl (by decide) (by decide) rfl ?_ (.inl rfl) (.inl rfl) (.inl rfl) (.inr ⟨ofR_bit10 .., .inr (ofR_c ..)⟩) ?_ hwf
  rotate_left
  · unfold decodeR; rw [ofR_fn]; rfl
  · rw [ofR_md]; cases sx <;> decide
  · rw [ofR_md, ofR_tieA, ofR_tieB]; cases sx <;> rfl

theorem rot (g : Guard) (d : Code) (a : Src) (b : Src) : Statement (.rot g d a b) := by
  intro _ hwf
  refine rtR (io := ?io) (n := 0x1) (r := Raw.ofR _ _ _ _ _ _ _ _ _) (late := false) (mask := 0) (ud := true) (ua := true) (ub := true) (uc := .none)
    ?_ rfl (by decide) (by decide) rfl ?_ (.inl rfl) (.inl rfl) (.inl rfl) (.inr ⟨ofR_bit10 .., .inr (ofR_c ..)⟩) ?_ hwf
  rotate_left
  · unfold decodeR; rw [ofR_fn]; rfl
  · rw [ofR_md]; decide
  · rw [ofR_tieA, ofR_tieB]; rfl

theorem popc (g : Guard) (d : Code) (a : Src) : Statement (.popc g d a) := by
  intro _ hwf
  refine rtR (io := ?io) (n := 0x1) (r := Raw.ofR _ _ _ _ _ _ _ _ _) (late := false) (mask := 0) (ud := true) (ua := true) (ub := false) (uc := .none)
    ?_ rfl (by decide) (by decide) rfl ?_ (.inl rfl) (.inl rfl) (.inr (ofR_tieB ..)) (.inr ⟨ofR_bit10 .., .inr (ofR_c ..)⟩) ?_ hwf
  rotate_left
  · unfold decodeR; rw [ofR_fn]; rfl
  · rw [ofR_md]; decide
  · rw [ofR_tieA]; rfl

theorem clz (g : Guard) (d : Code) (a : Src) : Statement (.clz g d a) := by
  intro _ hwf
  refine rtR (io := ?io) (n := 0x1) (r := Raw.ofR _ _ _ _ _ _ _ _ _) (late := false) (mask := 0) (ud := true) (ua := true) (ub := false) (uc := .none)
    ?_ rfl (by decide) (by decide) rfl ?_ (.inl rfl) (.inl rfl) (.inr (ofR_tieB ..)) (.inr ⟨ofR_bit10 .., .inr (ofR_c ..)⟩) ?_ hwf
  rotate_left
  · unfold decodeR; rw [ofR_fn]; rfl
  · rw [ofR_md]; decide
  · rw [ofR_tieA]; rfl

theorem brev (g : Guard) (d : Code) (a : Src) : Statement (.brev g d a) := by
  intro _ hwf
  refine rtR (io := ?io) (n := 0x1) (r := Raw.ofR _ _ _ _ _ _ _ _ _) (late := false) (mask := 0) (ud := true) (ua := true) (ub := false) (uc := .none)
    ?_ rfl (by decide) (by decide) rfl ?_ (.inl rfl) (.inl rfl) (.inr (ofR_tieB ..)) (.inr ⟨ofR_bit10 .., .inr (ofR_c ..)⟩) ?_ hwf
  rotate_left
  · unfold decodeR; rw [ofR_fn]; rfl
  · rw [ofR_md]; decide
  · rw [ofR_tieA]; rfl

theorem bfe (g : Guard) (sx : Bool) (d : Code) (a : Src) (b : Src) : Statement (.bfe g sx d a b) := by
  intro _ hwf
  refine rtR (io := ?io) (n := 0x1) (r := Raw.ofR _ _ _ _ _ _ _ _ _) (late := false) (mask := 1) (ud := true) (ua := true) (ub := true) (uc := .none)
    ?_ rfl (by decide) (by decide) rfl ?_ (.inl rfl) (.inl rfl) (.inl rfl) (.inr ⟨ofR_bit10 .., .inr (ofR_c ..)⟩) ?_ hwf
  rotate_left
  · unfold decodeR; rw [ofR_fn]; rfl
  · rw [ofR_md]; cases sx <;> decide
  · rw [ofR_md, ofR_tieA, ofR_tieB]; cases sx <;> rfl

theorem bfi (g : Guard) (d : Code) (a : Src) (b : Src) (c : Src) : Statement (.bfi g d a b c) := by
  intro _ hwf
  refine rtR (io := ?io) (n := 0x1) (r := Raw.ofR _ _ _ _ _ _ _ _ _) (late := false) (mask := 0) (ud := true) (ua := true) (ub := true) (uc := .opnd)
    ?_ rfl (by decide) (by decide) rfl ?_ (.inl rfl) (.inl rfl) (.inl rfl) (.inl rfl) ?_ hwf
  rotate_left
  · unfold decodeR; rw [ofR_fn]; rfl
  · rw [ofR_md]; decide
  · rw [ofR_tieA, ofR_tieB, ofR_srcC]; rfl

theorem bperm (g : Guard) (d : Code) (a : Src) (b : Src) (c : Src) : Statement (.bperm g d a b c) := by
  intro _ hwf
  refine rtR (io := ?io) (n := 0x1) (r := Raw.ofR _ _ _ _ _ _ _ _ _) (late := false) (mask := 0) (ud := true) (ua := true) (ub := true) (uc := .opnd)
    ?_ rfl (by decide) (by decide) rfl ?_ (.inl rfl) (.inl rfl) (.inl rfl) (.inl rfl) ?_ hwf
  rotate_left
  · unfold decodeR; rw [ofR_fn]; rfl
  · rw [ofR_md]; decide
  · rw [ofR_tieA, ofR_tieB, ofR_srcC]; rfl

theorem icmp (g : Guard) (w : Bool) (u : Bool) (cmp : ICmp) (d : Code) (a : Src) (b : Src) : Statement (.icmp g w u cmp d a b) := by
  intro _ hwf
  refine rtR (io := ?io) (n := 0x2) (r := Raw.ofR _ _ _ _ _ _ _ _ _) (late := false) (mask := 31) (ud := true) (ua := true) (ub := true) (uc := .none)
    ?_ rfl (by decide) (by decide) rfl ?_ (.inl rfl) (.inl rfl) (.inl rfl) (.inr ⟨ofR_bit10 .., .inr (ofR_c ..)⟩) ?_ hwf
  rotate_left
  · unfold decodeR; rw [ofR_fn]; rfl
  · rw [ofR_md]; cases w <;> cases u <;> cases cmp <;> decide
  · rw [ofR_md, ofR_tieA, ofR_tieB]; cases w <;> cases u <;> cases cmp <;> rfl

theorem pand (g : Guard) (nb : Bool) (na : Bool) (d : Code) (a : Src) (b : Src) : Statement (.pand g nb na d a b) := by
  intro _ hwf
  refine rtR (io := ?io) (n := 0x3) (r := Raw.ofR _ _ _ _ _ _ _ _ _) (late := false) (mask := 3) (ud := true) (ua := true) (ub := true) (uc := .none)
    ?_ rfl (by decide) (by decide) rfl ?_ (.inl rfl) (.inl rfl) (.inl rfl) (.inr ⟨ofR_bit10 .., .inr (ofR_c ..)⟩) ?_ hwf
  rotate_left
  · unfold decodeR; rw [ofR_fn]; rfl
  · rw [ofR_md]; cases nb <;> cases na <;> decide
  · rw [ofR_md, ofR_tieA, ofR_tieB]; cases nb <;> cases na <;> rfl

theorem por (g : Guard) (nb : Bool) (na : Bool) (d : Code) (a : Src) (b : Src) : Statement (.por g nb na d a b) := by
  intro _ hwf
  refine rtR (io := ?io) (n := 0x3) (r := Raw.ofR _ _ _ _ _ _ _ _ _) (late := false) (mask := 3) (ud := true) (ua := true) (ub := true) (uc := .none)
    ?_ rfl (by decide) (by decide) rfl ?_ (.inl rfl) (.inl rfl) (.inl rfl) (.inr ⟨ofR_bit10 .., .inr (ofR_c ..)⟩) ?_ hwf
  rotate_left
  · unfold decodeR; rw [ofR_fn]; rfl
  · rw [ofR_md]; cases nb <;> cases na <;> decide
  · rw [ofR_md, ofR_tieA, ofR_tieB]; cases nb <;> cases na <;> rfl

theorem pxor (g : Guard) (nb : Bool) (na : Bool) (d : Code) (a : Src) (b : Src) : Statement (.pxor g nb na d a b) := by
  intro _ hwf
  refine rtR (io := ?io) (n := 0x3) (r := Raw.ofR _ _ _ _ _ _ _ _ _) (late := false) (mask := 3) (ud := true) (ua := true) (ub := true) (uc := .none)
    ?_ rfl (by decide) (by decide) rfl ?_ (.inl rfl) (.inl rfl) (.inl rfl) (.inr ⟨ofR_bit10 .., .inr (ofR_c ..)⟩) ?_ hwf
  rotate_left
  · unfold decodeR; rw [ofR_fn]; rfl
  · rw [ofR_md]; cases nb <;> cases na <;> decide
  · rw [ofR_md, ofR_tieA, ofR_tieB]; cases nb <;> cases na <;> rfl

theorem pnot (g : Guard) (d : Code) (a : Src) : Statement (.pnot g d a) := by
  intro _ hwf
  refine rtR (io := ?io) (n := 0x3) (r := Raw.ofR _ _ _ _ _ _ _ _ _) (late := false) (mask := 0) (ud := true) (ua := true) (ub := false) (uc := .none)
    ?_ rfl (by decide) (by decide) rfl ?_ (.inl rfl) (.inl rfl) (.inr (ofR_tieB ..)) (.inr ⟨ofR_bit10 .., .inr (ofR_c ..)⟩) ?_ hwf
  rotate_left
  · unfold decodeR; rw [ofR_fn]; rfl
  · rw [ofR_md]; decide
  · rw [ofR_tieA]; rfl

theorem mov (g : Guard) (w : Bool) (d : Code) (a : Src) : Statement (.mov g w d a) := by
  intro _ hwf
  refine rtR (io := ?io) (n := 0x4) (r := Raw.ofR _ _ _ _ _ _ _ _ _) (late := false) (mask := 1) (ud := true) (ua := true) (ub := false) (uc := .none)
    ?_ rfl (by decide) (by decide) rfl ?_ (.inl rfl) (.inl rfl) (.inr (ofR_tieB ..)) (.inr ⟨ofR_bit10 .., .inr (ofR_c ..)⟩) ?_ hwf
  rotate_left
  · unfold decodeR; rw [ofR_fn]; rfl
  · rw [ofR_md]; cases w <;> decide
  · rw [ofR_md, ofR_tieA]; cases w <;> rfl

theorem sel (g : Guard) (w : Bool) (d : Code) (a : Src) (b : Src) (c : Src) : Statement (.sel g w d a b c) := by
  intro _ hwf
  refine rtR (io := ?io) (n := 0x4) (r := Raw.ofR _ _ _ _ _ _ _ _ _) (late := false) (mask := 1) (ud := true) (ua := true) (ub := true) (uc := .opnd)
    ?_ rfl (by decide) (by decide) rfl ?_ (.inl rfl) (.inl rfl) (.inl rfl) (.inl rfl) ?_ hwf
  rotate_left
  · unfold decodeR; rw [ofR_fn]; rfl
  · rw [ofR_md]; cases w <;> decide
  · rw [ofR_md, ofR_tieA, ofR_tieB, ofR_srcC]; cases w <;> rfl

theorem movx (g : Guard) (w : Bool) (d : Code) (a : Src) : Statement (.movx g w d a) := by
  intro _ hwf
  refine rtR (io := ?io) (n := 0x4) (r := Raw.ofR _ _ _ _ _ _ _ _ _) (late := false) (mask := 1) (ud := true) (ua := true) (ub := false) (uc := .none)
    ?_ rfl (by decide) (by decide) rfl ?_ (.inl rfl) (.inl rfl) (.inr (ofR_tieB ..)) (.inr ⟨ofR_bit10 .., .inr (ofR_c ..)⟩) ?_ hwf
  rotate_left
  · unfold decodeR; rw [ofR_fn]; rfl
  · rw [ofR_md]; cases w <;> decide
  · rw [ofR_md, ofR_tieA]; cases w <;> rfl

theorem movxw (g : Guard) (w : Bool) (a : Src) (b : Src) : Statement (.movxw g w a b) := by
  intro _ hwf
  refine rtR (io := ?io) (n := 0x4) (r := Raw.ofR _ _ _ _ _ _ _ _ _) (late := false) (mask := 1) (ud := false) (ua := true) (ub := true) (uc := .none)
    ?_ rfl (by decide) (by decide) rfl ?_ (.inr rfl) (.inl rfl) (.inl rfl) (.inr ⟨ofR_bit10 .., .inr (ofR_c ..)⟩) ?_ hwf
  rotate_left
  · unfold decodeR; rw [ofR_fn]; rfl
  · rw [ofR_md]; cases w <;> decide
  · rw [ofR_md, ofR_tieA, ofR_tieB]; cases w <;> rfl

theorem mkempty (g : Guard) (w : Bool) (d : Code) : Statement (.mkempty g w d) := by
  intro _ hwf
  refine rtR (io := ?io) (n := 0x4) (r := Raw.ofR _ _ _ _ _ _ _ _ _) (late := false) (mask := 1) (ud := true) (ua := false) (ub := false) (uc := .none)
    ?_ rfl (by decide) (by decide) rfl ?_ (.inl rfl) (.inr (ofR_tieA ..)) (.inr (ofR_tieB ..)) (.inr ⟨ofR_bit10 .., .inr (ofR_c ..)⟩) ?_ hwf
  rotate_left
  · unfold decodeR; rw [ofR_fn]; rfl
  · rw [ofR_md]; cases w <;> decide
  · rw [ofR_md]; cases w <;> rfl

theorem add64 (g : Guard) (sat : Bool) (u : Bool) (d : Code) (a : Src) (b : Src) : Statement (.add64 g sat u d a b) := by
  intro _ hwf
  refine rtR (io := ?io) (n := 0x5) (r := Raw.ofR _ _ _ _ _ _ _ _ _) (late := false) (mask := 3) (ud := true) (ua := true) (ub := true) (uc := .none)
    ?_ rfl (by decide) (by decide) rfl ?_ (.inl rfl) (.inl rfl) (.inl rfl) (.inr ⟨ofR_bit10 .., .inr (ofR_c ..)⟩) ?_ hwf
  rotate_left
  · unfold decodeR; rw [ofR_fn]; rfl
  · rw [ofR_md]; cases sat <;> cases u <;> decide
  · rw [ofR_md, ofR_tieA, ofR_tieB]; cases sat <;> cases u <;> rfl

theorem sub64 (g : Guard) (sat : Bool) (u : Bool) (d : Code) (a : Src) (b : Src) : Statement (.sub64 g sat u d a b) := by
  intro _ hwf
  refine rtR (io := ?io) (n := 0x5) (r := Raw.ofR _ _ _ _ _ _ _ _ _) (late := false) (mask := 3) (ud := true) (ua := true) (ub := true) (uc := .none)
    ?_ rfl (by decide) (by decide) rfl ?_ (.inl rfl) (.inl rfl) (.inl rfl) (.inr ⟨ofR_bit10 .., .inr (ofR_c ..)⟩) ?_ hwf
  rotate_left
  · unfold decodeR; rw [ofR_fn]; rfl
  · rw [ofR_md]; cases sat <;> cases u <;> decide
  · rw [ofR_md, ofR_tieA, ofR_tieB]; cases sat <;> cases u <;> rfl

theorem lea (g : Guard) (u : Bool) (sh : BitVec 3) (d : Code) (a : Src) (b : Src) : Statement (.lea g u sh d a b) := by
  intro _ hwf
  refine rtR (io := ?io) (n := 0x5) (r := Raw.ofR _ _ _ _ _ _ _ _ _) (late := false) (mask := 15) (ud := true) (ua := true) (ub := true) (uc := .none)
    ?_ rfl (by decide) (by decide) rfl ?_ (.inl rfl) (.inl rfl) (.inl rfl) (.inr ⟨ofR_bit10 .., .inr (ofR_c ..)⟩) ?_ hwf
  rotate_left
  · unfold decodeR; rw [ofR_fn]; rfl
  · rw [ofR_md]; exact md_lea u sh
  · rw [(io_lea _ u sh (ofR_md ..)).1, (io_lea _ u sh (ofR_md ..)).2, ofR_tieA, ofR_tieB]; rfl

theorem gmask (g : Guard) (m : GMode) (d : Code) (a : Src) : Statement (.gmask g m d a) := by
  intro _ hwf
  refine rtR (io := ?io) (n := 0x6) (r := Raw.ofR _ _ _ _ _ _ _ _ _) (late := false) (mask := 3) (ud := true) (ua := true) (ub := false) (uc := .none)
    ?_ rfl (by decide) (by decide) rfl ?_ (.inl rfl) (.inl rfl) (.inr (ofR_tieB ..)) (.inr ⟨ofR_bit10 .., .inr (ofR_c ..)⟩) ?_ hwf
  rotate_left
  · unfold decodeR; rw [ofR_fn]; rfl
  · rw [ofR_md]; cases m <;> decide
  · rw [ofR_md, ofR_tieA]; cases m <;> rfl

theorem shfl (g : Guard) (w : Bool) (m : SMode) (d : Code) (a : Src) (b : Src) : Statement (.shfl g w m d a b) := by
  intro _ hwf
  refine rtR (io := ?io) (n := 0x6) (r := Raw.ofR _ _ _ _ _ _ _ _ _) (late := false) (mask := 7) (ud := true) (ua := true) (ub := true) (uc := .none)
    ?_ rfl (by decide) (by decide) rfl ?_ (.inl rfl) (.inl rfl) (.inl rfl) (.inr ⟨ofR_bit10 .., .inr (ofR_c ..)⟩) ?_ hwf
  rotate_left
  · unfold decodeR; rw [ofR_fn]; rfl
  · rw [ofR_md]; cases w <;> cases m <;> decide
  · rw [ofR_md, ofR_tieA, ofR_tieB]; cases w <;> cases m <;> rfl

theorem brx (g : Guard) (slot : Bool) (d : Code) (a : Src) (b : Src) : Statement (.brx g slot d a b) := by
  intro _ hwf
  refine rtR (io := ?io) (n := 0xa) (r := Raw.ofR _ _ _ _ _ _ _ _ _) (late := false) (mask := 1) (ud := true) (ua := true) (ub := true) (uc := .none)
    ?_ rfl (by decide) (by decide) rfl ?_ (.inl rfl) (.inl rfl) (.inl rfl) (.inr ⟨ofR_bit10 .., .inr (ofR_c ..)⟩) ?_ hwf
  rotate_left
  · unfold decodeR; rw [ofR_fn]; rfl
  · rw [ofR_md]; cases slot <;> decide
  · rw [ofR_md, ofR_tieA, ofR_tieB]; cases slot <;> rfl

theorem exit (g : Guard) : Statement (.exit g) := by
  intro _ hwf
  refine rtR (io := ?io) (n := 0xb) (r := Raw.ofR _ _ _ _ _ _ _ _ _) (late := false) (mask := 0) (ud := false) (ua := false) (ub := false) (uc := .none)
    ?_ rfl (by decide) (by decide) rfl ?_ (.inr rfl) (.inr (ofR_tieA ..)) (.inr (ofR_tieB ..)) (.inr ⟨ofR_bit10 .., .inr (ofR_c ..)⟩) ?_ hwf
  rotate_left
  · unfold decodeR; rw [ofR_fn]; rfl
  · rw [ofR_md]; decide
  · rfl

theorem trap (g : Guard) (a : Src) : Statement (.trap g a) := by
  intro _ hwf
  refine rtR (io := ?io) (n := 0xb) (r := Raw.ofR _ _ _ _ _ _ _ _ _) (late := false) (mask := 0) (ud := false) (ua := true) (ub := false) (uc := .none)
    ?_ rfl (by decide) (by decide) rfl ?_ (.inr rfl) (.inl rfl) (.inr (ofR_tieB ..)) (.inr ⟨ofR_bit10 .., .inr (ofR_c ..)⟩) ?_ hwf
  rotate_left
  · unfold decodeR; rw [ofR_fn]; rfl
  · rw [ofR_md]; decide
  · rw [ofR_tieA]; rfl

theorem baton (g : Guard) (tk : Bool) (d : Code) (a : Src) : Statement (.baton g tk d a) := by
  intro _ hwf
  refine rtR (io := ?io) (n := 0xb) (r := Raw.ofR _ _ _ _ _ _ _ _ _) (late := false) (mask := 1) (ud := true) (ua := true) (ub := false) (uc := .none)
    ?_ rfl (by decide) (by decide) rfl ?_ (.inl rfl) (.inl rfl) (.inr (ofR_tieB ..)) (.inr ⟨ofR_bit10 .., .inr (ofR_c ..)⟩) ?_ hwf
  rotate_left
  · unfold decodeR; rw [ofR_fn]; rfl
  · rw [ofR_md]; cases tk <;> decide
  · rw [ofR_md, ofR_tieA]; cases tk <;> rfl

theorem fadd (g : Guard) (sat : Bool) (rm : RMode) (d : Code) (a : Src) (b : Src) : Statement (.fadd g sat rm d a b) := by
  intro _ hwf
  refine rtR (io := ?io) (n := 0x10) (r := Raw.ofR _ _ _ _ _ _ _ _ _) (late := false) (mask := 28) (ud := true) (ua := true) (ub := true) (uc := .none)
    ?_ rfl (by decide) (by decide) rfl ?_ (.inl rfl) (.inl rfl) (.inl rfl) (.inr ⟨ofR_bit10 .., .inr (ofR_c ..)⟩) ?_ hwf
  rotate_left
  · unfold decodeR; rw [ofR_fn]; rfl
  · rw [ofR_md]; cases sat <;> cases rm <;> decide
  · rw [ofR_md, ofR_tieA, ofR_tieB]; cases sat <;> cases rm <;> rfl

theorem fsub (g : Guard) (sat : Bool) (rm : RMode) (d : Code) (a : Src) (b : Src) : Statement (.fsub g sat rm d a b) := by
  intro _ hwf
  refine rtR (io := ?io) (n := 0x10) (r := Raw.ofR _ _ _ _ _ _ _ _ _) (late := false) (mask := 28) (ud := true) (ua := true) (ub := true) (uc := .none)
    ?_ rfl (by decide) (by decide) rfl ?_ (.inl rfl) (.inl rfl) (.inl rfl) (.inr ⟨ofR_bit10 .., .inr (ofR_c ..)⟩) ?_ hwf
  rotate_left
  · unfold decodeR; rw [ofR_fn]; rfl
  · rw [ofR_md]; cases sat <;> cases rm <;> decide
  · rw [ofR_md, ofR_tieA, ofR_tieB]; cases sat <;> cases rm <;> rfl

theorem fmul (g : Guard) (sat : Bool) (rm : RMode) (d : Code) (a : Src) (b : Src) : Statement (.fmul g sat rm d a b) := by
  intro _ hwf
  refine rtR (io := ?io) (n := 0x10) (r := Raw.ofR _ _ _ _ _ _ _ _ _) (late := false) (mask := 28) (ud := true) (ua := true) (ub := true) (uc := .none)
    ?_ rfl (by decide) (by decide) rfl ?_ (.inl rfl) (.inl rfl) (.inl rfl) (.inr ⟨ofR_bit10 .., .inr (ofR_c ..)⟩) ?_ hwf
  rotate_left
  · unfold decodeR; rw [ofR_fn]; rfl
  · rw [ofR_md]; cases sat <;> cases rm <;> decide
  · rw [ofR_md, ofR_tieA, ofR_tieB]; cases sat <;> cases rm <;> rfl

theorem ffma (g : Guard) (sat : Bool) (rm : RMode) (d : Code) (a : Src) (b : Src) (c : Src) : Statement (.ffma g sat rm d a b c) := by
  intro _ hwf
  refine rtR (io := ?io) (n := 0x10) (r := Raw.ofR _ _ _ _ _ _ _ _ _) (late := false) (mask := 28) (ud := true) (ua := true) (ub := true) (uc := .opnd)
    ?_ rfl (by decide) (by decide) rfl ?_ (.inl rfl) (.inl rfl) (.inl rfl) (.inl rfl) ?_ hwf
  rotate_left
  · unfold decodeR; rw [ofR_fn]; rfl
  · rw [ofR_md]; cases sat <;> cases rm <;> decide
  · rw [ofR_md, ofR_tieA, ofR_tieB, ofR_srcC]; cases sat <;> cases rm <;> rfl

theorem fdiv (g : Guard) (sat : Bool) (rm : RMode) (d : Code) (a : Src) (b : Src) : Statement (.fdiv g sat rm d a b) := by
  intro _ hwf
  refine rtR (io := ?io) (n := 0x14) (r := Raw.ofR _ _ _ _ _ _ _ _ _) (late := false) (mask := 28) (ud := true) (ua := true) (ub := true) (uc := .none)
    ?_ rfl (by decide) (by decide) rfl ?_ (.inl rfl) (.inl rfl) (.inl rfl) (.inr ⟨ofR_bit10 .., .inr (ofR_c ..)⟩) ?_ hwf
  rotate_left
  · unfold decodeR; rw [ofR_fn]; rfl
  · rw [ofR_md]; cases sat <;> cases rm <;> decide
  · rw [ofR_md, ofR_tieA, ofR_tieB]; cases sat <;> cases rm <;> rfl

theorem fsqrt (g : Guard) (sat : Bool) (rm : RMode) (d : Code) (a : Src) : Statement (.fsqrt g sat rm d a) := by
  intro _ hwf
  refine rtR (io := ?io) (n := 0x14) (r := Raw.ofR _ _ _ _ _ _ _ _ _) (late := false) (mask := 28) (ud := true) (ua := true) (ub := false) (uc := .none)
    ?_ rfl (by decide) (by decide) rfl ?_ (.inl rfl) (.inl rfl) (.inr (ofR_tieB ..)) (.inr ⟨ofR_bit10 .., .inr (ofR_c ..)⟩) ?_ hwf
  rotate_left
  · unfold decodeR; rw [ofR_fn]; rfl
  · rw [ofR_md]; cases sat <;> cases rm <;> decide
  · rw [ofR_md, ofR_tieA]; cases sat <;> cases rm <;> rfl

theorem fmin (g : Guard) (prop : Bool) (d : Code) (a : Src) (b : Src) : Statement (.fmin g prop d a b) := by
  intro _ hwf
  refine rtR (io := ?io) (n := 0x10) (r := Raw.ofR _ _ _ _ _ _ _ _ _) (late := false) (mask := 1) (ud := true) (ua := true) (ub := true) (uc := .none)
    ?_ rfl (by decide) (by decide) rfl ?_ (.inl rfl) (.inl rfl) (.inl rfl) (.inr ⟨ofR_bit10 .., .inr (ofR_c ..)⟩) ?_ hwf
  rotate_left
  · unfold decodeR; rw [ofR_fn]; rfl
  · rw [ofR_md]; cases prop <;> decide
  · rw [ofR_md, ofR_tieA, ofR_tieB]; cases prop <;> rfl

theorem fmax (g : Guard) (prop : Bool) (d : Code) (a : Src) (b : Src) : Statement (.fmax g prop d a b) := by
  intro _ hwf
  refine rtR (io := ?io) (n := 0x10) (r := Raw.ofR _ _ _ _ _ _ _ _ _) (late := false) (mask := 1) (ud := true) (ua := true) (ub := true) (uc := .none)
    ?_ rfl (by decide) (by decide) rfl ?_ (.inl rfl) (.inl rfl) (.inl rfl) (.inr ⟨ofR_bit10 .., .inr (ofR_c ..)⟩) ?_ hwf
  rotate_left
  · unfold decodeR; rw [ofR_fn]; rfl
  · rw [ofR_md]; cases prop <;> decide
  · rw [ofR_md, ofR_tieA, ofR_tieB]; cases prop <;> rfl

theorem fabs (g : Guard) (d : Code) (a : Src) : Statement (.fabs g d a) := by
  intro _ hwf
  refine rtR (io := ?io) (n := 0x10) (r := Raw.ofR _ _ _ _ _ _ _ _ _) (late := false) (mask := 0) (ud := true) (ua := true) (ub := false) (uc := .none)
    ?_ rfl (by decide) (by decide) rfl ?_ (.inl rfl) (.inl rfl) (.inr (ofR_tieB ..)) (.inr ⟨ofR_bit10 .., .inr (ofR_c ..)⟩) ?_ hwf
  rotate_left
  · unfold decodeR; rw [ofR_fn]; rfl
  · rw [ofR_md]; decide
  · rw [ofR_tieA]; rfl

theorem fneg (g : Guard) (d : Code) (a : Src) : Statement (.fneg g d a) := by
  intro _ hwf
  refine rtR (io := ?io) (n := 0x10) (r := Raw.ofR _ _ _ _ _ _ _ _ _) (late := false) (mask := 0) (ud := true) (ua := true) (ub := false) (uc := .none)
    ?_ rfl (by decide) (by decide) rfl ?_ (.inl rfl) (.inl rfl) (.inr (ofR_tieB ..)) (.inr ⟨ofR_bit10 .., .inr (ofR_c ..)⟩) ?_ hwf
  rotate_left
  · unfold decodeR; rw [ofR_fn]; rfl
  · rw [ofR_md]; decide
  · rw [ofR_tieA]; rfl

theorem fadd2 (g : Guard) (sat : Bool) (rm : RMode) (t : PkT) (d : Code) (a : Src) (b : Src) : Statement (.fadd2 g sat rm t d a b) := by
  intro _ hwf
  refine rtR (io := ?io) (n := 0x11) (r := Raw.ofR _ _ _ _ _ _ _ _ _) (late := false) (mask := 29) (ud := true) (ua := true) (ub := true) (uc := .none)
    ?_ rfl (by decide) (by decide) rfl ?_ (.inl rfl) (.inl rfl) (.inl rfl) (.inr ⟨ofR_bit10 .., .inr (ofR_c ..)⟩) ?_ hwf
  rotate_left
  · unfold decodeR; rw [ofR_fn]; rfl
  · rw [ofR_md]; cases sat <;> cases rm <;> cases t <;> decide
  · rw [ofR_md, ofR_tieA, ofR_tieB]; cases sat <;> cases rm <;> cases t <;> rfl

theorem fmul2 (g : Guard) (sat : Bool) (rm : RMode) (t : PkT) (d : Code) (a : Src) (b : Src) : Statement (.fmul2 g sat rm t d a b) := by
  intro _ hwf
  refine rtR (io := ?io) (n := 0x11) (r := Raw.ofR _ _ _ _ _ _ _ _ _) (late := false) (mask := 29) (ud := true) (ua := true) (ub := true) (uc := .none)
    ?_ rfl (by decide) (by decide) rfl ?_ (.inl rfl) (.inl rfl) (.inl rfl) (.inr ⟨ofR_bit10 .., .inr (ofR_c ..)⟩) ?_ hwf
  rotate_left
  · unfold decodeR; rw [ofR_fn]; rfl
  · rw [ofR_md]; cases sat <;> cases rm <;> cases t <;> decide
  · rw [ofR_md, ofR_tieA, ofR_tieB]; cases sat <;> cases rm <;> cases t <;> rfl

theorem ffma2 (g : Guard) (sat : Bool) (rm : RMode) (t : PkT) (d : Code) (a : Src) (b : Src) (c : Src) : Statement (.ffma2 g sat rm t d a b c) := by
  intro _ hwf
  refine rtR (io := ?io) (n := 0x11) (r := Raw.ofR _ _ _ _ _ _ _ _ _) (late := false) (mask := 29) (ud := true) (ua := true) (ub := true) (uc := .opnd)
    ?_ rfl (by decide) (by decide) rfl ?_ (.inl rfl) (.inl rfl) (.inl rfl) (.inl rfl) ?_ hwf
  rotate_left
  · unfold decodeR; rw [ofR_fn]; rfl
  · rw [ofR_md]; cases sat <;> cases rm <;> cases t <;> decide
  · rw [ofR_md, ofR_tieA, ofR_tieB, ofR_srcC]; cases sat <;> cases rm <;> cases t <;> rfl

theorem fcmp (g : Guard) (cmp : FCmp) (t : CmT) (d : Code) (a : Src) (b : Src) : Statement (.fcmp g cmp t d a b) := by
  intro _ hwf
  refine rtR (io := ?io) (n := 0x12) (r := Raw.ofR _ _ _ _ _ _ _ _ _) (late := false) (mask := 31) (ud := true) (ua := true) (ub := true) (uc := .none)
    ?_ rfl (by decide) (by decide) rfl ?_ (.inl rfl) (.inl rfl) (.inl rfl) (.inr ⟨ofR_bit10 .., .inr (ofR_c ..)⟩) ?_ hwf
  rotate_left
  · unfold decodeR; rw [ofR_fn]; rfl
  · rw [ofR_md]; cases cmp <;> cases t <;> decide
  · rw [ofR_md, ofR_tieA, ofR_tieB]; cases cmp <;> cases t <;> rfl

theorem fcvt (g : Guard) (rm : RMode) (k : CvKind) (d : Code) (a : Src) : Statement (.fcvt g rm k d a) := by
  intro _ hwf
  refine rtR (io := ?io) (n := 0x13) (r := Raw.ofR _ _ _ _ _ _ _ _ _) (late := false) (mask := 31) (ud := true) (ua := true) (ub := false) (uc := .none)
    ?_ rfl (by decide) (by decide) rfl ?_ (.inl rfl) (.inl rfl) (.inr (ofR_tieB ..)) (.inr ⟨ofR_bit10 .., .inr (ofR_c ..)⟩) ?_ hwf
  rotate_left
  · unfold decodeR; rw [ofR_fn]; rfl
  · rw [ofR_md]; cases rm <;> cases k <;> decide
  · rw [ofR_md, ofR_tieA]; cases rm <;> cases k <;> rfl

theorem fpack (g : Guard) (t : NarT) (sat : Bool) (rs : Bool) (d : Code) (a : Src) (b : Src) (c : Src) : Statement (.fpack g t sat rs d a b c) := by
  intro _ hwf
  refine rtR (io := ?io) (n := 0x13) (r := Raw.ofR _ _ _ _ _ _ _ _ _) (late := false) (mask := 31) (ud := true) (ua := true) (ub := true) (uc := .opnd)
    ?_ rfl (by decide) (by decide) rfl ?_ (.inl rfl) (.inl rfl) (.inl rfl) (.inl rfl) ?_ hwf
  rotate_left
  · unfold decodeR; rw [ofR_fn]; rfl
  · rw [ofR_md]; cases t <;> cases sat <;> cases rs <;> decide
  · rw [ofR_md, ofR_tieA, ofR_tieB, ofR_srcC]; cases t <;> cases sat <;> cases rs <;> rfl

theorem funpk (g : Guard) (t : NarT) (sc : Bool) (d : Code) (a : Src) (b : Src) (c : Src) : Statement (.funpk g t sc d a b c) := by
  intro _ hwf
  refine rtR (io := ?io) (n := 0x13) (r := Raw.ofR _ _ _ _ _ _ _ _ _) (late := false) (mask := 30) (ud := true) (ua := true) (ub := true) (uc := .opnd)
    ?_ rfl (by decide) (by decide) rfl ?_ (.inl rfl) (.inl rfl) (.inl rfl) (.inl rfl) ?_ hwf
  rotate_left
  · unfold decodeR; rw [ofR_fn]; rfl
  · rw [ofR_md]; cases t <;> cases sc <;> decide
  · rw [ofR_md, ofR_tieA, ofR_tieB, ofR_srcC]; cases t <;> cases sc <;> rfl

theorem fex2 (g : Guard) (sat : Bool) (rm : RMode) (d : Code) (a : Src) : Statement (.fex2 g sat rm d a) := by
  intro _ hwf
  refine rtR (io := ?io) (n := 0x14) (r := Raw.ofR _ _ _ _ _ _ _ _ _) (late := false) (mask := 28) (ud := true) (ua := true) (ub := false) (uc := .none)
    ?_ rfl (by decide) (by decide) rfl ?_ (.inl rfl) (.inl rfl) (.inr (ofR_tieB ..)) (.inr ⟨ofR_bit10 .., .inr (ofR_c ..)⟩) ?_ hwf
  rotate_left
  · unfold decodeR; rw [ofR_fn]; rfl
  · rw [ofR_md]; cases sat <;> cases rm <;> decide
  · rw [ofR_md, ofR_tieA]; cases sat <;> cases rm <;> rfl

theorem flg2 (g : Guard) (sat : Bool) (rm : RMode) (d : Code) (a : Src) : Statement (.flg2 g sat rm d a) := by
  intro _ hwf
  refine rtR (io := ?io) (n := 0x14) (r := Raw.ofR _ _ _ _ _ _ _ _ _) (late := false) (mask := 28) (ud := true) (ua := true) (ub := false) (uc := .none)
    ?_ rfl (by decide) (by decide) rfl ?_ (.inl rfl) (.inl rfl) (.inr (ofR_tieB ..)) (.inr ⟨ofR_bit10 .., .inr (ofR_c ..)⟩) ?_ hwf
  rotate_left
  · unfold decodeR; rw [ofR_fn]; rfl
  · rw [ofR_md]; cases sat <;> cases rm <;> decide
  · rw [ofR_md, ofR_tieA]; cases sat <;> cases rm <;> rfl

theorem frcp (g : Guard) (sat : Bool) (d : Code) (a : Src) : Statement (.frcp g sat d a) := by
  intro _ hwf
  refine rtR (io := ?io) (n := 0x14) (r := Raw.ofR _ _ _ _ _ _ _ _ _) (late := false) (mask := 16) (ud := true) (ua := true) (ub := false) (uc := .none)
    ?_ rfl (by decide) (by decide) rfl ?_ (.inl rfl) (.inl rfl) (.inr (ofR_tieB ..)) (.inr ⟨ofR_bit10 .., .inr (ofR_c ..)⟩) ?_ hwf
  rotate_left
  · unfold decodeR; rw [ofR_fn]; rfl
  · rw [ofR_md]; cases sat <;> decide
  · rw [ofR_md, ofR_tieA]; cases sat <;> rfl

theorem frsq (g : Guard) (sat : Bool) (d : Code) (a : Src) : Statement (.frsq g sat d a) := by
  intro _ hwf
  refine rtR (io := ?io) (n := 0x14) (r := Raw.ofR _ _ _ _ _ _ _ _ _) (late := false) (mask := 16) (ud := true) (ua := true) (ub := false) (uc := .none)
    ?_ rfl (by decide) (by decide) rfl ?_ (.inl rfl) (.inl rfl) (.inr (ofR_tieB ..)) (.inr ⟨ofR_bit10 .., .inr (ofR_c ..)⟩) ?_ hwf
  rotate_left
  · unfold decodeR; rw [ofR_fn]; rfl
  · rw [ofR_md]; cases sat <;> decide
  · rw [ofR_md, ofR_tieA]; cases sat <;> rfl

theorem rnd (g : Guard) (out : ROut) (d : Code) (a : Src) (b : Src) (c : Src) : Statement (.rnd g out d a b c) := by
  intro _ hwf
  refine rtR (io := ?io) (n := 0x15) (r := Raw.ofR _ _ _ _ _ _ _ _ _) (late := false) (mask := 3) (ud := true) (ua := true) (ub := true) (uc := .opnd)
    ?_ rfl (by decide) (by decide) rfl ?_ (.inl rfl) (.inl rfl) (.inl rfl) (.inl rfl) ?_ hwf
  rotate_left
  · unfold decodeR; rw [ofR_fn]; rfl
  · rw [ofR_md]; cases out <;> decide
  · rw [ofR_md, ofR_tieA, ofR_tieB, ofR_srcC]; cases out <;> rfl

theorem ld (g : Guard) (h : Hint) (sz : Sz) (d : Code) (a : Src) (off : BitVec 8) : Statement (.ld g h sz d a off) := by
  intro _ hwf
  refine rtR (io := ?io) (n := 0x20) (r := Raw.ofR _ _ _ _ _ _ _ _ _) (late := true) (mask := 31) (ud := true) (ua := true) (ub := false) (uc := .imm)
    ?_ rfl (by decide) (by decide) rfl ?_ (.inl rfl) (.inl rfl) (.inr (ofR_tieB ..)) (.inr ⟨ofR_bit10 .., .inl rfl⟩) ?_ hwf
  rotate_left
  · unfold decodeR; rw [ofR_fn]; rfl
  · rw [ofR_md]; cases h <;> cases sz <;> decide
  · rw [ofR_md, ofR_tieA, ofR_c]; cases h <;> cases sz <;> rfl

theorem st (g : Guard) (stream : Bool) (sz : Sz) (a : Src) (b : Src) (off : BitVec 8) : Statement (.st g stream sz a b off) := by
  intro _ hwf
  refine rtR (io := ?io) (n := 0x21) (r := Raw.ofR _ _ _ _ _ _ _ _ _) (late := false) (mask := 15) (ud := false) (ua := true) (ub := true) (uc := .imm)
    ?_ rfl (by decide) (by decide) rfl ?_ (.inr rfl) (.inl rfl) (.inl rfl) (.inr ⟨ofR_bit10 .., .inl rfl⟩) ?_ hwf
  rotate_left
  · unfold decodeR; rw [ofR_fn]; rfl
  · rw [ofR_md]; cases stream <;> cases sz <;> decide
  · rw [ofR_md, ofR_tieA, ofR_tieB, ofR_c]; cases stream <;> cases sz <;> rfl

theorem pld (g : Guard) (sz : Sz) (d : Code) (a : Src) (off : BitVec 8) : Statement (.pld g sz d a off) := by
  intro _ hwf
  refine rtR (io := ?io) (n := 0x22) (r := Raw.ofR _ _ _ _ _ _ _ _ _) (late := true) (mask := 7) (ud := true) (ua := true) (ub := false) (uc := .imm)
    ?_ rfl (by decide) (by decide) rfl ?_ (.inl rfl) (.inl rfl) (.inr (ofR_tieB ..)) (.inr ⟨ofR_bit10 .., .inl rfl⟩) ?_ hwf
  rotate_left
  · unfold decodeR; rw [ofR_fn]; rfl
  · rw [ofR_md]; cases sz <;> decide
  · rw [ofR_md, ofR_tieA, ofR_c]; cases sz <;> rfl

theorem pst (g : Guard) (sz : Sz) (a : Src) (b : Src) (off : BitVec 8) : Statement (.pst g sz a b off) := by
  intro _ hwf
  refine rtR (io := ?io) (n := 0x23) (r := Raw.ofR _ _ _ _ _ _ _ _ _) (late := false) (mask := 7) (ud := false) (ua := true) (ub := true) (uc := .imm)
    ?_ rfl (by decide) (by decide) rfl ?_ (.inr rfl) (.inl rfl) (.inl rfl) (.inr ⟨ofR_bit10 .., .inl rfl⟩) ?_ hwf
  rotate_left
  · unfold decodeR; rw [ofR_fn]; rfl
  · rw [ofR_md]; cases sz <;> decide
  · rw [ofR_md, ofR_tieA, ofR_tieB, ofR_c]; cases sz <;> rfl

theorem ldp (g : Guard) (pt : BitVec 5) (a : Src) (b : Src) : Statement (.ldp g pt a b) := by
  intro _ hwf
  refine rtR (io := ?io) (n := 0x24) (r := Raw.ofR _ _ _ _ _ _ _ _ _) (late := false) (mask := 31) (ud := false) (ua := true) (ub := true) (uc := .none)
    ?_ rfl (by decide) (by decide) rfl ?_ (.inr rfl) (.inl rfl) (.inl rfl) (.inr ⟨ofR_bit10 .., .inr (ofR_c ..)⟩) ?_ hwf
  rotate_left
  · unfold decodeR; rw [ofR_fn]; rfl
  · rw [ofR_md]; exact md_ldp pt
  · rw [ofR_md, io_ldp, ofR_tieA, ofR_tieB]; rfl

theorem rmw (g : Guard) (fn : AFn) (ty : Ty) (d : Code) (a : Src) (b : Src) (off : BitVec 8) : Statement (.rmw g fn ty d a b off) := by
  intro _ hwf
  refine rtR (n := 0x25) (r := Raw.ofR 0x25 fn.bits8 (fieldAt 5 0 ty.bits) true g d a b (immSrc off)) (mask := 7) (late := true) (ud := true) (ua := true) (ub := true) (uc := .imm)
    (io := (do let f ← AFn.ofBits fn.bits8; let y ← Ty.ofBits ((Raw.ofR 0x25 fn.bits8 (fieldAt 5 0 ty.bits) true g d a b (immSrc off)).md.extractLsb' 0 3)
               some (.rmw g f y d (Raw.ofR 0x25 fn.bits8 (fieldAt 5 0 ty.bits) true g d a b (immSrc off)).srcA (Raw.ofR 0x25 fn.bits8 (fieldAt 5 0 ty.bits) true g d a b (immSrc off)).srcB (Raw.ofR 0x25 fn.bits8 (fieldAt 5 0 ty.bits) true g d a b (immSrc off)).c)))
    ?_ rfl (by decide) (by decide) rfl ?_ (.inl rfl) (.inl rfl) (.inl rfl) (.inr ⟨ofR_bit10 .., .inl rfl⟩) ?_ hwf
  · unfold decodeR; rw [ofR_fn]; cases fn <;> rfl
  · rw [ofR_md]; cases ty <;> decide
  · rw [ofR_md, ofR_tieA, ofR_tieB, ofR_c]; cases fn <;> cases ty <;> rfl

theorem prmw (g : Guard) (fn : AFn) (ty : Ty) (d : Code) (a : Src) (b : Src) (off : BitVec 8) : Statement (.prmw g fn ty d a b off) := by
  intro _ hwf
  refine rtR (n := 0x26) (r := Raw.ofR 0x26 fn.bits8 (fieldAt 5 0 ty.bits) true g d a b (immSrc off)) (mask := 7) (late := true) (ud := true) (ua := true) (ub := true) (uc := .imm)
    (io := (do let f ← AFn.ofBits fn.bits8; let y ← Ty.ofBits ((Raw.ofR 0x26 fn.bits8 (fieldAt 5 0 ty.bits) true g d a b (immSrc off)).md.extractLsb' 0 3)
               some (.prmw g f y d (Raw.ofR 0x26 fn.bits8 (fieldAt 5 0 ty.bits) true g d a b (immSrc off)).srcA (Raw.ofR 0x26 fn.bits8 (fieldAt 5 0 ty.bits) true g d a b (immSrc off)).srcB (Raw.ofR 0x26 fn.bits8 (fieldAt 5 0 ty.bits) true g d a b (immSrc off)).c)))
    ?_ rfl (by decide) (by decide) rfl ?_ (.inl rfl) (.inl rfl) (.inl rfl) (.inr ⟨ofR_bit10 .., .inl rfl⟩) ?_ hwf
  · unfold decodeR; rw [ofR_fn]; cases fn <;> rfl
  · rw [ofR_md]; cases ty <;> decide
  · rw [ofR_md, ofR_tieA, ofR_tieB, ofR_c]; cases fn <;> cases ty <;> rfl

theorem red (g : Guard) (fn : AFn) (ty : Ty) (a : Src) (b : Src) (off : BitVec 8) : Statement (.red g fn ty a b off) := by
  intro _ hwf
  refine rtR (n := 0x27) (r := Raw.ofR 0x27 fn.bits8 (fieldAt 5 0 ty.bits) false g 0 a b (immSrc off)) (mask := 7) (late := false) (ud := false) (ua := true) (ub := true) (uc := .imm)
    (io := (do let f ← AFn.ofBits fn.bits8; let y ← Ty.ofBits ((Raw.ofR 0x27 fn.bits8 (fieldAt 5 0 ty.bits) false g 0 a b (immSrc off)).md.extractLsb' 0 3)
               some (.red g f y (Raw.ofR 0x27 fn.bits8 (fieldAt 5 0 ty.bits) false g 0 a b (immSrc off)).srcA (Raw.ofR 0x27 fn.bits8 (fieldAt 5 0 ty.bits) false g 0 a b (immSrc off)).srcB (Raw.ofR 0x27 fn.bits8 (fieldAt 5 0 ty.bits) false g 0 a b (immSrc off)).c)))
    ?_ rfl (by decide) (by decide) rfl ?_ (.inr rfl) (.inl rfl) (.inl rfl) (.inr ⟨ofR_bit10 .., .inl rfl⟩) ?_ hwf
  · unfold decodeR; rw [ofR_fn]; cases fn <;> rfl
  · rw [ofR_md]; cases ty <;> decide
  · rw [ofR_md, ofR_tieA, ofR_tieB, ofR_c]; cases fn <;> cases ty <;> rfl

theorem fence (g : Guard) (sc : Scope) : Statement (.fence g sc) := by
  intro _ hwf
  refine rtR (io := ?io) (n := 0x28) (r := Raw.ofR _ _ _ _ _ _ _ _ _) (late := false) (mask := 7) (ud := false) (ua := false) (ub := false) (uc := .none)
    ?_ rfl (by decide) (by decide) rfl ?_ (.inr rfl) (.inr (ofR_tieA ..)) (.inr (ofR_tieB ..)) (.inr ⟨ofR_bit10 .., .inr (ofR_c ..)⟩) ?_ hwf
  rotate_left
  · unfold decodeR; rw [ofR_fn]; rfl
  · rw [ofR_md]; cases sc <;> decide
  · rw [ofR_md]; cases sc <;> rfl

theorem fenceLd (g : Guard) : Statement (.fenceLd g) := by
  intro _ hwf
  refine rtR (io := ?io) (n := 0x28) (r := Raw.ofR _ _ _ _ _ _ _ _ _) (late := false) (mask := 0) (ud := false) (ua := false) (ub := false) (uc := .none)
    ?_ rfl (by decide) (by decide) rfl ?_ (.inr rfl) (.inr (ofR_tieA ..)) (.inr (ofR_tieB ..)) (.inr ⟨ofR_bit10 .., .inr (ofR_c ..)⟩) ?_ hwf
  rotate_left
  · unfold decodeR; rw [ofR_fn]; rfl
  · rw [ofR_md]; decide
  · rfl

theorem bank (g : Guard) (m : BMode) (a : Src) (b : Src) : Statement (.bank g m a b) := by
  intro _ hwf
  refine rtR (io := ?io) (n := 0x29) (r := Raw.ofR _ _ _ _ _ _ _ _ _) (late := false) (mask := 3) (ud := false) (ua := true) (ub := true) (uc := .none)
    ?_ rfl (by decide) (by decide) rfl ?_ (.inr rfl) (.inl rfl) (.inl rfl) (.inr ⟨ofR_bit10 .., .inr (ofR_c ..)⟩) ?_ hwf
  rotate_left
  · unfold decodeR; rw [ofR_fn]; rfl
  · rw [ofR_md]; cases m <;> decide
  · rw [ofR_md, ofR_tieA, ofR_tieB]; cases m <;> rfl

theorem bankq (g : Guard) (d : Code) (a : Src) : Statement (.bankq g d a) := by
  intro _ hwf
  refine rtR (io := ?io) (n := 0x2a) (r := Raw.ofR _ _ _ _ _ _ _ _ _) (late := false) (mask := 0) (ud := true) (ua := true) (ub := false) (uc := .none)
    ?_ rfl (by decide) (by decide) rfl ?_ (.inl rfl) (.inl rfl) (.inr (ofR_tieB ..)) (.inr ⟨ofR_bit10 .., .inr (ofR_c ..)⟩) ?_ hwf
  rotate_left
  · unfold decodeR; rw [ofR_fn]; rfl
  · rw [ofR_md]; decide
  · rw [ofR_tieA]; rfl

theorem lease (g : Guard) (len : LLen) : Statement (.lease g len) := by
  intro _ hwf
  refine rtR (io := ?io) (n := 0x2b) (r := Raw.ofR _ _ _ _ _ _ _ _ _) (late := false) (mask := 7) (ud := false) (ua := false) (ub := false) (uc := .none)
    ?_ rfl (by decide) (by decide) rfl ?_ (.inr rfl) (.inr (ofR_tieA ..)) (.inr (ofR_tieB ..)) (.inr ⟨ofR_bit10 .., .inr (ofR_c ..)⟩) ?_ hwf
  rotate_left
  · unfold decodeR; rw [ofR_fn]; rfl
  · rw [ofR_md]; cases len <;> decide
  · rw [ofR_md]; cases len <;> rfl

theorem pref (g : Guard) (lvl : Lvl) (a : Src) (off : BitVec 8) : Statement (.pref g lvl a off) := by
  intro _ hwf
  refine rtR (io := ?io) (n := 0x2c) (r := Raw.ofR _ _ _ _ _ _ _ _ _) (late := false) (mask := 24) (ud := false) (ua := true) (ub := false) (uc := .imm)
    ?_ rfl (by decide) (by decide) rfl ?_ (.inr rfl) (.inl rfl) (.inr (ofR_tieB ..)) (.inr ⟨ofR_bit10 .., .inl rfl⟩) ?_ hwf
  rotate_left
  · unfold decodeR; rw [ofR_fn]; rfl
  · rw [ofR_md]; cases lvl <;> decide
  · rw [ofR_md, ofR_tieA, ofR_c]; cases lvl <;> rfl

theorem qpush (g : Guard) (a : Src) (b : Src) : Statement (.qpush g a b) := by
  intro _ hwf
  refine rtR (io := ?io) (n := 0x2d) (r := Raw.ofR _ _ _ _ _ _ _ _ _) (late := false) (mask := 0) (ud := false) (ua := true) (ub := true) (uc := .none)
    ?_ rfl (by decide) (by decide) rfl ?_ (.inr rfl) (.inl rfl) (.inl rfl) (.inr ⟨ofR_bit10 .., .inr (ofR_c ..)⟩) ?_ hwf
  rotate_left
  · unfold decodeR; rw [ofR_fn]; rfl
  · rw [ofR_md]; decide
  · rw [ofR_tieA, ofR_tieB]; rfl

theorem qpop (g : Guard) (d : Code) (a : Src) : Statement (.qpop g d a) := by
  intro _ hwf
  refine rtR (io := ?io) (n := 0x2e) (r := Raw.ofR _ _ _ _ _ _ _ _ _) (late := true) (mask := 0) (ud := true) (ua := true) (ub := false) (uc := .none)
    ?_ rfl (by decide) (by decide) rfl ?_ (.inl rfl) (.inl rfl) (.inr (ofR_tieB ..)) (.inr ⟨ofR_bit10 .., .inr (ofR_c ..)⟩) ?_ hwf
  rotate_left
  · unfold decodeR; rw [ofR_fn]; rfl
  · rw [ofR_md]; decide
  · rw [ofR_tieA]; rfl

theorem psnt (g : Guard) (w : Bool) (d : Code) (a : Src) : Statement (.psnt g w d a) := by
  intro _ hwf
  refine rtR (io := ?io) (n := 0x30) (r := Raw.ofR _ _ _ _ _ _ _ _ _) (late := false) (mask := 1) (ud := true) (ua := true) (ub := false) (uc := .none)
    ?_ rfl (by decide) (by decide) rfl ?_ (.inl rfl) (.inl rfl) (.inr (ofR_tieB ..)) (.inr ⟨ofR_bit10 .., .inr (ofR_c ..)⟩) ?_ hwf
  rotate_left
  · unfold decodeR; rw [ofR_fn]; rfl
  · rw [ofR_md]; cases w <;> decide
  · rw [ofR_md, ofR_tieA]; cases w <;> rfl

theorem psnc (g : Guard) (w : Bool) (d : Code) : Statement (.psnc g w d) := by
  intro _ hwf
  refine rtR (io := ?io) (n := 0x31) (r := Raw.ofR _ _ _ _ _ _ _ _ _) (late := false) (mask := 1) (ud := true) (ua := false) (ub := false) (uc := .none)
    ?_ rfl (by decide) (by decide) rfl ?_ (.inl rfl) (.inr (ofR_tieA ..)) (.inr (ofR_tieB ..)) (.inr ⟨ofR_bit10 .., .inr (ofR_c ..)⟩) ?_ hwf
  rotate_left
  · unfold decodeR; rw [ofR_fn]; rfl
  · rw [ofR_md]; cases w <;> decide
  · rw [ofR_md]; cases w <;> rfl

theorem xlq (g : Guard) (fill : Bool) (wr : Bool) (d : Code) (a : Src) : Statement (.xlq g fill wr d a) := by
  intro _ hwf
  refine rtR (io := ?io) (n := 0x32) (r := Raw.ofR _ _ _ _ _ _ _ _ _) (late := true) (mask := 3) (ud := true) (ua := true) (ub := false) (uc := .none)
    ?_ rfl (by decide) (by decide) rfl ?_ (.inl rfl) (.inl rfl) (.inr (ofR_tieB ..)) (.inr ⟨ofR_bit10 .., .inr (ofR_c ..)⟩) ?_ hwf
  rotate_left
  · unfold decodeR; rw [ofR_fn]; rfl
  · rw [ofR_md]; cases fill <;> cases wr <;> decide
  · rw [ofR_md, ofR_tieA]; cases fill <;> cases wr <;> rfl

theorem tagr (g : Guard) (d : Code) (a : Src) : Statement (.tagr g d a) := by
  intro _ hwf
  refine rtR (io := ?io) (n := 0x33) (r := Raw.ofR _ _ _ _ _ _ _ _ _) (late := true) (mask := 0) (ud := true) (ua := true) (ub := false) (uc := .none)
    ?_ rfl (by decide) (by decide) rfl ?_ (.inl rfl) (.inl rfl) (.inr (ofR_tieB ..)) (.inr ⟨ofR_bit10 .., .inr (ofR_c ..)⟩) ?_ hwf
  rotate_left
  · unfold decodeR; rw [ofR_fn]; rfl
  · rw [ofR_md]; decide
  · rw [ofR_tieA]; rfl

theorem tagw (g : Guard) (a : Src) (b : Src) : Statement (.tagw g a b) := by
  intro _ hwf
  refine rtR (io := ?io) (n := 0x34) (r := Raw.ofR _ _ _ _ _ _ _ _ _) (late := false) (mask := 0) (ud := false) (ua := true) (ub := true) (uc := .none)
    ?_ rfl (by decide) (by decide) rfl ?_ (.inr rfl) (.inl rfl) (.inl rfl) (.inr ⟨ofR_bit10 .., .inr (ofR_c ..)⟩) ?_ hwf
  rotate_left
  · unfold decodeR; rw [ofR_fn]; rfl
  · rw [ofR_md]; decide
  · rw [ofR_tieA, ofR_tieB]; rfl

theorem copy (g : Guard) (stream : Bool) (sig : Bool) (dp : Bool) (sp : Bool) (d : Code) (a : Code) : Statement (.copy g stream sig dp sp d a) := by
  intro _ hwf
  refine rtP (io := some _) (n := 0x40) (r := Raw.ofP _ _ _ _ _ _) (mask := 23) (fix := 0) (ub := false) ?_ rfl (by decide) (by decide) rfl ?_ (.inr rfl) rfl hwf
  · unfold decodeP; rw [show (Raw.ofP _ _ _ _ _ _).op.toNat = 0x40 from rfl]; dsimp only [Raw.ofP]; cases stream <;> cases sig <;> cases dp <;> cases sp <;> rfl
  · dsimp only [Raw.ofP]; cases stream <;> cases sig <;> cases dp <;> cases sp <;> decide

theorem fill (g : Guard) (stream : Bool) (sig : Bool) (dp : Bool) (d : Code) (a : Code) (b : Code) : Statement (.fill g stream sig dp d a b) := by
  intro _ hwf
  refine rtP (io := some _) (n := 0x41) (r := Raw.ofP _ _ _ _ _ _) (mask := 22) (fix := 0) (ub := true) ?_ rfl (by decide) (by decide) rfl ?_ (.inl rfl) rfl hwf
  · unfold decodeP; rw [show (Raw.ofP _ _ _ _ _ _).op.toNat = 0x41 from rfl]; dsimp only [Raw.ofP]; cases stream <;> cases sig <;> cases dp <;> rfl
  · dsimp only [Raw.ofP]; cases stream <;> cases sig <;> cases dp <;> decide

theorem gath (g : Guard) (stream : Bool) (sig : Bool) (dp : Bool) (sp : Bool) (d : Code) (a : Code) : Statement (.gath g stream sig dp sp d a) := by
  intro _ hwf
  refine rtP (io := some _) (n := 0x42) (r := Raw.ofP _ _ _ _ _ _) (mask := 23) (fix := 0) (ub := false) ?_ rfl (by decide) (by decide) rfl ?_ (.inr rfl) rfl hwf
  · unfold decodeP; rw [show (Raw.ofP _ _ _ _ _ _).op.toNat = 0x42 from rfl]; dsimp only [Raw.ofP]; cases stream <;> cases sig <;> cases dp <;> cases sp <;> rfl
  · dsimp only [Raw.ofP]; cases stream <;> cases sig <;> cases dp <;> cases sp <;> decide

theorem scat (g : Guard) (stream : Bool) (sig : Bool) (dp : Bool) (sp : Bool) (d : Code) (a : Code) : Statement (.scat g stream sig dp sp d a) := by
  intro _ hwf
  refine rtP (io := some _) (n := 0x43) (r := Raw.ofP _ _ _ _ _ _) (mask := 23) (fix := 0) (ub := false) ?_ rfl (by decide) (by decide) rfl ?_ (.inr rfl) rfl hwf
  · unfold decodeP; rw [show (Raw.ofP _ _ _ _ _ _).op.toNat = 0x43 from rfl]; dsimp only [Raw.ofP]; cases stream <;> cases sig <;> cases dp <;> cases sp <;> rfl
  · dsimp only [Raw.ofP]; cases stream <;> cases sig <;> cases dp <;> cases sp <;> decide

theorem copy2d (g : Guard) (stream : Bool) (sig : Bool) (dp : Bool) (sp : Bool) (d : Code) (a : Code) : Statement (.copy2d g stream sig dp sp d a) := by
  intro _ hwf
  refine rtP (io := some _) (n := 0x44) (r := Raw.ofP _ _ _ _ _ _) (mask := 23) (fix := 0) (ub := false) ?_ rfl (by decide) (by decide) rfl ?_ (.inr rfl) rfl hwf
  · unfold decodeP; rw [show (Raw.ofP _ _ _ _ _ _).op.toNat = 0x44 from rfl]; dsimp only [Raw.ofP]; cases stream <;> cases sig <;> cases dp <;> cases sp <;> rfl
  · dsimp only [Raw.ofP]; cases stream <;> cases sig <;> cases dp <;> cases sp <;> decide

theorem publish (g : Guard) (d : Code) (a : Code) (b : Code) : Statement (.publish g d a b) := by
  intro _ hwf
  refine rtP (io := some _) (n := 0x45) (r := Raw.ofP _ _ _ _ _ _) (mask := 0) (fix := 0) (ub := true) ?_ rfl (by decide) (by decide) rfl ?_ (.inl rfl) rfl hwf
  · unfold decodeP; rw [show (Raw.ofP _ _ _ _ _ _).op.toNat = 0x45 from rfl]; rfl
  · dsimp only [Raw.ofP]; decide

theorem smerge (g : Guard) (ord : Bool) (d : Code) (a : Code) : Statement (.smerge g ord d a) := by
  intro _ hwf
  refine rtP (io := some _) (n := 0x46) (r := Raw.ofP _ _ _ _ _ _) (mask := 1) (fix := 0) (ub := false) ?_ rfl (by decide) (by decide) rfl ?_ (.inr rfl) rfl hwf
  · unfold decodeP; rw [show (Raw.ofP _ _ _ _ _ _).op.toNat = 0x46 from rfl]; dsimp only [Raw.ofP]; cases ord <;> rfl
  · dsimp only [Raw.ofP]; cases ord <;> decide

theorem shadow (g : Guard) (d : Code) (a : Code) (b : Code) : Statement (.shadow g d a b) := by
  intro _ hwf
  refine rtP (io := some _) (n := 0x47) (r := Raw.ofP _ _ _ _ _ _) (mask := 0) (fix := 0) (ub := true) ?_ rfl (by decide) (by decide) rfl ?_ (.inl rfl) rfl hwf
  · unfold decodeP; rw [show (Raw.ofP _ _ _ _ _ _).op.toNat = 0x47 from rfl]; rfl
  · dsimp only [Raw.ofP]; decide

theorem shadowClose (g : Guard) (d : Code) (a : Code) (b : Code) : Statement (.shadowClose g d a b) := by
  intro _ hwf
  refine rtP (io := some _) (n := 0x47) (r := Raw.ofP _ _ _ _ _ _) (mask := 0) (fix := 1) (ub := true) ?_ rfl (by decide) (by decide) rfl ?_ (.inl rfl) rfl hwf
  · unfold decodeP; rw [show (Raw.ofP _ _ _ _ _ _).op.toNat = 0x47 from rfl]; rfl
  · dsimp only [Raw.ofP]; decide

theorem cpq (g : Guard) (occ : Bool) (d : Code) (a : Code) (b : Code) : Statement (.cpq g occ d a b) := by
  intro _ hwf
  refine rtP (io := some _) (n := 0x48) (r := Raw.ofP _ _ _ _ _ _) (mask := 1) (fix := 0) (ub := true) ?_ rfl (by decide) (by decide) rfl ?_ (.inl rfl) rfl hwf
  · unfold decodeP; rw [show (Raw.ofP _ _ _ _ _ _).op.toNat = 0x48 from rfl]; dsimp only [Raw.ofP]; cases occ <;> rfl
  · dsimp only [Raw.ofP]; cases occ <;> decide

theorem push (g : Guard) (st : Bool) (w : Bool) (a : Src) (b : Src) : Statement (.push g st w a b) := by
  intro _ hwf
  refine rtR (io := ?io) (n := 0x50) (r := Raw.ofR _ _ _ _ _ _ _ _ _) (late := false) (mask := 3) (ud := false) (ua := true) (ub := true) (uc := .none)
    ?_ rfl (by decide) (by decide) rfl ?_ (.inr rfl) (.inl rfl) (.inl rfl) (.inr ⟨ofR_bit10 .., .inr (ofR_c ..)⟩) ?_ hwf
  rotate_left
  · unfold decodeR; rw [ofR_fn]; rfl
  · rw [ofR_md]; cases st <;> cases w <;> decide
  · rw [ofR_md, ofR_tieA, ofR_tieB]; cases st <;> cases w <;> rfl

theorem pop (g : Guard) (w : Bool) (d : Code) (a : Src) : Statement (.pop g w d a) := by
  intro _ hwf
  refine rtR (io := ?io) (n := 0x51) (r := Raw.ofR _ _ _ _ _ _ _ _ _) (late := true) (mask := 1) (ud := true) (ua := true) (ub := false) (uc := .none)
    ?_ rfl (by decide) (by decide) rfl ?_ (.inl rfl) (.inl rfl) (.inr (ofR_tieB ..)) (.inr ⟨ofR_bit10 .., .inr (ofR_c ..)⟩) ?_ hwf
  rotate_left
  · unfold decodeR; rw [ofR_fn]; rfl
  · rw [ofR_md]; cases w <;> decide
  · rw [ofR_md, ofR_tieA]; cases w <;> rfl

theorem poll (g : Guard) (d : Code) (a : Src) : Statement (.poll g d a) := by
  intro _ hwf
  refine rtR (io := ?io) (n := 0x52) (r := Raw.ofR _ _ _ _ _ _ _ _ _) (late := true) (mask := 0) (ud := true) (ua := true) (ub := false) (uc := .none)
    ?_ rfl (by decide) (by decide) rfl ?_ (.inl rfl) (.inl rfl) (.inr (ofR_tieB ..)) (.inr ⟨ofR_bit10 .., .inr (ofR_c ..)⟩) ?_ hwf
  rotate_left
  · unfold decodeR; rw [ofR_fn]; rfl
  · rw [ofR_md]; decide
  · rw [ofR_tieA]; rfl

theorem stamp (g : Guard) (d : Code) (a : Src) (b : Src) : Statement (.stamp g d a b) := by
  intro _ hwf
  refine rtR (io := ?io) (n := 0x53) (r := Raw.ofR _ _ _ _ _ _ _ _ _) (late := true) (mask := 0) (ud := true) (ua := true) (ub := true) (uc := .none)
    ?_ rfl (by decide) (by decide) rfl ?_ (.inl rfl) (.inl rfl) (.inl rfl) (.inr ⟨ofR_bit10 .., .inr (ofR_c ..)⟩) ?_ hwf
  rotate_left
  · unfold decodeR; rw [ofR_fn]; rfl
  · rw [ofR_md]; decide
  · rw [ofR_tieA, ofR_tieB]; rfl

theorem rput (g : Guard) (a : Src) (b : Src) (c : Src) : Statement (.rput g a b c) := by
  intro _ hwf
  refine rtR (io := ?io) (n := 0x54) (r := Raw.ofR _ _ _ _ _ _ _ _ _) (late := false) (mask := 0) (ud := false) (ua := true) (ub := true) (uc := .opnd)
    ?_ rfl (by decide) (by decide) rfl ?_ (.inr rfl) (.inl rfl) (.inl rfl) (.inl rfl) ?_ hwf
  rotate_left
  · unfold decodeR; rw [ofR_fn]; rfl
  · rw [ofR_md]; decide
  · rw [ofR_tieA, ofR_tieB, ofR_srcC]; rfl

theorem rtake (g : Guard) (d : Code) (a : Src) : Statement (.rtake g d a) := by
  intro _ hwf
  refine rtR (io := ?io) (n := 0x55) (r := Raw.ofR _ _ _ _ _ _ _ _ _) (late := true) (mask := 0) (ud := true) (ua := true) (ub := false) (uc := .none)
    ?_ rfl (by decide) (by decide) rfl ?_ (.inl rfl) (.inl rfl) (.inr (ofR_tieB ..)) (.inr ⟨ofR_bit10 .., .inr (ofR_c ..)⟩) ?_ hwf
  rotate_left
  · unfold decodeR; rw [ofR_fn]; rfl
  · rw [ofR_md]; decide
  · rw [ofR_tieA]; rfl

theorem arrive (g : Guard) (a : Src) (b : Src) : Statement (.arrive g a b) := by
  intro _ hwf
  refine rtR (io := ?io) (n := 0x56) (r := Raw.ofR _ _ _ _ _ _ _ _ _) (late := false) (mask := 0) (ud := false) (ua := true) (ub := true) (uc := .none)
    ?_ rfl (by decide) (by decide) rfl ?_ (.inr rfl) (.inl rfl) (.inl rfl) (.inr ⟨ofR_bit10 .., .inr (ofR_c ..)⟩) ?_ hwf
  rotate_left
  · unfold decodeR; rw [ofR_fn]; rfl
  · rw [ofR_md]; decide
  · rw [ofR_tieA, ofR_tieB]; rfl

theorem await (g : Guard) (d : Code) (a : Src) (b : Src) : Statement (.await g d a b) := by
  intro _ hwf
  refine rtR (io := ?io) (n := 0x57) (r := Raw.ofR _ _ _ _ _ _ _ _ _) (late := true) (mask := 0) (ud := true) (ua := true) (ub := true) (uc := .none)
    ?_ rfl (by decide) (by decide) rfl ?_ (.inl rfl) (.inl rfl) (.inl rfl) (.inr ⟨ofR_bit10 .., .inr (ofR_c ..)⟩) ?_ hwf
  rotate_left
  · unfold decodeR; rw [ofR_fn]; rfl
  · rw [ofR_md]; decide
  · rw [ofR_tieA, ofR_tieB]; rfl

theorem expect (g : Guard) (a : Src) (b : Src) : Statement (.expect g a b) := by
  intro _ hwf
  refine rtR (io := ?io) (n := 0x58) (r := Raw.ofR _ _ _ _ _ _ _ _ _) (late := false) (mask := 0) (ud := false) (ua := true) (ub := true) (uc := .none)
    ?_ rfl (by decide) (by decide) rfl ?_ (.inr rfl) (.inl rfl) (.inl rfl) (.inr ⟨ofR_bit10 .., .inr (ofR_c ..)⟩) ?_ hwf
  rotate_left
  · unfold decodeR; rw [ofR_fn]; rfl
  · rw [ofR_md]; decide
  · rw [ofR_tieA, ofR_tieB]; rfl

theorem cwr (g : Guard) (a : Src) (b : Src) : Statement (.cwr g a b) := by
  intro _ hwf
  refine rtR (io := ?io) (n := 0x59) (r := Raw.ofR _ _ _ _ _ _ _ _ _) (late := false) (mask := 0) (ud := false) (ua := true) (ub := true) (uc := .none)
    ?_ rfl (by decide) (by decide) rfl ?_ (.inr rfl) (.inl rfl) (.inl rfl) (.inr ⟨ofR_bit10 .., .inr (ofR_c ..)⟩) ?_ hwf
  rotate_left
  · unfold decodeR; rw [ofR_fn]; rfl
  · rw [ofR_md]; decide
  · rw [ofR_tieA, ofR_tieB]; rfl

theorem waitw (g : Guard) (a : Src) (b : Src) : Statement (.waitw g a b) := by
  intro _ hwf
  refine rtR (io := ?io) (n := 0x5a) (r := Raw.ofR _ _ _ _ _ _ _ _ _) (late := false) (mask := 0) (ud := false) (ua := true) (ub := true) (uc := .none)
    ?_ rfl (by decide) (by decide) rfl ?_ (.inr rfl) (.inl rfl) (.inl rfl) (.inr ⟨ofR_bit10 .., .inr (ofR_c ..)⟩) ?_ hwf
  rotate_left
  · unfold decodeR; rw [ofR_fn]; rfl
  · rw [ofR_md]; decide
  · rw [ofR_tieA, ofR_tieB]; rfl

theorem phcfgCreate (g : Guard) (d : Code) (a : Code) (b : Code) : Statement (.phcfgCreate g d a b) := by
  intro _ hwf
  refine rtP (io := some _) (n := 0x5b) (r := Raw.ofP _ _ _ _ _ _) (mask := 0) (fix := 0) (ub := true) ?_ rfl (by decide) (by decide) rfl ?_ (.inl rfl) rfl hwf
  · unfold decodeP; rw [show (Raw.ofP _ _ _ _ _ _).op.toNat = 0x5b from rfl]; rfl
  · dsimp only [Raw.ofP]; decide

theorem phcfgDestroy (g : Guard) (d : Code) (a : Code) (b : Code) : Statement (.phcfgDestroy g d a b) := by
  intro _ hwf
  refine rtP (io := some _) (n := 0x5b) (r := Raw.ofP _ _ _ _ _ _) (mask := 0) (fix := 1) (ub := true) ?_ rfl (by decide) (by decide) rfl ?_ (.inl rfl) rfl hwf
  · unfold decodeP; rw [show (Raw.ofP _ _ _ _ _ _).op.toNat = 0x5b from rfl]; rfl
  · dsimp only [Raw.ofP]; decide

theorem phq (g : Guard) (d : Code) (a : Code) (b : Code) : Statement (.phq g d a b) := by
  intro _ hwf
  refine rtP (io := some _) (n := 0x5c) (r := Raw.ofP _ _ _ _ _ _) (mask := 0) (fix := 0) (ub := true) ?_ rfl (by decide) (by decide) rfl ?_ (.inl rfl) rfl hwf
  · unfold decodeP; rw [show (Raw.ofP _ _ _ _ _ _).op.toNat = 0x5c from rfl]; rfl
  · dsimp only [Raw.ofP]; decide

theorem post (g : Guard) (pmk : Bool) (par : Bool) (gx : Bool) (d : Code) (a : Code) (b : Code) : Statement (.post g pmk par gx d a b) := by
  intro _ hwf
  refine rtP (io := some _) (n := 0x60) (r := Raw.ofP _ _ _ _ _ _) (mask := 7) (fix := 0) (ub := true) ?_ rfl (by decide) (by decide) rfl ?_ (.inl rfl) rfl hwf
  · unfold decodeP; rw [show (Raw.ofP _ _ _ _ _ _).op.toNat = 0x60 from rfl]; dsimp only [Raw.ofP]; cases pmk <;> cases par <;> cases gx <;> rfl
  · dsimp only [Raw.ofP]; cases pmk <;> cases par <;> cases gx <;> decide

theorem accept (g : Guard) (a : Src) (b : Src) : Statement (.accept g a b) := by
  intro _ hwf
  refine rtR (io := ?io) (n := 0x61) (r := Raw.ofR _ _ _ _ _ _ _ _ _) (late := false) (mask := 0) (ud := false) (ua := true) (ub := true) (uc := .none)
    ?_ rfl (by decide) (by decide) rfl ?_ (.inr rfl) (.inl rfl) (.inl rfl) (.inr ⟨ofR_bit10 .., .inr (ofR_c ..)⟩) ?_ hwf
  rotate_left
  · unfold decodeR; rw [ofR_fn]; rfl
  · rw [ofR_md]; decide
  · rw [ofR_tieA, ofR_tieB]; rfl

theorem pshare (g : Guard) (keepe : Bool) (expert : Bool) (d : Code) (a : Code) : Statement (.pshare g keepe expert d a) := by
  intro _ hwf
  refine rtP (io := some _) (n := 0x62) (r := Raw.ofP _ _ _ _ _ _) (mask := 3) (fix := 0) (ub := false) ?_ rfl (by decide) (by decide) rfl ?_ (.inr rfl) rfl hwf
  · unfold decodeP; rw [show (Raw.ofP _ _ _ _ _ _).op.toNat = 0x62 from rfl]; dsimp only [Raw.ofP]; cases keepe <;> cases expert <;> rfl
  · dsimp only [Raw.ofP]; cases keepe <;> cases expert <;> decide

theorem opclass (g : Guard) (d : Code) (a : Code) (b : Code) : Statement (.opclass g d a b) := by
  intro _ hwf
  refine rtP (io := some _) (n := 0x63) (r := Raw.ofP _ _ _ _ _ _) (mask := 0) (fix := 0) (ub := true) ?_ rfl (by decide) (by decide) rfl ?_ (.inl rfl) rfl hwf
  · unfold decodeP; rw [show (Raw.ofP _ _ _ _ _ _).op.toNat = 0x63 from rfl]; rfl
  · dsimp only [Raw.ofP]; decide

theorem cwait (g : Guard) (all : Bool) (d : Code) (a : Code) (b : Code) : Statement (.cwait g all d a b) := by
  intro _ hwf
  refine rtP (io := some _) (n := 0x64) (r := Raw.ofP _ _ _ _ _ _) (mask := 1) (fix := 0) (ub := true) ?_ rfl (by decide) (by decide) rfl ?_ (.inl rfl) rfl hwf
  · unfold decodeP; rw [show (Raw.ofP _ _ _ _ _ _).op.toNat = 0x64 from rfl]; dsimp only [Raw.ofP]; cases all <;> rfl
  · dsimp only [Raw.ofP]; cases all <;> decide

theorem bleft (g : Guard) (d : Code) : Statement (.bleft g d) := by
  intro _ hwf
  refine rtR (io := ?io) (n := 0x65) (r := Raw.ofR _ _ _ _ _ _ _ _ _) (late := false) (mask := 0) (ud := true) (ua := false) (ub := false) (uc := .none)
    ?_ rfl (by decide) (by decide) rfl ?_ (.inl rfl) (.inr (ofR_tieA ..)) (.inr (ofR_tieB ..)) (.inr ⟨ofR_bit10 .., .inr (ofR_c ..)⟩) ?_ hwf
  rotate_left
  · unfold decodeR; rw [ofR_fn]; rfl
  · rw [ofR_md]; decide
  · rfl

theorem preempt (g : Guard) (d : Code) (a : Code) (b : Code) : Statement (.preempt g d a b) := by
  intro _ hwf
  refine rtP (io := some _) (n := 0x66) (r := Raw.ofP _ _ _ _ _ _) (mask := 0) (fix := 0) (ub := true) ?_ rfl (by decide) (by decide) rfl ?_ (.inl rfl) rfl hwf
  · unfold decodeP; rw [show (Raw.ofP _ _ _ _ _ _).op.toNat = 0x66 from rfl]; rfl
  · dsimp only [Raw.ofP]; decide

theorem preemptResume (g : Guard) (d : Code) (a : Code) (b : Code) : Statement (.preemptResume g d a b) := by
  intro _ hwf
  refine rtP (io := some _) (n := 0x66) (r := Raw.ofP _ _ _ _ _ _) (mask := 0) (fix := 1) (ub := true) ?_ rfl (by decide) (by decide) rfl ?_ (.inl rfl) rfl hwf
  · unfold decodeP; rw [show (Raw.ofP _ _ _ _ _ _).op.toNat = 0x66 from rfl]; rfl
  · dsimp only [Raw.ofP]; decide

theorem pquery (g : Guard) (d : Code) (a : Code) : Statement (.pquery g d a) := by
  intro _ hwf
  refine rtP (io := some _) (n := 0x67) (r := Raw.ofP _ _ _ _ _ _) (mask := 0) (fix := 0) (ub := false) ?_ rfl (by decide) (by decide) rfl ?_ (.inr rfl) rfl hwf
  · unfold decodeP; rw [show (Raw.ofP _ _ _ _ _ _).op.toNat = 0x67 from rfl]; rfl
  · dsimp only [Raw.ofP]; decide

theorem mmul (g : Guard) (scb : Bool) (sca : Bool) (acc : Bool) (d : Code) (a : Code) : Statement (.mmul g scb sca acc d a) := by
  intro _ hwf
  refine rtP (io := some _) (n := 0x70) (r := Raw.ofP _ _ _ _ _ _) (mask := 7) (fix := 0) (ub := false) ?_ rfl (by decide) (by decide) rfl ?_ (.inr rfl) rfl hwf
  · unfold decodeP; rw [show (Raw.ofP _ _ _ _ _ _).op.toNat = 0x70 from rfl]; dsimp only [Raw.ofP]; cases scb <;> cases sca <;> cases acc <;> rfl
  · dsimp only [Raw.ofP]; cases scb <;> cases sca <;> cases acc <;> decide

theorem bfill (g : Guard) (tr : Bool) (sp : Bool) (d : Code) (a : Code) : Statement (.bfill g tr sp d a) := by
  intro _ hwf
  refine rtP (io := some _) (n := 0x71) (r := Raw.ofP _ _ _ _ _ _) (mask := 3) (fix := 0) (ub := false) ?_ rfl (by decide) (by decide) rfl ?_ (.inr rfl) rfl hwf
  · unfold decodeP; rw [show (Raw.ofP _ _ _ _ _ _).op.toNat = 0x71 from rfl]; dsimp only [Raw.ofP]; cases tr <;> cases sp <;> rfl
  · dsimp only [Raw.ofP]; cases tr <;> cases sp <;> decide

theorem azero (g : Guard) (d : Code) (a : Code) : Statement (.azero g d a) := by
  intro _ hwf
  refine rtP (io := some _) (n := 0x72) (r := Raw.ofP _ _ _ _ _ _) (mask := 0) (fix := 0) (ub := false) ?_ rfl (by decide) (by decide) rfl ?_ (.inr rfl) rfl hwf
  · unfold decodeP; rw [show (Raw.ofP _ _ _ _ _ _).op.toNat = 0x72 from rfl]; rfl
  · dsimp only [Raw.ofP]; decide

theorem aread (g : Guard) (scl : Bool) (dp : Bool) (sat : Bool) (rm : RMode) (d : Code) (a : Code) : Statement (.aread g scl dp sat rm d a) := by
  intro _ hwf
  refine rtP (io := some _) (n := 0x73) (r := Raw.ofP _ _ _ _ _ _) (mask := 31) (fix := 0) (ub := false) ?_ rfl (by decide) (by decide) rfl ?_ (.inr rfl) rfl hwf
  · unfold decodeP; rw [show (Raw.ofP _ _ _ _ _ _).op.toNat = 0x73 from rfl]; dsimp only [Raw.ofP]; cases scl <;> cases dp <;> cases sat <;> cases rm <;> rfl
  · dsimp only [Raw.ofP]; cases scl <;> cases dp <;> cases sat <;> cases rm <;> decide

theorem aepi (g : Guard) (resc : Bool) (exp : Bool) (d : Code) (a : Code) : Statement (.aepi g resc exp d a) := by
  intro _ hwf
  refine rtP (io := some _) (n := 0x74) (r := Raw.ofP _ _ _ _ _ _) (mask := 3) (fix := 0) (ub := false) ?_ rfl (by decide) (by decide) rfl ?_ (.inr rfl) rfl hwf
  · unfold decodeP; rw [show (Raw.ofP _ _ _ _ _ _).op.toNat = 0x74 from rfl]; dsimp only [Raw.ofP]; cases resc <;> cases exp <;> rfl
  · dsimp only [Raw.ofP]; cases resc <;> cases exp <;> decide

theorem rqt (g : Guard) (bd : Bool) (d : Code) (a : Code) : Statement (.rqt g bd d a) := by
  intro _ hwf
  refine rtP (io := some _) (n := 0x75) (r := Raw.ofP _ _ _ _ _ _) (mask := 1) (fix := 0) (ub := false) ?_ rfl (by decide) (by decide) rfl ?_ (.inr rfl) rfl hwf
  · unfold decodeP; rw [show (Raw.ofP _ _ _ _ _ _).op.toNat = 0x75 from rfl]; dsimp only [Raw.ofP]; cases bd <;> rfl
  · dsimp only [Raw.ofP]; cases bd <;> decide

theorem mattn (g : Guard) (scb : Bool) (sca : Bool) (acc : Bool) (d : Code) (a : Code) : Statement (.mattn g scb sca acc d a) := by
  intro _ hwf
  refine rtP (io := some _) (n := 0x76) (r := Raw.ofP _ _ _ _ _ _) (mask := 7) (fix := 0) (ub := false) ?_ rfl (by decide) (by decide) rfl ?_ (.inr rfl) rfl hwf
  · unfold decodeP; rw [show (Raw.ofP _ _ _ _ _ _).op.toNat = 0x76 from rfl]; dsimp only [Raw.ofP]; cases scb <;> cases sca <;> cases acc <;> rfl
  · dsimp only [Raw.ofP]; cases scb <;> cases sca <;> cases acc <;> decide

theorem aalloc (g : Guard) (d : Code) (a : Code) (b : Code) : Statement (.aalloc g d a b) := by
  intro _ hwf
  refine rtP (io := some _) (n := 0x77) (r := Raw.ofP _ _ _ _ _ _) (mask := 0) (fix := 0) (ub := true) ?_ rfl (by decide) (by decide) rfl ?_ (.inl rfl) rfl hwf
  · unfold decodeP; rw [show (Raw.ofP _ _ _ _ _ _).op.toNat = 0x77 from rfl]; rfl
  · dsimp only [Raw.ofP]; decide

theorem mstat (g : Guard) (d : Code) (a : Code) : Statement (.mstat g d a) := by
  intro _ hwf
  refine rtP (io := some _) (n := 0x78) (r := Raw.ofP _ _ _ _ _ _) (mask := 0) (fix := 0) (ub := false) ?_ rfl (by decide) (by decide) rfl ?_ (.inr rfl) rfl hwf
  · unfold decodeP; rw [show (Raw.ofP _ _ _ _ _ _).op.toNat = 0x78 from rfl]; rfl
  · dsimp only [Raw.ofP]; decide

theorem topk (g : Guard) (dp : Bool) (sp : Bool) (d : Code) (a : Code) : Statement (.topk g dp sp d a) := by
  intro _ hwf
  refine rtP (io := some _) (n := 0x80) (r := Raw.ofP _ _ _ _ _ _) (mask := 3) (fix := 0) (ub := false) ?_ rfl (by decide) (by decide) rfl ?_ (.inr rfl) rfl hwf
  · unfold decodeP; rw [show (Raw.ofP _ _ _ _ _ _).op.toNat = 0x80 from rfl]; dsimp only [Raw.ofP]; cases dp <;> cases sp <;> rfl
  · dsimp only [Raw.ofP]; cases dp <;> cases sp <;> decide

theorem selm (g : Guard) (dp : Bool) (sp : Bool) (d : Code) (a : Code) : Statement (.selm g dp sp d a) := by
  intro _ hwf
  refine rtP (io := some _) (n := 0x81) (r := Raw.ofP _ _ _ _ _ _) (mask := 3) (fix := 0) (ub := false) ?_ rfl (by decide) (by decide) rfl ?_ (.inr rfl) rfl hwf
  · unfold decodeP; rw [show (Raw.ofP _ _ _ _ _ _).op.toNat = 0x81 from rfl]; dsimp only [Raw.ofP]; cases dp <;> cases sp <;> rfl
  · dsimp only [Raw.ofP]; cases dp <;> cases sp <;> decide

theorem sdraw (g : Guard) (raw : Bool) (greedy : Bool) (dp : Bool) (sp : Bool) (d : Code) (a : Code) (b : Code) : Statement (.sdraw g raw greedy dp sp d a b) := by
  intro _ hwf
  refine rtP (io := some _) (n := 0x82) (r := Raw.ofP _ _ _ _ _ _) (mask := 15) (fix := 0) (ub := true) ?_ rfl (by decide) (by decide) rfl ?_ (.inl rfl) rfl hwf
  · unfold decodeP; rw [show (Raw.ofP _ _ _ _ _ _).op.toNat = 0x82 from rfl]; dsimp only [Raw.ofP]; cases raw <;> cases greedy <;> cases dp <;> cases sp <;> rfl
  · dsimp only [Raw.ofP]; cases raw <;> cases greedy <;> cases dp <;> cases sp <;> decide

theorem hook (g : Guard) (d : Code) (a : Code) : Statement (.hook g d a) := by
  intro _ hwf
  refine rtP (io := some _) (n := 0x83) (r := Raw.ofP _ _ _ _ _ _) (mask := 0) (fix := 0) (ub := false) ?_ rfl (by decide) (by decide) rfl ?_ (.inr rfl) rfl hwf
  · unfold decodeP; rw [show (Raw.ofP _ _ _ _ _ _).op.toNat = 0x83 from rfl]; rfl
  · dsimp only [Raw.ofP]; decide

theorem hist (g : Guard) (acc : Bool) (sp : Bool) (d : Code) (a : Code) : Statement (.hist g acc sp d a) := by
  intro _ hwf
  refine rtP (io := some _) (n := 0x84) (r := Raw.ofP _ _ _ _ _ _) (mask := 3) (fix := 0) (ub := false) ?_ rfl (by decide) (by decide) rfl ?_ (.inr rfl) rfl hwf
  · unfold decodeP; rw [show (Raw.ofP _ _ _ _ _ _).op.toNat = 0x84 from rfl]; dsimp only [Raw.ofP]; cases acc <;> cases sp <;> rfl
  · dsimp only [Raw.ofP]; cases acc <;> cases sp <;> decide

theorem fork (g : Guard) (d : Code) (a : Code) : Statement (.fork g d a) := by
  intro _ hwf
  refine rtP (io := some _) (n := 0x90) (r := Raw.ofP _ _ _ _ _ _) (mask := 0) (fix := 0) (ub := false) ?_ rfl (by decide) (by decide) rfl ?_ (.inr rfl) rfl hwf
  · unfold decodeP; rw [show (Raw.ofP _ _ _ _ _ _).op.toNat = 0x90 from rfl]; rfl
  · dsimp only [Raw.ofP]; decide

end Sys2Proof.Laws.RoundTrip

namespace Sys2Proof.Laws

open Sys2Proof RoundTrip

theorem RoundTrip.seal (g : Guard) (d : Code) (a : Code) (b : Code) : Statement (.seal g d a b) := by
  intro _ hwf
  refine rtP (io := some _) (n := 0x91) (r := Raw.ofP _ _ _ _ _ _) (mask := 0) (fix := 0) (ub := true) ?_ rfl (by decide) (by decide) rfl ?_ (.inl rfl) rfl hwf
  · unfold decodeP; rw [show (Raw.ofP _ _ _ _ _ _).op.toNat = 0x91 from rfl]; rfl
  · dsimp only [Raw.ofP]; decide

end Sys2Proof.Laws

namespace Sys2Proof.Laws.RoundTrip

open Sys2Proof

theorem shred (g : Guard) (d : Code) (a : Code) (b : Code) : Statement (.shred g d a b) := by
  intro _ hwf
  refine rtP (io := some _) (n := 0x92) (r := Raw.ofP _ _ _ _ _ _) (mask := 0) (fix := 0) (ub := true) ?_ rfl (by decide) (by decide) rfl ?_ (.inl rfl) rfl hwf
  · unfold decodeP; rw [show (Raw.ofP _ _ _ _ _ _).op.toNat = 0x92 from rfl]; rfl
  · dsimp only [Raw.ofP]; decide

theorem abrt (g : Guard) (kl : Bool) (a : Src) : Statement (.abrt g kl a) := by
  intro _ hwf
  refine rtR (io := ?io) (n := 0x93) (r := Raw.ofR _ _ _ _ _ _ _ _ _) (late := false) (mask := 1) (ud := false) (ua := true) (ub := false) (uc := .none)
    ?_ rfl (by decide) (by decide) rfl ?_ (.inr rfl) (.inl rfl) (.inr (ofR_tieB ..)) (.inr ⟨ofR_bit10 .., .inr (ofR_c ..)⟩) ?_ hwf
  rotate_left
  · unfold decodeR; rw [ofR_fn]; rfl
  · rw [ofR_md]; cases kl <;> decide
  · rw [ofR_md, ofR_tieA]; cases kl <;> rfl

theorem frq (g : Guard) (which : FrqSel) (d : Code) : Statement (.frq g which d) := by
  intro _ hwf
  refine rtR (io := ?io) (n := 0x94) (r := Raw.ofR _ _ _ _ _ _ _ _ _) (late := false) (mask := 3) (ud := true) (ua := false) (ub := false) (uc := .none)
    ?_ rfl (by decide) (by decide) rfl ?_ (.inl rfl) (.inr (ofR_tieA ..)) (.inr (ofR_tieB ..)) (.inr ⟨ofR_bit10 .., .inr (ofR_c ..)⟩) ?_ hwf
  rotate_left
  · unfold decodeR; rw [ofR_fn]; rfl
  · rw [ofR_md]; cases which <;> decide
  · rw [ofR_md]; cases which <;> rfl

theorem tsq (g : Guard) (d : Code) : Statement (.tsq g d) := by
  intro _ hwf
  refine rtR (io := ?io) (n := 0x95) (r := Raw.ofR _ _ _ _ _ _ _ _ _) (late := false) (mask := 0) (ud := true) (ua := false) (ub := false) (uc := .none)
    ?_ rfl (by decide) (by decide) rfl ?_ (.inl rfl) (.inr (ofR_tieA ..)) (.inr (ofR_tieB ..)) (.inr ⟨ofR_bit10 .., .inr (ofR_c ..)⟩) ?_ hwf
  rotate_left
  · unfold decodeR; rw [ofR_fn]; rfl
  · rw [ofR_md]; decide
  · rfl

theorem decl (g : Guard) (d : Code) (a : Code) : Statement (.decl g d a) := by
  intro _ hwf
  refine rtP (io := some _) (n := 0x96) (r := Raw.ofP _ _ _ _ _ _) (mask := 0) (fix := 0) (ub := false) ?_ rfl (by decide) (by decide) rfl ?_ (.inr rfl) rfl hwf
  · unfold decodeP; rw [show (Raw.ofP _ _ _ _ _ _).op.toNat = 0x96 from rfl]; rfl
  · dsimp only [Raw.ofP]; decide

theorem edges (g : Guard) (d : Code) : Statement (.edges g d) := by
  intro _ hwf
  refine rtR (io := ?io) (n := 0x97) (r := Raw.ofR _ _ _ _ _ _ _ _ _) (late := false) (mask := 0) (ud := true) (ua := false) (ub := false) (uc := .none)
    ?_ rfl (by decide) (by decide) rfl ?_ (.inl rfl) (.inr (ofR_tieA ..)) (.inr (ofR_tieB ..)) (.inr ⟨ofR_bit10 .., .inr (ofR_c ..)⟩) ?_ hwf
  rotate_left
  · unfold decodeR; rw [ofR_fn]; rfl
  · rw [ofR_md]; decide
  · rfl

theorem verq (g : Guard) (d : Code) (a : Code) : Statement (.verq g d a) := by
  intro _ hwf
  refine rtP (io := some _) (n := 0x98) (r := Raw.ofP _ _ _ _ _ _) (mask := 0) (fix := 0) (ub := false) ?_ rfl (by decide) (by decide) rfl ?_ (.inr rfl) rfl hwf
  · unfold decodeP; rw [show (Raw.ofP _ _ _ _ _ _).op.toNat = 0x98 from rfl]; rfl
  · dsimp only [Raw.ofP]; decide

theorem dtload (g : Guard) (save : Bool) (sp : Bool) (d : Code) (a : Code) : Statement (.dtload g save sp d a) := by
  intro _ hwf
  refine rtP (io := some _) (n := 0xa0) (r := Raw.ofP _ _ _ _ _ _) (mask := 3) (fix := 0) (ub := false) ?_ rfl (by decide) (by decide) rfl ?_ (.inr rfl) rfl hwf
  · unfold decodeP; rw [show (Raw.ofP _ _ _ _ _ _).op.toNat = 0xa0 from rfl]; dsimp only [Raw.ofP]; cases save <;> cases sp <;> rfl
  · dsimp only [Raw.ofP]; cases save <;> cases sp <;> decide

theorem dtnode (g : Guard) (d : Code) (a : Code) : Statement (.dtnode g d a) := by
  intro _ hwf
  refine rtP (io := some _) (n := 0xa1) (r := Raw.ofP _ _ _ _ _ _) (mask := 0) (fix := 0) (ub := false) ?_ rfl (by decide) (by decide) rfl ?_ (.inr rfl) rfl hwf
  · unfold decodeP; rw [show (Raw.ofP _ _ _ _ _ _).op.toNat = 0xa1 from rfl]; rfl
  · dsimp only [Raw.ofP]; decide

theorem dtclr (g : Guard) (d : Code) (a : Code) (b : Code) : Statement (.dtclr g d a b) := by
  intro _ hwf
  refine rtP (io := some _) (n := 0xa2) (r := Raw.ofP _ _ _ _ _ _) (mask := 0) (fix := 0) (ub := true) ?_ rfl (by decide) (by decide) rfl ?_ (.inl rfl) rfl hwf
  · unfold decodeP; rw [show (Raw.ofP _ _ _ _ _ _).op.toNat = 0xa2 from rfl]; rfl
  · dsimp only [Raw.ofP]; decide

theorem dtmask (g : Guard) (d : Code) (a : Code) : Statement (.dtmask g d a) := by
  intro _ hwf
  refine rtP (io := some _) (n := 0xa3) (r := Raw.ofP _ _ _ _ _ _) (mask := 0) (fix := 0) (ub := false) ?_ rfl (by decide) (by decide) rfl ?_ (.inr rfl) rfl hwf
  · unfold decodeP; rw [show (Raw.ofP _ _ _ _ _ _).op.toNat = 0xa3 from rfl]; rfl
  · dsimp only [Raw.ofP]; decide

theorem dtpos (g : Guard) (d : Code) (a : Code) : Statement (.dtpos g d a) := by
  intro _ hwf
  refine rtP (io := some _) (n := 0xa4) (r := Raw.ofP _ _ _ _ _ _) (mask := 0) (fix := 0) (ub := false) ?_ rfl (by decide) (by decide) rfl ?_ (.inr rfl) rfl hwf
  · unfold decodeP; rw [show (Raw.ofP _ _ _ _ _ _).op.toNat = 0xa4 from rfl]; rfl
  · dsimp only [Raw.ofP]; decide

theorem dtacc (g : Guard) (sp : Bool) (d : Code) (a : Code) : Statement (.dtacc g sp d a) := by
  intro _ hwf
  refine rtP (io := some _) (n := 0xa5) (r := Raw.ofP _ _ _ _ _ _) (mask := 1) (fix := 0) (ub := false) ?_ rfl (by decide) (by decide) rfl ?_ (.inr rfl) rfl hwf
  · unfold decodeP; rw [show (Raw.ofP _ _ _ _ _ _).op.toNat = 0xa5 from rfl]; dsimp only [Raw.ofP]; cases sp <;> rfl
  · dsimp only [Raw.ofP]; cases sp <;> decide

theorem redact (g : Guard) (d : Code) (a : Code) : Statement (.redact g d a) := by
  intro _ hwf
  refine rtP (io := some _) (n := 0xa6) (r := Raw.ofP _ _ _ _ _ _) (mask := 0) (fix := 0) (ub := false) ?_ rfl (by decide) (by decide) rfl ?_ (.inr rfl) rfl hwf
  · unfold decodeP; rw [show (Raw.ofP _ _ _ _ _ _).op.toNat = 0xa6 from rfl]; rfl
  · dsimp only [Raw.ofP]; decide

theorem kvx (g : Guard) (wr : Bool) (d : Code) (a : Src) (b : Src) (c : Src) : Statement (.kvx g wr d a b c) := by
  intro _ hwf
  refine rtR (io := ?io) (n := 0xa7) (r := Raw.ofR _ _ _ _ _ _ _ _ _) (late := true) (mask := 1) (ud := true) (ua := true) (ub := true) (uc := .opnd)
    ?_ rfl (by decide) (by decide) rfl ?_ (.inl rfl) (.inl rfl) (.inl rfl) (.inl rfl) ?_ hwf
  rotate_left
  · unfold decodeR; rw [ofR_fn]; rfl
  · rw [ofR_md]; cases wr <;> decide
  · rw [ofR_md, ofR_tieA, ofR_tieB, ofR_srcC]; cases wr <;> rfl

theorem kvfork (g : Guard) (d : Code) (a : Code) : Statement (.kvfork g d a) := by
  intro _ hwf
  refine rtP (io := some _) (n := 0xa8) (r := Raw.ofP _ _ _ _ _ _) (mask := 0) (fix := 0) (ub := false) ?_ rfl (by decide) (by decide) rfl ?_ (.inr rfl) rfl hwf
  · unfold decodeP; rw [show (Raw.ofP _ _ _ _ _ _).op.toNat = 0xa8 from rfl]; rfl
  · dsimp only [Raw.ofP]; decide

theorem kvapp (g : Guard) (d : Code) (a : Code) : Statement (.kvapp g d a) := by
  intro _ hwf
  refine rtP (io := some _) (n := 0xa9) (r := Raw.ofP _ _ _ _ _ _) (mask := 0) (fix := 0) (ub := false) ?_ rfl (by decide) (by decide) rfl ?_ (.inr rfl) rfl hwf
  · unfold decodeP; rw [show (Raw.ofP _ _ _ _ _ _).op.toNat = 0xa9 from rfl]; rfl
  · dsimp only [Raw.ofP]; decide

theorem kvalloc (g : Guard) (d : Code) (a : Code) : Statement (.kvalloc g d a) := by
  intro _ hwf
  refine rtP (io := some _) (n := 0xaa) (r := Raw.ofP _ _ _ _ _ _) (mask := 0) (fix := 0) (ub := false) ?_ rfl (by decide) (by decide) rfl ?_ (.inr rfl) rfl hwf
  · unfold decodeP; rw [show (Raw.ofP _ _ _ _ _ _).op.toNat = 0xaa from rfl]; rfl
  · dsimp only [Raw.ofP]; decide

theorem kvallocInit (g : Guard) (d : Code) (a : Code) : Statement (.kvallocInit g d a) := by
  intro _ hwf
  refine rtP (io := some _) (n := 0xaa) (r := Raw.ofP _ _ _ _ _ _) (mask := 0) (fix := 1) (ub := false) ?_ rfl (by decide) (by decide) rfl ?_ (.inr rfl) rfl hwf
  · unfold decodeP; rw [show (Raw.ofP _ _ _ _ _ _).op.toNat = 0xaa from rfl]; rfl
  · dsimp only [Raw.ofP]; decide

theorem kvfree (g : Guard) (d : Code) (a : Code) : Statement (.kvfree g d a) := by
  intro _ hwf
  refine rtP (io := some _) (n := 0xab) (r := Raw.ofP _ _ _ _ _ _) (mask := 0) (fix := 0) (ub := false) ?_ rfl (by decide) (by decide) rfl ?_ (.inr rfl) rfl hwf
  · unfold decodeP; rw [show (Raw.ofP _ _ _ _ _ _).op.toNat = 0xab from rfl]; rfl
  · dsimp only [Raw.ofP]; decide

theorem pcatt (g : Guard) (d : Code) (a : Code) : Statement (.pcatt g d a) := by
  intro _ hwf
  refine rtP (io := some _) (n := 0xac) (r := Raw.ofP _ _ _ _ _ _) (mask := 0) (fix := 0) (ub := false) ?_ rfl (by decide) (by decide) rfl ?_ (.inr rfl) rfl hwf
  · unfold decodeP; rw [show (Raw.ofP _ _ _ _ _ _).op.toNat = 0xac from rfl]; rfl
  · dsimp only [Raw.ofP]; decide

theorem pcattIns (g : Guard) (d : Code) (a : Code) : Statement (.pcattIns g d a) := by
  intro _ hwf
  refine rtP (io := some _) (n := 0xac) (r := Raw.ofP _ _ _ _ _ _) (mask := 0) (fix := 1) (ub := false) ?_ rfl (by decide) (by decide) rfl ?_ (.inr rfl) rfl hwf
  · unfold decodeP; rw [show (Raw.ofP _ _ _ _ _ _).op.toNat = 0xac from rfl]; rfl
  · dsimp only [Raw.ofP]; decide

theorem pcevict (g : Guard) (d : Code) (a : Code) : Statement (.pcevict g d a) := by
  intro _ hwf
  refine rtP (io := some _) (n := 0xad) (r := Raw.ofP _ _ _ _ _ _) (mask := 0) (fix := 0) (ub := false) ?_ rfl (by decide) (by decide) rfl ?_ (.inr rfl) rfl hwf
  · unfold decodeP; rw [show (Raw.ofP _ _ _ _ _ _).op.toNat = 0xad from rfl]; rfl
  · dsimp only [Raw.ofP]; decide

theorem bltabCreate (g : Guard) (d : Code) (a : Code) : Statement (.bltabCreate g d a) := by
  intro _ hwf
  refine rtP (io := some _) (n := 0xae) (r := Raw.ofP _ _ _ _ _ _) (mask := 0) (fix := 0) (ub := false) ?_ rfl (by decide) (by decide) rfl ?_ (.inr rfl) rfl hwf
  · unfold decodeP; rw [show (Raw.ofP _ _ _ _ _ _).op.toNat = 0xae from rfl]; rfl
  · dsimp only [Raw.ofP]; decide

theorem bltabDestroy (g : Guard) (d : Code) (a : Code) : Statement (.bltabDestroy g d a) := by
  intro _ hwf
  refine rtP (io := some _) (n := 0xae) (r := Raw.ofP _ _ _ _ _ _) (mask := 0) (fix := 1) (ub := false) ?_ rfl (by decide) (by decide) rfl ?_ (.inr rfl) rfl hwf
  · unfold decodeP; rw [show (Raw.ofP _ _ _ _ _ _).op.toNat = 0xae from rfl]; rfl
  · dsimp only [Raw.ofP]; decide

theorem bltabRead (g : Guard) (d : Code) (a : Code) : Statement (.bltabRead g d a) := by
  intro _ hwf
  refine rtP (io := some _) (n := 0xae) (r := Raw.ofP _ _ _ _ _ _) (mask := 0) (fix := 2) (ub := false) ?_ rfl (by decide) (by decide) rfl ?_ (.inr rfl) rfl hwf
  · unfold decodeP; rw [show (Raw.ofP _ _ _ _ _ _).op.toNat = 0xae from rfl]; rfl
  · dsimp only [Raw.ofP]; decide

theorem kvsurvGet (g : Guard) (d : Code) (a : Code) : Statement (.kvsurvGet g d a) := by
  intro _ hwf
  refine rtP (io := some _) (n := 0xaf) (r := Raw.ofP _ _ _ _ _ _) (mask := 0) (fix := 0) (ub := false) ?_ rfl (by decide) (by decide) rfl ?_ (.inr rfl) rfl hwf
  · unfold decodeP; rw [show (Raw.ofP _ _ _ _ _ _).op.toNat = 0xaf from rfl]; rfl
  · dsimp only [Raw.ofP]; decide

theorem kvsurvClr (g : Guard) (d : Code) (a : Code) : Statement (.kvsurvClr g d a) := by
  intro _ hwf
  refine rtP (io := some _) (n := 0xaf) (r := Raw.ofP _ _ _ _ _ _) (mask := 0) (fix := 1) (ub := false) ?_ rfl (by decide) (by decide) rfl ?_ (.inr rfl) rfl hwf
  · unfold decodeP; rw [show (Raw.ofP _ _ _ _ _ _).op.toNat = 0xaf from rfl]; rfl
  · dsimp only [Raw.ofP]; decide

theorem kvsurvSet (g : Guard) (d : Code) (a : Code) : Statement (.kvsurvSet g d a) := by
  intro _ hwf
  refine rtP (io := some _) (n := 0xaf) (r := Raw.ofP _ _ _ _ _ _) (mask := 0) (fix := 2) (ub := false) ?_ rfl (by decide) (by decide) rfl ?_ (.inr rfl) rfl hwf
  · unfold decodeP; rw [show (Raw.ofP _ _ _ _ _ _).op.toNat = 0xaf from rfl]; rfl
  · dsimp only [Raw.ofP]; decide

theorem fld (g : Guard) (sz : Sz) (d : Code) (a : Src) (off : BitVec 8) : Statement (.fld g sz d a off) := by
  intro _ hwf
  refine rtR (io := ?io) (n := 0xb0) (r := Raw.ofR _ _ _ _ _ _ _ _ _) (late := true) (mask := 7) (ud := true) (ua := true) (ub := false) (uc := .imm)
    ?_ rfl (by decide) (by decide) rfl ?_ (.inl rfl) (.inl rfl) (.inr (ofR_tieB ..)) (.inr ⟨ofR_bit10 .., .inl rfl⟩) ?_ hwf
  rotate_left
  · unfold decodeR; rw [ofR_fn]; rfl
  · rw [ofR_md]; cases sz <;> decide
  · rw [ofR_md, ofR_tieA, ofR_c]; cases sz <;> rfl

theorem fst (g : Guard) (sz : Sz) (a : Src) (b : Src) (off : BitVec 8) : Statement (.fst g sz a b off) := by
  intro _ hwf
  refine rtR (io := ?io) (n := 0xb1) (r := Raw.ofR _ _ _ _ _ _ _ _ _) (late := false) (mask := 7) (ud := false) (ua := true) (ub := true) (uc := .imm)
    ?_ rfl (by decide) (by decide) rfl ?_ (.inr rfl) (.inl rfl) (.inl rfl) (.inr ⟨ofR_bit10 .., .inl rfl⟩) ?_ hwf
  rotate_left
  · unfold decodeR; rw [ofR_fn]; rfl
  · rw [ofR_md]; cases sz <;> decide
  · rw [ofR_md, ofR_tieA, ofR_tieB, ofR_c]; cases sz <;> rfl

theorem frmw (g : Guard) (fop : FrOp) (w : Bool) (d : Code) (a : Src) (b : Src) (off : BitVec 8) : Statement (.frmw g fop w d a b off) := by
  intro _ hwf
  refine rtR (io := ?io) (n := 0xb2) (r := Raw.ofR _ _ _ _ _ _ _ _ _) (late := true) (mask := 31) (ud := true) (ua := true) (ub := true) (uc := .imm)
    ?_ rfl (by decide) (by decide) rfl ?_ (.inl rfl) (.inl rfl) (.inl rfl) (.inr ⟨ofR_bit10 .., .inl rfl⟩) ?_ hwf
  rotate_left
  · unfold decodeR; rw [ofR_fn]; rfl
  · rw [ofR_md]; cases fop <;> cases w <;> decide
  · rw [ofR_md, ofR_tieA, ofR_tieB, ofR_c]; cases fop <;> cases w <;> rfl

theorem fstm (g : Guard) (d : Code) (a : Code) : Statement (.fstm g d a) := by
  intro _ hwf
  refine rtP (io := some _) (n := 0xb3) (r := Raw.ofP _ _ _ _ _ _) (mask := 0) (fix := 0) (ub := false) ?_ rfl (by decide) (by decide) rfl ?_ (.inr rfl) rfl hwf
  · unfold decodeP; rw [show (Raw.ofP _ _ _ _ _ _).op.toNat = 0xb3 from rfl]; rfl
  · dsimp only [Raw.ofP]; decide

theorem fldr (g : Guard) (d : Code) (a : Code) : Statement (.fldr g d a) := by
  intro _ hwf
  refine rtP (io := some _) (n := 0xb4) (r := Raw.ofP _ _ _ _ _ _) (mask := 0) (fix := 0) (ub := false) ?_ rfl (by decide) (by decide) rfl ?_ (.inr rfl) rfl hwf
  · unfold decodeP; rw [show (Raw.ofP _ _ _ _ _ _).op.toNat = 0xb4 from rfl]; rfl
  · dsimp only [Raw.ofP]; decide

theorem fexpGrant (g : Guard) (d : Code) (a : Code) (b : Code) : Statement (.fexpGrant g d a b) := by
  intro _ hwf
  refine rtP (io := some _) (n := 0xb5) (r := Raw.ofP _ _ _ _ _ _) (mask := 0) (fix := 0) (ub := true) ?_ rfl (by decide) (by decide) rfl ?_ (.inl rfl) rfl hwf
  · unfold decodeP; rw [show (Raw.ofP _ _ _ _ _ _).op.toNat = 0xb5 from rfl]; rfl
  · dsimp only [Raw.ofP]; decide

theorem fexpRevoke (g : Guard) (d : Code) (a : Code) (b : Code) : Statement (.fexpRevoke g d a b) := by
  intro _ hwf
  refine rtP (io := some _) (n := 0xb5) (r := Raw.ofP _ _ _ _ _ _) (mask := 0) (fix := 1) (ub := true) ?_ rfl (by decide) (by decide) rfl ?_ (.inl rfl) rfl hwf
  · unfold decodeP; rw [show (Raw.ofP _ _ _ _ _ _).op.toNat = 0xb5 from rfl]; rfl
  · dsimp only [Raw.ofP]; decide

theorem fexpGroup (g : Guard) (d : Code) (a : Code) (b : Code) : Statement (.fexpGroup g d a b) := by
  intro _ hwf
  refine rtP (io := some _) (n := 0xb5) (r := Raw.ofP _ _ _ _ _ _) (mask := 0) (fix := 2) (ub := true) ?_ rfl (by decide) (by decide) rfl ?_ (.inl rfl) rfl hwf
  · unfold decodeP; rw [show (Raw.ofP _ _ _ _ _ _).op.toNat = 0xb5 from rfl]; rfl
  · dsimp only [Raw.ofP]; decide

theorem fexpQuery (g : Guard) (d : Code) (a : Code) (b : Code) : Statement (.fexpQuery g d a b) := by
  intro _ hwf
  refine rtP (io := some _) (n := 0xb5) (r := Raw.ofP _ _ _ _ _ _) (mask := 0) (fix := 3) (ub := true) ?_ rfl (by decide) (by decide) rfl ?_ (.inl rfl) rfl hwf
  · unfold decodeP; rw [show (Raw.ofP _ _ _ _ _ _).op.toNat = 0xb5 from rfl]; rfl
  · dsimp only [Raw.ofP]; decide

theorem bkpt (g : Guard) (a : Src) : Statement (.bkpt g a) := by
  intro _ hwf
  refine rtR (io := ?io) (n := 0xc0) (r := Raw.ofR _ _ _ _ _ _ _ _ _) (late := false) (mask := 0) (ud := false) (ua := true) (ub := false) (uc := .none)
    ?_ rfl (by decide) (by decide) rfl ?_ (.inr rfl) (.inl rfl) (.inr (ofR_tieB ..)) (.inr ⟨ofR_bit10 .., .inr (ofR_c ..)⟩) ?_ hwf
  rotate_left
  · unfold decodeR; rw [ofR_fn]; rfl
  · rw [ofR_md]; decide
  · rw [ofR_tieA]; rfl

theorem trc (g : Guard) (a : Src) (b : Src) : Statement (.trc g a b) := by
  intro _ hwf
  refine rtR (io := ?io) (n := 0xc1) (r := Raw.ofR _ _ _ _ _ _ _ _ _) (late := false) (mask := 0) (ud := false) (ua := true) (ub := true) (uc := .none)
    ?_ rfl (by decide) (by decide) rfl ?_ (.inr rfl) (.inl rfl) (.inl rfl) (.inr ⟨ofR_bit10 .., .inr (ofR_c ..)⟩) ?_ hwf
  rotate_left
  · unfold decodeR; rw [ofR_fn]; rfl
  · rw [ofR_md]; decide
  · rw [ofR_tieA, ofR_tieB]; rfl

theorem ctrr (g : Guard) (m : CtrMode) (d : Code) (a : Src) : Statement (.ctrr g m d a) := by
  intro _ hwf
  refine rtR (io := ?io) (n := 0xc2) (r := Raw.ofR _ _ _ _ _ _ _ _ _) (late := true) (mask := 3) (ud := true) (ua := true) (ub := false) (uc := .none)
    ?_ rfl (by decide) (by decide) rfl ?_ (.inl rfl) (.inl rfl) (.inr (ofR_tieB ..)) (.inr ⟨ofR_bit10 .., .inr (ofR_c ..)⟩) ?_ hwf
  rotate_left
  · unfold decodeR; rw [ofR_fn]; rfl
  · rw [ofR_md]; cases m <;> decide
  · rw [ofR_md, ofR_tieA]; cases m <;> rfl

theorem wpset (g : Guard) (d : Code) (a : Code) (b : Code) : Statement (.wpset g d a b) := by
  intro _ hwf
  refine rtP (io := some _) (n := 0xc3) (r := Raw.ofP _ _ _ _ _ _) (mask := 0) (fix := 0) (ub := true) ?_ rfl (by decide) (by decide) rfl ?_ (.inl rfl) rfl hwf
  · unfold decodeP; rw [show (Raw.ofP _ _ _ _ _ _).op.toNat = 0xc3 from rfl]; rfl
  · dsimp only [Raw.ofP]; decide

theorem errq (g : Guard) (d : Code) (a : Code) : Statement (.errq g d a) := by
  intro _ hwf
  refine rtP (io := some _) (n := 0xc4) (r := Raw.ofP _ _ _ _ _ _) (mask := 0) (fix := 0) (ub := false) ?_ rfl (by decide) (by decide) rfl ?_ (.inr rfl) rfl hwf
  · unfold decodeP; rw [show (Raw.ofP _ _ _ _ _ _).op.toNat = 0xc4 from rfl]; rfl
  · dsimp only [Raw.ofP]; decide

theorem pwrq (g : Guard) (d : Code) (a : Code) : Statement (.pwrq g d a) := by
  intro _ hwf
  refine rtP (io := some _) (n := 0xc5) (r := Raw.ofP _ _ _ _ _ _) (mask := 0) (fix := 0) (ub := false) ?_ rfl (by decide) (by decide) rfl ?_ (.inr rfl) rfl hwf
  · unfold decodeP; rw [show (Raw.ofP _ _ _ _ _ _).op.toNat = 0xc5 from rfl]; rfl
  · dsimp only [Raw.ofP]; decide

theorem featq (g : Guard) (d : Code) (a : Src) : Statement (.featq g d a) := by
  intro _ hwf
  refine rtR (io := ?io) (n := 0xc6) (r := Raw.ofR _ _ _ _ _ _ _ _ _) (late := false) (mask := 0) (ud := true) (ua := true) (ub := false) (uc := .none)
    ?_ rfl (by decide) (by decide) rfl ?_ (.inl rfl) (.inl rfl) (.inr (ofR_tieB ..)) (.inr ⟨ofR_bit10 .., .inr (ofR_c ..)⟩) ?_ hwf
  rotate_left
  · unfold decodeR; rw [ofR_fn]; rfl
  · rw [ofR_md]; decide
  · rw [ofR_tieA]; rfl

theorem idq (g : Guard) (d : Code) (a : Code) : Statement (.idq g d a) := by
  intro _ hwf
  refine rtP (io := some _) (n := 0xc7) (r := Raw.ofP _ _ _ _ _ _) (mask := 0) (fix := 0) (ub := false) ?_ rfl (by decide) (by decide) rfl ?_ (.inr rfl) rfl hwf
  · unfold decodeP; rw [show (Raw.ofP _ _ _ _ _ _).op.toNat = 0xc7 from rfl]; rfl
  · dsimp only [Raw.ofP]; decide

theorem contextFault (ctx : Nat) : Statement (.contextFault ctx) := fun h => by cases h

theorem fabricResponse (req : Nat) (resp : FabResp) : Statement (.fabricResponse req resp) := fun h => by cases h

theorem groupFormation (core : Nat) (sched : Nat) : Statement (.groupFormation core sched) := fun h => by cases h

theorem waitRelease (team : Nat) (lid : Nat) : Statement (.waitRelease team lid) := fun h => by cases h

theorem trapEntry (core : Nat) (sched : Nat) : Statement (.trapEntry core sched) := fun h => by cases h

theorem commandAcceptance (cmd : Nat) : Statement (.commandAcceptance cmd) := fun h => by cases h

theorem engineStep (cmd : Nat) : Statement (.engineStep cmd) := fun h => by cases h

theorem commandCompletion (cmd : Nat) : Statement (.commandCompletion cmd) := fun h => by cases h

theorem deadLetterPost (die : Nat) : Statement (.deadLetterPost die) := fun h => by cases h

theorem lateDelivery (flight : Nat) : Statement (.lateDelivery flight) := fun h => by cases h

theorem irrevocableStepResume (cmd : Nat) : Statement (.irrevocableStepResume cmd) := fun h => by cases h

theorem globalWritePerform (flight : Nat) : Statement (.globalWritePerform flight) := fun h => by cases h

theorem leaseExpiry (place : Nat) (idx : Nat) : Statement (.leaseExpiry place idx) := fun h => by cases h

theorem bankSwitchComplete (cluster : Nat) (bnk : Nat) : Statement (.bankSwitchComplete cluster bnk) := fun h => by cases h

theorem fencePass (team : Nat) (lid : Nat) : Statement (.fencePass team lid) := fun h => by cases h

theorem frameService (ctx : Nat) (page : Nat) : Statement (.frameService ctx page) := fun h => by cases h

theorem serviceEnd (ctx : Nat) (page : Nat) : Statement (.serviceEnd ctx page) := fun h => by cases h

theorem publicationPerform (cmd : Nat) : Statement (.publicationPerform cmd) := fun h => by cases h

theorem heldPartialMerge (cmd : Nat) : Statement (.heldPartialMerge cmd) := fun h => by cases h

theorem partialResend (cmd : Nat) : Statement (.partialResend cmd) := fun h => by cases h

theorem phActServed (act : Nat) : Statement (.phActServed act) := fun h => by cases h

theorem courierFill (cw : Nat) : Statement (.courierFill cw) := fun h => by cases h

theorem spillModeEntry (scope : Nat) (owner : Nat) (num : Nat) : Statement (.spillModeEntry scope owner num) := fun h => by cases h

theorem spillMove (scope : Nat) (owner : Nat) (num : Nat) : Statement (.spillMove scope owner num) := fun h => by cases h

theorem deadlock (ctx : Nat) : Statement (.deadlock ctx) := fun h => by cases h

theorem recordTake : Statement (.recordTake) := fun h => by cases h

theorem teamStart (part : Nat) : Statement (.teamStart part) := fun h => by cases h

theorem startOrderBlock (part : Nat) : Statement (.startOrderBlock part) := fun h => by cases h

theorem teamEnd (team : Nat) : Statement (.teamEnd team) := fun h => by cases h

theorem gridRetire (lseq : Nat) : Statement (.gridRetire lseq) := fun h => by cases h

theorem shareRecompute : Statement (.shareRecompute) := fun h => by cases h

theorem switchBegin (part : Nat) : Statement (.switchBegin part) := fun h => by cases h

theorem switchComplete (die : Nat) : Statement (.switchComplete die) := fun h => by cases h

theorem budgetOverrun (team : Nat) : Statement (.budgetOverrun team) := fun h => by cases h

theorem preemption (part : Nat) : Statement (.preemption part) := fun h => by cases h

theorem saveComplete (team : Nat) : Statement (.saveComplete team) := fun h => by cases h

theorem teamResume (part : Nat) : Statement (.teamResume part) := fun h => by cases h

theorem holdRelease (lseq : Nat) : Statement (.holdRelease lseq) := fun h => by cases h

theorem taskCommit (ctx : Nat) : Statement (.taskCommit ctx) := fun h => by cases h

theorem versionFold (lseq : Nat) : Statement (.versionFold lseq) := fun h => by cases h

theorem taskRelaunch (lseq : Nat) : Statement (.taskRelaunch lseq) := fun h => by cases h

theorem frontierUpdate (core : Nat) (ctx : Nat) : Statement (.frontierUpdate core ctx) := fun h => by cases h

theorem parkTakeUp (lseq : Nat) : Statement (.parkTakeUp lseq) := fun h => by cases h

theorem versionSpaceAbort (ctx : Nat) : Statement (.versionSpaceAbort ctx) := fun h => by cases h

theorem ingressRequest (die : Nat) (req : FabReq) : Statement (.ingressRequest die req) := fun h => by cases h

theorem requestAbsent (req : Nat) : Statement (.requestAbsent req) := fun h => by cases h

theorem peerRouteChange (die : Nat) (epid : Nat) (up : Bool) (kln : Bool) : Statement (.peerRouteChange die epid up kln) := fun h => by cases h

theorem foldNotice (die : Nat) (key : RemoteKey) : Statement (.foldNotice die key) := fun h => by cases h

theorem discardNotice (die : Nat) (key : RemoteKey) : Statement (.discardNotice die key) := fun h => by cases h

theorem retagNotice (die : Nat) (key : RemoteKey) (carbon : Nat) : Statement (.retagNotice die key carbon) := fun h => by cases h

theorem postbagWrite : Statement (.postbagWrite) := fun h => by cases h

theorem counterClear (m : Nat) (die : Nat) : Statement (.counterClear m die) := fun h => by cases h

theorem halt (m : Nat) (q : DbgReq) : Statement (.halt m q) := fun h => by cases h

theorem resume (m : Nat) (q : DbgReq) : Statement (.resume m q) := fun h => by cases h

theorem step (m : Nat) (q : DbgReq) : Statement (.step m q) := fun h => by cases h

theorem debugRead (m : Nat) (q : DbgReq) : Statement (.debugRead m q) := fun h => by cases h

theorem debugWrite (m : Nat) (q : DbgReq) : Statement (.debugWrite m q) := fun h => by cases h

theorem readpc (m : Nat) (q : DbgReq) : Statement (.readpc m q) := fun h => by cases h

theorem wset (m : Nat) (q : DbgReq) (blk : BitVec 512) : Statement (.wset m q blk) := fun h => by cases h

theorem query (m : Nat) (q : DbgReq) : Statement (.query m q) := fun h => by cases h

theorem grant (m : Nat) (q : DbgReq) : Statement (.grant m q) := fun h => by cases h

theorem revoke (m : Nat) (q : DbgReq) : Statement (.revoke m q) := fun h => by cases h

theorem claim (m : Nat) : Statement (.claim m) := fun h => by cases h

theorem handover (m : Nat) (nm : Nat) : Statement (.handover m nm) := fun h => by cases h

theorem take (m : Nat) : Statement (.take m) := fun h => by cases h

theorem read (m : Nat) (space : Nat) (addr : Nat) (len : Nat) : Statement (.read m space addr len) := fun h => by cases h

theorem write (m : Nat) (addr : Nat) (bytes : List Byte) : Statement (.write m addr bytes) := fun h => by cases h

theorem idkey (m : Nat) : Statement (.idkey m) := fun h => by cases h

theorem attest (m : Nat) (nonce : BitVec 256) : Statement (.attest m nonce) := fun h => by cases h

theorem reset (m : Nat) : Statement (.reset m) := fun h => by cases h

theorem masterDetach (m : Nat) : Statement (.masterDetach m) := fun h => by cases h

theorem registerWrite (m : Nat) (addr : Nat) (words : List DWord) : Statement (.registerWrite m addr words) := fun h => by cases h

theorem sqctlWrite (m : Nat) (q : Nat) (v : DWord) : Statement (.sqctlWrite m q v) := fun h => by cases h

theorem sqtailDoorbell (m : Nat) (q : Nat) (v : DWord) : Statement (.sqtailDoorbell m q v) := fun h => by cases h

theorem partitionTableWrite (m : Nat) (addr : Nat) (words : List DWord) : Statement (.partitionTableWrite m addr words) := fun h => by cases h

theorem feataccWrite (m : Nat) (addr : Nat) (words : List DWord) : Statement (.feataccWrite m addr words) := fun h => by cases h

theorem classWrite (m : Nat) (v : DWord) : Statement (.classWrite m v) := fun h => by cases h

theorem create (m : Nat) (ctx : Nat) : Statement (.create m ctx) := fun h => by cases h

theorem destroy (m : Nat) (ctx : Nat) : Statement (.destroy m ctx) := fun h => by cases h

theorem kill (m : Nat) (ctx : Nat) : Statement (.kill m ctx) := fun h => by cases h

theorem restart (m : Nat) (ctx : Nat) : Statement (.restart m ctx) := fun h => by cases h

theorem shootdown (m : Nat) (v : DWord) : Statement (.shootdown m v) := fun h => by cases h

theorem preqPreempt (m : Nat) (v : DWord) : Statement (.preqPreempt m v) := fun h => by cases h

theorem preqResume (m : Nat) (v : DWord) : Statement (.preqResume m v) := fun h => by cases h

theorem bootgo (m : Nat) (v : DWord) : Statement (.bootgo m v) := fun h => by cases h

theorem pbctlWrite (m : Nat) (v : DWord) : Statement (.pbctlWrite m v) := fun h => by cases h

theorem pbgetWrite (m : Nat) (v : DWord) : Statement (.pbgetWrite m v) := fun h => by cases h

theorem thermal (die : Nat) (temp : Nat) : Statement (.thermal die temp) := fun h => by cases h

theorem softError (code : Nat) (loc : Nat) (corr : Bool) : Statement (.softError code loc corr) := fun h => by cases h

theorem masterAttach (m : Nat) : Statement (.masterAttach m) := fun h => by cases h

theorem temperatureFall (die : Nat) (temp : Nat) : Statement (.temperatureFall die temp) := fun h => by cases h

end Sys2Proof.Laws.RoundTrip
end

