-- ==== Sys2Proof/Certificates/Slice0/Obligations.lean ====
section
/-! DEFINITION. Obligations.lean: the statements for the provers. A clause names an instruction with every form that the spec gives it; `Does`, `Computes`
and their kin (Safety.lean) say that the instruction completes, what its lanes become, and that everything else stays. -/

open Sys2Proof Sys2Proof.Machine

/-- R82, for every form of opcode 0x00. -/
def Obligations.IntegerResults : Prop := ∀ (g : Guard) (sat u : Bool) (d : Code) (a b c : Src),
  Computes (.add g sat u d a b) d false (fun x y _ => .w (fit 32 sat u (ext u x.lo + ext u y.lo)) (x.pl || y.pl))
  ∧ Computes (.sub g sat u d a b) d false (fun x y _ => .w (fit 32 sat u (ext u x.lo - ext u y.lo)) (x.pl || y.pl))
  ∧ Computes (.mul g sat u d a b) d false (fun x y _ => .w (fit 32 sat u (ext u x.lo * ext u y.lo)) (x.pl || y.pl))
  ∧ Computes (.mulh g u d a b) d false (fun x y _ => .w (fit 32 false u (ext u x.lo * ext u y.lo / 2 ^ 32)) (x.pl || y.pl))
  ∧ Computes (.mad g sat u d a b c) d false (fun x y z => .w (fit 32 sat u (ext u x.lo * ext u y.lo + ext u z.lo)) (x.pl || y.pl || z.pl))
  ∧ Computes (.min g u d a b) d false (fun x y _ => .w (fit 32 false u (min (ext u x.lo) (ext u y.lo))) (x.pl || y.pl))
  ∧ Computes (.max g u d a b) d false (fun x y _ => .w (fit 32 false u (max (ext u x.lo) (ext u y.lo))) (x.pl || y.pl))
  ∧ Computes (.abs g sat d a) d false (fun x _ _ => .w (fit 32 sat false (x.lo.toInt.natAbs : Int)) x.pl)
  ∧ Computes (.neg g sat d a) d false (fun x _ _ => .w (fit 32 sat false (-x.lo.toInt)) x.pl)

/-- R83, for every form of opcode 0x01 (the functions of the later forms are stated bit by bit in BitFields). -/
def Obligations.BitResults : Prop := ∀ (g : Guard) (sx : Bool) (d : Code) (a b c : Src),
  Computes (.and g d a b) d false (fun x y _ => .w (x.lo &&& y.lo) (x.pl || y.pl))
  ∧ Computes (.or g d a b) d false (fun x y _ => .w (x.lo ||| y.lo) (x.pl || y.pl))
  ∧ Computes (.xor g d a b) d false (fun x y _ => .w (x.lo ^^^ y.lo) (x.pl || y.pl))
  ∧ Computes (.not g d a) d false (fun x _ _ => .w (~~~x.lo) x.pl)
  ∧ Computes (.shl g d a b) d false (fun x y _ => .w (x.lo <<< y.lo.toNat) (x.pl || y.pl))
  ∧ Computes (.shr g sx d a b) d false (fun x y _ => .w (if sx then x.lo.sshiftRight y.lo.toNat else x.lo >>> y.lo.toNat) (x.pl || y.pl))
  ∧ Computes (.rot g d a b) d false (fun x y _ => .w (x.lo.rotateLeft (y.lo.toNat % 32)) (x.pl || y.pl))
  ∧ Computes (.popc g d a) d false (fun x _ _ => .w (BitVec.ofNat 32 ((List.range 32).filter (fun k => x.lo.getLsbD k)).length) x.pl)
  ∧ Computes (.clz g d a) d false (fun x _ _ => .w (if x.lo = 0 then 32 else BitVec.ofNat 32 (31 - x.lo.toNat.log2)) x.pl)
  ∧ Computes (.brev g d a) d false (fun x _ _ => .w (bBrev x.lo) x.pl)
  ∧ Computes (.bfe g sx d a b) d false (fun x y _ => .w (bBfe sx x.lo y.lo) (x.pl || y.pl))
  ∧ Computes (.bfi g d a b c) d false (fun x y z => .w (bBfi x.lo y.lo z.lo) (x.pl || y.pl || z.pl))
  ∧ Computes (.bperm g d a b c) d false (fun x y z => .w (bBperm x.lo y.lo z.lo) (x.pl || y.pl || z.pl))

/-- The functions of R83 that move single bits and fields, bit by bit. -/
def Obligations.BitFields : Prop := ∀ (x y z : Word) (k : Nat), k < 32 →
  (bBrev x).getLsbD k = x.getLsbD (31 - k)
  ∧ (bBfe false x y).getLsbD k = (decide (k < (y.toNat / 2 ^ 8) % 2 ^ 8) && x.getLsbD (y.toNat % 2 ^ 8 + k))
  ∧ (bBfe true x y).getLsbD k = (decide ((y.toNat / 2 ^ 8) % 2 ^ 8 ≠ 0)
      && x.getLsbD (y.toNat % 2 ^ 8 + min k (min ((y.toNat / 2 ^ 8) % 2 ^ 8) (32 - y.toNat % 2 ^ 8) - 1)))
  ∧ (bBfi x y z).getLsbD k = (if z.toNat % 2 ^ 8 ≤ k ∧ k < z.toNat % 2 ^ 8 + (z.toNat / 2 ^ 8) % 2 ^ 8 then y.getLsbD (k - z.toNat % 2 ^ 8) else x.getLsbD k)
  ∧ (bBperm x y z).getLsbD k = (!z.getLsbD (4 * (k / 8) + 3)
      && (if z.getLsbD (4 * (k / 8) + 2) then y else x).getLsbD (8 * ((z.toNat / 2 ^ (4 * (k / 8))) % 4) + k % 8))

/-- R84 and R85. -/
def Obligations.CompareResults : Prop := ∀ (g : Guard) (u nb na : Bool) (cmp : ICmp) (d : Code) (a b : Src),
  Computes (.icmp g false u cmp d a b) d false (fun x y _ => .w (b2w (icmpInt cmp (ext u x.lo) (ext u y.lo))) (x.poison || y.poison))
  ∧ Computes (.icmp g true u cmp d a b) d false (fun x y _ => .w (b2w (icmpInt cmp (ext u x.d) (ext u y.d))) (x.poison || y.poison))
  ∧ Computes (.pand g nb na d a b) d false (fun x y _ => .w (b2w ((decide (x.lo ≠ 0) ^^ na) && (decide (y.lo ≠ 0) ^^ nb))) (x.pl || y.pl))
  ∧ Computes (.por g nb na d a b) d false (fun x y _ => .w (b2w ((decide (x.lo ≠ 0) ^^ na) || (decide (y.lo ≠ 0) ^^ nb))) (x.pl || y.pl))
  ∧ Computes (.pxor g nb na d a b) d false (fun x y _ => .w (b2w ((decide (x.lo ≠ 0) ^^ na) ^^ (decide (y.lo ≠ 0) ^^ nb))) (x.pl || y.pl))
  ∧ Computes (.pnot g d a) d false (fun x _ _ => .w (b2w (decide (x.lo = 0))) x.pl)

/-- R86, R89, R90, R93 and, for psnt, R191. That a 64-bit mov or sel takes the poison of both halves onto both registers is the model's reading
(assumption log 12). -/
def Obligations.MoveResults : Prop := ∀ (g : Guard) (sat u : Bool) (sh : BitVec 3) (d code : Code) (a b c : Src) (imm : Word),
  Computes (.mov g false d a) d false (fun x _ _ => .w x.lo x.pl)
  ∧ Computes (.mov g true d a) d true (fun x _ _ => .dw x.d (x.pl || x.ph))
  ∧ Computes (.sel g false d a b c) d false (fun x y z => .w (if z.lo = 0 then y.lo else x.lo) (x.poison || y.poison || z.poison))
  ∧ Computes (.sel g true d a b c) d true (fun x y z => .dw (if z.lo = 0 then y.d else x.d) (x.poison || y.poison || z.poison))
  ∧ Computes (.addi g d code imm) d false (fun x _ _ => .w (x.lo + imm) x.pl)
  ∧ Computes (.movi g d imm) d false (fun _ _ _ => .w imm false)
  ∧ Computes (.add64 g sat u d a b) d true (fun x y _ => .dw (fit 64 sat u (ext u x.d + ext u y.d)) (x.poison || y.poison))
  ∧ Computes (.sub64 g sat u d a b) d true (fun x y _ => .dw (fit 64 sat u (ext u x.d - ext u y.d)) (x.poison || y.poison))
  ∧ Computes (.lea g u sh d a b) d true (fun x y _ =>
      .dw ((x.d.extractLsb' 56 8 ++ (x.d.extractLsb' 0 56 + BitVec.ofInt 56 (ext u y.lo * 2 ^ sh.toNat)) : BitVec 64)) (x.poison || y.pl))
  ∧ Computes (.psnt g false d a) d false (fun x _ _ => .w (b2w x.poison) false)
  ∧ Computes (.psnt g true d a) d false (fun x _ _ => .w (b2w (x.pl || x.ph)) false)

/-- R109, R110, R112 to R114, R118 to R121 and R127, for the binary32 forms: the operands and the result pass through the team's flush bit, and the operation
is rounded once, to the code that `RoundsTo` says. Of 2^a and log2 a, the exact results and the special operands alone are stated. -/
def Obligations.FloatResults : Prop := ∀ (g : Guard) (sat prop : Bool) (rm : RMode) (d : Code) (a b c : Src),
  Floats (.fadd g sat rm d a b) d (fun z x y _ => .w (out32 z rm sat (fxAdd rm (src32 z x.lo) (src32 z y.lo))) (x.pl || y.pl))
  ∧ Floats (.fsub g sat rm d a b) d (fun z x y _ => .w (out32 z rm sat (fxAdd rm (src32 z x.lo) (fxNeg (src32 z y.lo)))) (x.pl || y.pl))
  ∧ Floats (.fmul g sat rm d a b) d (fun z x y _ => .w (out32 z rm sat (fxMul (src32 z x.lo) (src32 z y.lo))) (x.pl || y.pl))
  ∧ Floats (.ffma g sat rm d a b c) d (fun z x y v =>
      .w (out32 z rm sat (fxAdd rm (fxMul (src32 z x.lo) (src32 z y.lo)) (src32 z v.lo))) (x.pl || y.pl || v.pl))
  ∧ Floats (.fdiv g sat rm d a b) d (fun z x y _ => .w (out32 z rm sat (fxDiv (src32 z x.lo) (src32 z y.lo))) (x.pl || y.pl))
  ∧ Floats (.fsqrt g sat rm d a) d (fun z x _ _ => .w (out32 z rm sat (fxSqrt (src32 z x.lo))) x.pl)
  ∧ Floats (.fmin g prop d a b) d (fun z x y _ => .w (fMinMax false z prop x.lo y.lo) (x.pl || y.pl))
  ∧ Floats (.fmax g prop d a b) d (fun z x y _ => .w (fMinMax true z prop x.lo y.lo) (x.pl || y.pl))
  ∧ Floats (.fabs g d a) d (fun _ x _ _ => .w (if 0x7F800000 < x.lo.toNat % 2 ^ 31 then 0x7FC00000 else x.lo &&& 0x7FFFFFFF) x.pl)
  ∧ Floats (.fneg g d a) d (fun _ x _ _ => .w (if 0x7F800000 < x.lo.toNat % 2 ^ 31 then 0x7FC00000 else x.lo ^^^ 0x80000000) x.pl)
  ∧ Floats (.fex2 g sat rm d a) d (fun z x _ _ => .w (out32 z rm sat (fxExp2 (src32 z x.lo))) x.pl)
  ∧ Floats (.flg2 g sat rm d a) d (fun z x _ _ => .w (out32 z rm sat (fxLog2 (src32 z x.lo))) x.pl)
  ∧ Floats (.frcp g sat d a) d (fun z x _ _ => .w (out32 z .rz sat (fxDiv (.fin false 1 0 false) (src32 z x.lo))) x.pl)
  ∧ Floats (.frsq g sat d a) d (fun z x _ _ => .w (out32 z .rz sat (fxRsqrt (src32 z x.lo))) x.pl)
  ∧ (∀ f ∈ [f32, f16, bf16], f.put rm sat .nan = f.nan ∧ ∀ neg m e, f.put rm sat (.inf neg) = f.sign neg + (if sat then f.big else f.infCode)
    ∧ f.put rm sat (.fin neg 0 e false) = f.sign neg ∧ (0 < m → HoldsRounded f rm sat neg (ratio f m 1 e) (f.put rm sat (.fin neg m e false))))
  ∧ (∀ z x, (out32 z rm sat x).toNat = (if z = true ∧ f32.put rm sat x % 2 ^ 31 < 2 ^ 23 then f32.put rm sat x / 2 ^ 31 * 2 ^ 31 else f32.put rm sat x))
  ∧ (∀ z (x : Word), (255 * 2 ^ 23 ≤ x.toNat % 2 ^ 31 → src32 z x = if x.toNat % 2 ^ 23 = 0 then .inf x.msb else .nan)
    ∧ (x.toNat % 2 ^ 31 < 255 * 2 ^ 23 → ∃ m e, src32 z x = .fin x.msb m e false ∧ f32.emin ≤ e
      ∧ m * 2 ^ (e - f32.emin).toNat = if z = true ∧ x.toNat % 2 ^ 31 < 2 ^ 23 then 0 else fmtUnits f32 (x.toNat % 2 ^ 31)))
  ∧ (∀ x, fxAdd rm .nan x = .nan ∧ fxAdd rm x .nan = .nan ∧ fxMul .nan x = .nan ∧ fxMul x .nan = .nan ∧ fxDiv .nan x = .nan ∧ fxDiv x .nan = .nan)
  ∧ (∀ (p q : Bool) (m n : Nat) (e k : Int),
    fxAdd rm (.inf p) (.inf q) = (if p = q then .inf p else .nan) ∧ fxAdd rm (.inf p) (.fin q n k false) = .inf p ∧ fxAdd rm (.fin q n k false) (.inf p) = .inf p
    ∧ (∃ r t v, fxAdd rm (.fin p m e false) (.fin q n k false) = .fin r t v false ∧ (t = 0 → r = if p = q then p else rm == .rd)
      ∧ ∀ u, u ≤ e → u ≤ k → scaled r t v u = scaled p m e u + scaled q n k u)
    ∧ fxMul (.inf p) (.inf q) = .inf (p != q) ∧ fxMul (.inf p) (.fin q n k false) = (if n = 0 then .nan else .inf (p != q))
    ∧ fxMul (.fin q n k false) (.inf p) = (if n = 0 then .nan else .inf (q != p))
    ∧ fxMul (.fin p m e false) (.fin q n k false) = .fin (p != q) (m * n) (e + k) false
    ∧ fxDiv (.inf p) (.inf q) = .nan ∧ fxDiv (.inf p) (.fin q n k false) = .inf (p != q) ∧ fxDiv (.fin p m e false) (.inf q) = .fin (p != q) 0 0 false
    ∧ fxDiv (.fin p m e false) (.fin q 0 k false) = (if m = 0 then .nan else .inf (p != q)) ∧ (0 < n → fxDiv (.fin p 0 e false) (.fin q n k false) = .fin (p != q) 0 0 false)
    ∧ (0 < m → 0 < n → HoldsRounded f32 rm sat (p != q) (ratio f32 m n (e - k)) (f32.put rm sat (fxDiv (.fin p m e false) (.fin q n k false))))
    ∧ fxSqrt .nan = .nan ∧ fxSqrt (.inf p) = (if p then .nan else .inf false) ∧ fxSqrt (.fin p 0 e false) = .fin p 0 0 false
    ∧ (0 < m → fxSqrt (.fin true m e false) = .nan ∧ HoldsRounded f32 rm sat false (fun h => compare (h * h * 2 ^ (2 * f32.emin - e).toNat) (4 * m * 2 ^ (e - 2 * f32.emin).toNat))
      (f32.put rm sat (fxSqrt (.fin false m e false))))
    ∧ fxRsqrt .nan = .nan ∧ fxRsqrt (.inf p) = (if p then .nan else .fin false 0 0 false) ∧ fxRsqrt (.fin p 0 e false) = .inf p
    ∧ (0 < m → m < 2 ^ 24 → fxRsqrt (.fin true m e false) = .nan
      ∧ HoldsRounded f32 .rz sat false (fun h => compare (h * h * m * 2 ^ (e + 2 * f32.emin).toNat) (4 * 2 ^ (-(e + 2 * f32.emin)).toNat))
        (f32.put .rz sat (fxRsqrt (.fin false m e false))))
    ∧ fxExp2 .nan = .nan ∧ fxExp2 (.inf p) = (if p then .fin false 0 0 false else .inf false) ∧ fxExp2 (.fin p 0 e false) = .fin false 1 0 false
    ∧ (0 < m → n ≤ 149 → m * 2 ^ e.toNat = n * 2 ^ (-e).toNat → fxExp2 (.fin p m e false) = .fin false 1 (if p then -n else n) false)
    ∧ fxLog2 .nan = .nan ∧ fxLog2 (.inf p) = (if p then .nan else .inf false) ∧ fxLog2 (.fin p 0 e false) = .inf true ∧ (0 < m → fxLog2 (.fin true m e false) = .nan)
    ∧ fxLog2 (.fin false (2 ^ m) e false) = .fin (decide (e + m < 0)) (e + m).natAbs 0 false)

/-- R105, R108, R111, R115, R122 to R126, R128 and R129: the formats and their codes; the packed, compare, conversion and random forms. -/
def Obligations.PackedAndConversionResults : Prop := ∀ (g : Guard) (sat rs sc : Bool) (rm : RMode) (t : PkT) (n : NarT) (cm : CmT) (cmp : FCmp) (k : CvKind)
    (o : ROut) (d : Code) (a b c : Src),
  Floats (.fadd2 g sat rm t d a b) d (fun _ x y _ => .w (pk2 t rm sat (fun p q _ => fxAdd rm p q) x.lo y.lo 0) (x.pl || y.pl))
  ∧ Floats (.fmul2 g sat rm t d a b) d (fun _ x y _ => .w (pk2 t rm sat (fun p q _ => fxMul p q) x.lo y.lo 0) (x.pl || y.pl))
  ∧ Floats (.ffma2 g sat rm t d a b c) d (fun _ x y z =>
      .w (pk2 t rm sat (fun p q r => fxAdd rm (fxMul p q) r) x.lo y.lo z.lo) (x.pl || y.pl || z.pl))
  ∧ Floats (.fcmp g cmp cm d a b) d (fun z x y _ => .w (fCmp z cmp cm x.lo y.lo) (x.pl || y.pl))
  ∧ Floats (.fcvt g rm k d a) d (fun z x _ _ => .w (match k with
      | .i32f32 => BitVec.ofInt 32 (toInt rm (-2 ^ 31) (2 ^ 31 - 1) (src32 z x.lo))
      | .n32f32 => BitVec.ofInt 32 (toInt rm 0 (2 ^ 32 - 1) (src32 z x.lo))
      | .f32i32 => BitVec.ofNat 32 (f32.put rm false (fxInt false x.lo.toInt 0))
      | .f32n32 => BitVec.ofNat 32 (f32.put rm false (fxInt false (x.lo.toNat : Int) 0))) x.pl)
  ∧ Floats (.fpack g n sat rs d a b c) d (fun z x y v => .w (fPack z n sat rs x.lo y.lo v.lo) (x.pl || y.pl || v.pl))
  ∧ Floats (.funpk g n sc d a b c) d (fun z x y v => .w (fUnpk z n sc x.lo y.lo v.lo) (x.pl || y.pl || v.pl))
  ∧ Floats (.rnd g o d a b c) d (fun _ x y z => .w (match o with
      | .raw => BitVec.ofNat 32 (rnd32 x.lo.toNat y.lo.toNat z.lo.toNat)
      | .co => BitVec.ofNat 32 (f32.put .rn false (fxInt false ((rnd32 x.lo.toNat y.lo.toNat z.lo.toNat / 2 ^ 8 : Nat) : Int) (-24)))
      | .oc => BitVec.ofNat 32 (f32.put .rn false (fxInt false ((rnd32 x.lo.toNat y.lo.toNat z.lo.toNat / 2 ^ 8 + 1 : Nat) : Int) (-24))))
      (x.pl || y.pl || z.pl))
  ∧ (∀ fs, fs = [f32, f16, bf16, e4m3, e5m2, e3m2, e2m3, e2m1] →
    fs.map FFmt.big = [0x7F7FFFFF, 0x7BFF, 0x7F7F, 0x7E, 0x7B, 0x1F, 0x1F, 7] ∧ fs.map FFmt.emin = [-149, -24, -133, -9, -16, -4, -3, -1]
    ∧ fs.map FFmt.nan = [0x7FC00000, 0x7E00, 0x7FC0, 0x7F, 0x7E, 0, 0, 0] ∧ fs.map (FFmt.sign · true) = [0x80000000, 0x8000, 0x8000, 0x80, 0x80, 0x20, 0x20, 8]
    ∧ ∀ f ∈ fs, ∀ neg v,
      (v ≤ f.big → ∃ m e, f.read (f.sign neg + v) = .fin neg m e false ∧ f.emin ≤ e ∧ m * 2 ^ (e - f.emin).toNat = fmtUnits f v)
      ∧ (f ∉ [e4m3, e3m2, e2m3, e2m1] → f.read (f.sign neg + (f.big + 1)) = .inf neg ∧ (f.big + 1 < v → v < f.sign true → f.read (f.sign neg + v) = .nan))
      ∧ (f = e4m3 → f.read (f.sign neg + 0x7F) = .nan))
  ∧ (∀ f ∈ [f16, bf16, e4m3, e5m2, e3m2, e2m3, e2m1], ∀ neg m e r, r < 2 ^ 16 →
    (f.beyond sat neg = if f = e4m3 then (if sat then f.sign neg + f.big else f.nan)
      else f.sign neg + (if sat = true ∨ f ∈ [e3m2, e2m3, e2m1] then f.big else f.big + 1))
    ∧ f.pack sat .nan = f.nan ∧ f.pack sat (.inf neg) = f.beyond sat neg ∧ f.pack sat (.fin neg 0 e false) = f.sign neg
    ∧ (0 < m → ∃ v, RoundsTo f .rn neg (ratio f m 1 e) v ∧ f.pack sat (.fin neg m e false) = if v = f.big + 1 then f.beyond sat neg else f.sign neg + v)
    ∧ f.packRs sat r .nan = f.nan ∧ f.packRs sat r (.inf neg) = f.beyond sat neg ∧ f.packRs sat r (.fin neg 0 e false) = f.sign neg
    ∧ ∀ p q v, 0 < m → p = m * 2 ^ (e - f.emin).toNat → q = 2 ^ (f.emin - e).toNat →
      (fmtUnits f (f.big + 1) * q ≤ p → f.packRs sat r (.fin neg m e false) = f.beyond sat neg)
      ∧ (v ≤ f.big → fmtUnits f v * q ≤ p → p < fmtUnits f (v + 1) * q → f.packRs sat r (.fin neg m e false) =
        if (p - fmtUnits f v * q) * 2 ^ 16 / ((fmtUnits f (v + 1) - fmtUnits f v) * q) + r < 2 ^ 16 then f.sign neg + v
        else if v = f.big then f.beyond sat neg else f.sign neg + (v + 1)))
  ∧ (∀ (x y z : Word) (u : Bool) (j : Nat) (op : FX → FX → FX → FX), j < 2 →
    (pk2 t rm sat op x y z).toNat / 2 ^ (16 * j) % 2 ^ 16 = (pkFmt t).put rm sat (op ((pkFmt t).read (x.toNat / 2 ^ (16 * j) % 2 ^ 16))
      ((pkFmt t).read (y.toNat / 2 ^ (16 * j) % 2 ^ 16)) ((pkFmt t).read (z.toNat / 2 ^ (16 * j) % 2 ^ 16)))
    ∧ (fPack u n sat rs x y z).toNat / 2 ^ (narWidth n * j) % 2 ^ narWidth n = (if rs then (narFmt n).packRs sat (z.toNat / 2 ^ (16 * j) % 2 ^ 16) (src32 u (if j = 0 then x else y))
      else (narFmt n).pack sat (src32 u (if j = 0 then x else y)))
    ∧ (fPack u n sat rs x y z).toNat < 2 ^ (2 * narWidth n)
    ∧ (∀ v, v = (narFmt n).read (x.toNat / 2 ^ (narWidth n * (y.toNat % (32 / narWidth n))) % 2 ^ narBits n) →
      fUnpk u n sc x y z = out32 u .rn false (if sc = false then v else if z.toNat % 2 ^ 8 = 255 then .nan else fxScale ((z.toNat % 2 ^ 8 : Nat) - 127) v))
    ∧ (∀ r, r = fxCmp (cmpSrc u cm x) (cmpSrc u cm y) → fCmp u .eq cm x y = b2w (r = some 0) ∧ fCmp u .ne cm x y = b2w (r ≠ some 0) ∧ fCmp u .lt cm x y = b2w (r = some (-1))
      ∧ fCmp u .le cm x y = b2w (r = some (-1) ∨ r = some 0) ∧ fCmp u .gt cm x y = b2w (r = some 1) ∧ fCmp u .ge cm x y = b2w (r = some 1 ∨ r = some 0)
      ∧ fCmp u .nan cm x y = b2w (r = none) ∧ fCmp u .num cm x y = b2w (r ≠ none))
    ∧ cmpSrc u .f32 x = src32 u x ∧ cmpSrc u .f16 x = f16.read (x.toNat % 2 ^ 16) ∧ cmpSrc u .bf16 x = bf16.read (x.toNat % 2 ^ 16)
    ∧ rnd32 x.toNat y.toNat z.toNat = ((List.range 10).foldl (fun e r => ((e.1 * 0xD2511F53 / 2 ^ 32) ^^^ e.2 ^^^ ((x.toNat + r * 0x9E3779B9) % 2 ^ 32),
        e.1 * 0xD2511F53 % 2 ^ 32)) (z.toNat, y.toNat)).1)
  ∧ (∀ (p q : Bool) (m j : Nat) (e v w : Int) (x : FX), fxCmp .nan x = none ∧ fxCmp x .nan = none
    ∧ fxCmp (.inf p) (.inf q) = some (if p = q then 0 else if p then -1 else 1) ∧ fxCmp (.inf p) (.fin q m e false) = some (if p then -1 else 1)
    ∧ fxCmp (.fin q m e false) (.inf p) = some (if p then 1 else -1)
    ∧ (∀ u, u ≤ e → u ≤ v → fxCmp (.fin p m e false) (.fin q j v false) = some (scaled p m e u - scaled q j v u).sign)
    ∧ fxScale v (.fin p m e false) = .fin p m (e + v) false ∧ fxScale v (.inf p) = .inf p ∧ fxScale v .nan = .nan
    ∧ fxInt p 0 e = .fin p 0 0 false ∧ (w ≠ 0 → fxInt p w e = .fin (decide (w < 0)) w.natAbs e false)
    ∧ ∀ b ∈ [((-2 ^ 31 : Int), (2 ^ 31 - 1 : Int)), (0, 2 ^ 32 - 1)], toInt rm b.1 b.2 .nan = 0 ∧ toInt rm b.1 b.2 (.inf p) = (if p then b.1 else b.2)
      ∧ ∃ h, RoundsInt rm p (m * 2 ^ e.toNat) (2 ^ (-e).toNat) h ∧ toInt rm b.1 b.2 (.fin p m e false) = max b.1 (min (if p then -(h : Int) else h) b.2))

/-- R87 and R88: registers that a lane names by a number it holds, and the emptying of registers. -/
def Obligations.IndexedMoves : Prop := ∀ (g : Guard) (wide : Bool) (d : Code) (a b : Src),
  Does (.movx g wide d a) (fun _ _ e x _ _ => x.poison = false ∧ indexBad wide e.lane x.lo.toNat = false
      ∧ (∀ k ∈ indexRegs wide x.lo.toNat, (e.lane.reg k).st = .full)
      ∧ (isScal d.toNat = true → ∀ k ∈ indexRegs wide x.lo.toNat, (e.lane.reg k).poison = false))
    (fun s _ e x _ _ => (.put (if wide then
        ⟨(e.lane.reg x.lo.toNat).v, (e.lane.reg (x.lo.toNat + 1)).v, (e.lane.reg x.lo.toNat).poison, (e.lane.reg (x.lo.toNat + 1)).poison⟩
      else .w (e.lane.reg x.lo.toNat).v (e.lane.reg x.lo.toNat).poison), s))
  ∧ Does (.movxw g wide a b) (fun _ _ e x _ _ => e.lane.regs.length ≤ 128 ∧ x.poison = false ∧ indexBad wide e.lane x.lo.toNat = false
      ∧ ∀ k ∈ indexRegs wide x.lo.toNat, (e.lane.reg k).st.isPend = false)
    (fun s _ e x y _ => (.upd (if wide then (e.lane.setReg x.lo.toNat y.lo y.pl).setReg (x.lo.toNat + 1) y.hi y.ph
      else e.lane.setReg x.lo.toNat y.lo y.pl), s))
  ∧ DoesInside (.mkempty g wide d) (fun s w e _ _ _ => ∀ c ∈ s.couriers, ¬ (c.2.tid = w.group.tid ∧ c.2.lid = e.lid))
    (fun s _ e _ _ _ => (.upd (e.lane.mkOpen d.toNat wide), s))

/-- psnc, lease and fence.ld change their lane alone (R191, R148, R153). -/
def Obligations.LaneOnlyWords : Prop := ∀ (g : Guard) (wide : Bool) (d : Code) (len : LLen),
  Does (.psnc g wide d) (fun _ _ _ _ _ _ => True) (fun s _ e _ _ _ => (.upd (
      if d.toNat < 128 then (if wide then (e.lane.clearPoison d.toNat).clearPoison (d.toNat + 1) else e.lane.clearPoison d.toNat)
      else e.lane.setPred (d.toNat - 160) (e.lane.pred (d.toNat - 160)).v false), s))
  ∧ Does (.lease g len) (fun _ _ _ _ _ _ => True) (fun s _ e _ _ _ => (.upd { e.lane with lease := leaseNs len }, s))
  ∧ Does (.fenceLd g) (fun _ _ _ _ _ _ => True) (fun s w e _ _ _ => (if e.lane.loadsDone then .off
      else .block (.fenceLd (nextHead w e) (nextWord w)), s))

/-- R91 and R92: the cross-lane forms see the lanes that execute the word. The poison of a shfl result, and what the trap of a lane names whose team-scalar D
is poisoned through another lane, are the model's readings (assumption logs 12 and 110). -/
def Obligations.CrossLaneResults : Prop := ∀ (g : Guard) (d : Code) (a b : Src),
  ComputesAcross (.gmask g .ballot d a) d false (fun xs _ _ _ _ =>
    .w (BitVec.ofNat 32 (sumOf (xs.map (fun x => if x.a.lo ≠ 0 then 2 ^ x.ent.slot else 0)))) (xs.any (fun x => x.a.pl)))
  ∧ ComputesAcross (.gmask g .slot d a) d false (fun _ e _ _ _ => .w (BitVec.ofNat 32 e.slot) false)
  ∧ ComputesAcross (.gmask g .lid d a) d false (fun xs _ x _ _ => .w (((exeAt xs (x.lo.toNat % 32)).map (fun y => BitVec.ofNat 32 y.ent.lid)).getD
      0xFFFFFFFF) x.pl)
  ∧ ∀ m, ComputesAcross (.shfl g false m d a b) d false (fun xs e x y _ =>
      .w (((shflSlot m e.slot y.lo.toNat).bind (exeAt xs)).elim x Exe.a).lo ((((shflSlot m e.slot y.lo.toNat).bind (exeAt xs)).elim x Exe.a).pl || y.pl))
    ∧ ComputesAcross (.shfl g true m d a b) d true (fun xs e x y _ =>
      .dw (((shflSlot m e.slot y.lo.toNat).bind (exeAt xs)).elim x Exe.a).d ((((shflSlot m e.slot y.lo.toNat).bind (exeAt xs)).elim x Exe.a).poison || y.pl))

/-- R94 to R96: where the transfers of control go, what the link receives, and exit, for groups of any number of lanes; where the lanes part, the group
dissolves, and where they go to one place, it enters the clause there (R70). With SLOT, a header that is illegal or cannot be fetched is where the lane goes:
it traps there (GroupsAndWaits). -/
def Obligations.Transfers : Prop := ∀ (g : Guard) (d : Code) (off : BitVec 40) (a b : Src),
  Sends (.bra g d off) (fun _ _ _ _ _ _ => True)
    (fun s w e _ _ _ => (.jump { e.lane.link d (fallThrough w.group.h w.group.hdr) with
      h := w.group.h + BitVec.ofInt 56 (8 * off.toInt), slot := none }, s))
  ∧ Sends (.brx g false d a b) (fun _ _ _ x _ _ => x.poison = false ∧ (x.d.extractLsb' 0 56).toNat % 8 = 0)
    (fun s w e x _ _ => (.jump ((({ e.lane with refused := none } : Lane).link d (fallThrough w.group.h w.group.hdr)).returnFromTrap
      (x.d.extractLsb' 0 56) none), s))
  ∧ Sends (.brx g true d a b) (fun s w e x y _ => x.poison = false ∧ y.poison = false ∧ (x.d.extractLsb' 0 56).toNat % 8 = 0
      ∧ ∃ r t, fetchWord s (s.tagsOf w.core w.team) (x.d.extractLsb' 0 56).toNat e.lane.refused = (r, t) ∧ t.bus = none
        ∧ ((∃ c, r = .error (.fail c)) ∨ ∃ hdr, r = .ok hdr ∧ (hdrBad hdr = true ∨ y.lo.toNat ≤ hdrCount hdr + 1)))
    (fun s w e x y _ => (.jump
        (match (fetchWord s (s.tagsOf w.core w.team) (x.d.extractLsb' 0 56).toNat e.lane.refused).1 with
        | .error _ => (({ e.lane with refused := none } : Lane).link d (fallThrough w.group.h w.group.hdr)).returnFromTrap (x.d.extractLsb' 0 56) none
        | .ok hdr =>
          if hdrBad hdr then (({ e.lane with refused := none } : Lane).link d (fallThrough w.group.h w.group.hdr)).returnFromTrap (x.d.extractLsb' 0 56) none
          else if y.lo.toNat ≤ hdrCount hdr then
            (({ e.lane with refused := none } : Lane).link d (fallThrough w.group.h w.group.hdr)).returnFromTrap (x.d.extractLsb' 0 56) (some y.lo.toNat)
          else (({ e.lane with refused := none } : Lane).link d (fallThrough w.group.h w.group.hdr)).returnFromTrap (fallThrough (x.d.extractLsb' 0 56) hdr) none),
      (fetchWord s (s.tagsOf w.core w.team) (x.d.extractLsb' 0 56).toNat e.lane.refused).2))
  ∧ Sends (.exit g) (fun s w e _ _ _ => ∀ c ∈ s.couriers, ¬ (c.2.tid = w.group.tid ∧ c.2.lid = e.lid))
    (fun s _ e _ _ _ => (.leave { e.lane with exited := true }, s))

/-- R97 and R100 to R102: trap takes the trap. The lane stands at TVEC inside the trap, its trap registers hold the clause, the cause and the operand,
and its trap-entry group is to be formed. -/
def Obligations.TrapWord : Prop := ∀ (g : Guard) (a : Src) (s : State) (w : WordCtx) (e : Ent) (x y z : Val),
  Alone s w (.trap g a) e x y z → s.atFront (w.team.place.getD (0, 0)).1 w.team.lseq = true → (s.ctx w.grid.ctx).fault = none → (s.ctx w.grid.ctx).tvec ≠ 0 → e.lane.inTrap = false →
  e.lane.exited = false → w.grid.lrec.budget = 0 → 4 ≤ e.lane.regs.length →
  ∃ t l u, exec (.trap g a) s = .next t ∧ t.lane w.group.tid e.lid = some l
    ∧ l.h = BitVec.ofNat 56 (s.ctx w.grid.ctx).tvec ∧ l.slot = none ∧ l.inTrap = true ∧ l.regs.length = e.lane.regs.length
    ∧ l.reg (l.regs.length - 4) = ⟨BitVec.ofNat 32 w.group.h.toNat, false, .full⟩
    ∧ l.reg (l.regs.length - 3) = ⟨BitVec.ofNat 32 (w.group.h.toNat / 2 ^ 32), false, .full⟩
    ∧ l.reg (l.regs.length - 2) = ⟨BitVec.ofNat 32 (0x13 * 2 ^ 24 + w.group.slot * 2 ^ 16 + hdrCount w.group.hdr * 2 ^ 10), false, .full⟩
    ∧ l.reg (l.regs.length - 1) = ⟨x.lo, false, .full⟩
    ∧ (∀ n, n < l.regs.length - 4 → l.reg n = e.lane.reg n) ∧ l.preds = e.lane.preds
    ∧ t.team w.group.tid = some u ∧ u.traps = w.team.traps ++ [⟨s.cyc, w.group.h, e.lid, false⟩]
    ∧ (∀ lid, lid ≠ e.lid → t.lane w.group.tid lid = s.lane w.group.tid lid) ∧ (∀ tid, tid ≠ w.group.tid → t.team tid = s.team tid)
    ∧ t = { s with teams := t.teams, cores := t.cores }

/-- R98: two teams of a grid on one core pair at the first baton that names the other; take moves the baton to the lane's team from a holder that stands
in no clause with the BATON bit, and the other form gives it to the named team; a baton that names no resident team of the grid on the core, the lane's
own team, or a team of another pair gives 0 and does nothing. -/
def Obligations.BatonPairs : Prop := ∀ (g : Guard) (tk : Bool) (d : Code) (a : Src) (s : State) (w : WordCtx) (e : Ent) (x y z : Val) (other : Nat) (u : Team),
  Alone s w (.baton g tk d a) e x y z → x.pl = false →
  (firstWith (fun (q : Nat × Team) => q.2.lseq == w.team.lseq && q.2.tlin == x.lo.toNat
    && (match q.2.loc with | .resident c _ => c == w.core | .saving _ _ | .saved => false)) s.teams = none →
    exec (.baton g tk d a) s = .next (afterWord s w (.baton g tk d a) [(e, .put (.w 0 false))]))
  ∧ (firstWith (fun (q : Nat × Team) => q.2.lseq == w.team.lseq && q.2.tlin == x.lo.toNat
    && (match q.2.loc with | .resident c _ => c == w.core | .saving _ _ | .saved => false)) s.teams = some (other, u) → s.team other = some u →
    ((other = w.group.tid ∨ (∃ q, w.team.partner = some q ∧ q ≠ other) ∨ ∃ q, u.partner = some q ∧ q ≠ w.group.tid) →
      exec (.baton g tk d a) s = .next (afterWord s w (.baton g tk d a) [(e, .put (.w 0 false))]))
    ∧ (other ≠ w.group.tid → (∀ q, w.team.partner = some q → q = other) → (∀ q, u.partner = some q → q = w.group.tid) → u.batonMove = none →
      ∃ t p q, exec (.baton g tk d a) s = .next t ∧ t.team w.group.tid = some p ∧ t.team other = some q
        ∧ p.partner = some other ∧ q.partner = some w.group.tid
        ∧ t.lane w.group.tid e.lid = some (advance w.group (e.lane.writeD d.toNat false (.w 1 false)))
        ∧ p.pendScal = w.team.pendScal ++ (if isScal d.toNat then [(w.sched, d.toNat - 128, 1)] else [])
        ∧ (tk = true → (u.holder = true → (s.core w.core).scheds.any (fun k => k.groups.any (fun r => r.tid == other && hdrBaton r.hdr)) = false) →
            p.holder = true ∧ q = { u with partner := some w.group.tid, holder := false })
        ∧ (tk = false → (w.team.holder = true → (∃ k, w.team.place = some (w.core, k))
              ∧ (s.core w.core).scheds.any (fun k => k.groups.any (fun r => r.tid == w.group.tid && hdrBaton r.hdr)) = false) →
            p.holder = false ∧ q = { u with partner := some w.group.tid, holder := true })
        ∧ (∀ tid, tid ≠ w.group.tid → tid ≠ other → t.team tid = s.team tid)
        ∧ t = { s with teams := t.teams, cores := t.cores }))

/-- R135, R137, R138, R141, R143 and R160, for groups of any number of lanes: words on the pad. A load's value is on its way to D at once; a store is in
the pad; prmw is one step. Each lane finds the pad as the lanes of lower slots have left it; that a pad access is performed at the instant of issue is the
model's choice (assumption log 108). -/
def Obligations.PadWords : Prop := ∀ (g : Guard) (sz : Sz) (fn : AFn) (ty : Ty) (d : Code) (a b : Src) (off : BitVec 8),
  DoesAll (.pld g sz d a off) (fun _ _ => True) (fun s w e x _ _ => x.pl = true ∨ (padOff x.lo off (szBytes sz) % szBytes sz = 0
      ∧ padOff x.lo off (szBytes sz) + szBytes sz ≤ w.team.padb ∧ NoLdp s w e))
    (fun s w e x _ _ => if x.pl then deliverLater s w e (.pld g sz d a off) ⟨0, 0, true, true⟩ else
      (oweD s (.pld g sz d a off) e, launch s { flightOf s w e (.pld g sz d a off) (.pld (padOff x.lo off (szBytes sz)) sz) 0 with
        stage := .got (BitVec.ofNat 64 (leNat (padRead s w.group.tid (padOff x.lo off (szBytes sz)) (szBytes sz)))) }))
  ∧ DoesAll (.pst g sz a b off) (fun _ _ => True) (fun s w e x y _ => x.poison = false ∧ y.poison = false ∧ padOff x.lo off (szBytes sz) % szBytes sz = 0
      ∧ padOff x.lo off (szBytes sz) + szBytes sz ≤ w.team.padb ∧ NoLdp s w e)
    (fun s w e x y _ => (.off, padWrite s w.group.tid (some (e.lid, s.ids)) (padOff x.lo off (szBytes sz)) (leBytes (szBytes sz) y.d.toNat)))
  ∧ DoesAll (.prmw g fn ty d a b off) (fun _ _ => True) (fun s w e x y _ => x.poison = false ∧ y.poison = false
      ∧ padOff x.lo off (tyBytes ty) % tyBytes ty = 0 ∧ padOff x.lo off (tyBytes ty) + tyBytes ty ≤ w.team.padb ∧ NoLdp s w e)
    (fun s w e x y _ => deliverLater
      (padWrite s w.group.tid (some (e.lid, s.ids)) (padOff x.lo off (tyBytes ty)) (leBytes (tyBytes ty)
        (atomicNew fn ty (leNat (padRead s w.group.tid (padOff x.lo off (tyBytes ty)) (tyBytes ty))) y.d.toNat))) w e (.prmw g fn ty d a b off)
      (if ty.is64 then .dw (BitVec.ofNat 64 (leNat (padRead s w.group.tid (padOff x.lo off (tyBytes ty)) (tyBytes ty)))) false
        else .w (BitVec.ofNat 32 (leNat (padRead s w.group.tid (padOff x.lo off (tyBytes ty)) (tyBytes ty)))) false))

/-- R135, R137, R140, R147, R192 and R193, for groups of any number of lanes: words that read global memory put an access on its way, to the address that
the operands give, and owe it D. A load that hits in the L1 level has its bytes at once (R131); a poisoned address gives poison (R137). An ldp holds later
words that use the pad (assumption log 32). `pa`, `leaf`, `bytes` and `c` are what the lanes' addresses reach. -/
def Obligations.LoadWords : Prop := ∀ (g : Guard) (h : Hint) (sz : Sz) (lvl : Lvl) (pt : BitVec 5) (q wr : Bool) (d : Code) (a b : Src) (off : BitVec 8)
    (pa leaf : Ent → Nat),
  (∀ (bytes : Ent → List Byte) (c : Ent → Copy), DoesAll (.ld g h sz d a off) NoneFailed (fun s w e x _ _ => x.poison = true
      ∨ (eaVa (eaOf x.d off (szBytes sz)) % szBytes sz = 0 ∧ Unwatched s w e true false (eaOf x.d off (szBytes sz)) (szBytes sz)
        ∧ ((hitNow s w e h (eaOf x.d off (szBytes sz)) (szBytes sz) = none ∧ Reaches s w .ld (eaOf x.d off (szBytes sz)) (szBytes sz) (pa e) (leaf e))
          ∨ (hitNow s w e h (eaOf x.d off (szBytes sz)) (szBytes sz) = some (.ok (bytes e, c e))
            ∧ s.window w.grid.ctx (eaVa (eaOf x.d off (szBytes sz))) = none))))
    (fun s w e x _ _ => if x.poison then deliverLater s w e (.ld g h sz d a off) ⟨0, 0, true, true⟩
      else if (hitNow s w e h (eaOf x.d off (szBytes sz)) (szBytes sz)).isNone then
        (oweD s (.ld g h sz d a off) (e.now s w), launch (translated s w .ld (eaOf x.d off (szBytes sz)) (szBytes sz))
          { flightOf s w e (.ld g h sz d a off) (.ld sz h) (eaOf x.d off (szBytes sz)) with stage := .ready, pa := pa e, leaf := BitVec.ofNat 64 (leaf e) })
      else (oweD s (.ld g h sz d a off) (e.now (sawCopy s w e (c e) (eaOf x.d off (szBytes sz))) w), launch (sawCopy s w e (c e) (eaOf x.d off (szBytes sz)))
        { flightOf s w e (.ld g h sz d a off) (.ld sz h) (eaOf x.d off (szBytes sz)) with
          stage := .got (BitVec.ofNat 64 (leNat (bytes e))), pa := (c e).pa * 128 + eaVa (eaOf x.d off (szBytes sz)) % 128, leaf := (c e).leaf })))
  ∧ DoesAll (.ldp g pt a b) NoneFailed (fun s w e x y _ => x.poison = true ∨ y.pl = true ∨ (eaVa (eaOf x.d 0 16) % 16 = 0 ∧ y.lo.toNat % 16 = 0
      ∧ y.lo.toNat + 16 ≤ w.team.padb ∧ Unwatched s w e true false (eaOf x.d 0 16) 16 ∧ hitNow s w e .dflt (eaOf x.d 0 16) 16 = none
      ∧ Reaches s w .ld (eaOf x.d 0 16) 16 (pa e) (leaf e)))
    (fun s w e x y _ => (.off, if x.poison || y.pl then launch s { flightOf s w e (.ldp g pt a b) (.ldp 0 pt.toNat) x.d with stage := .bad }
      else launch (translated s w .ld (eaOf x.d 0 16) 16)
        { flightOf s w e (.ldp g pt a b) (.ldp y.lo.toNat pt.toNat) (eaOf x.d 0 16) with stage := .ready, pa := pa e, leaf := BitVec.ofNat 64 (leaf e) }))
  ∧ DoesAll (.pref g lvl a off) (fun _ _ => True) (fun s w e x _ _ => x.poison = true ∨ Reaches s w .rd (eaOf x.d off 128) 1 (pa e) (leaf e))
    (fun s w e x _ _ => (.off, if x.poison then s else launch (translated s w .rd (eaOf x.d off 128) 1)
      { flightOf s w e (.pref g lvl a off) (.pref (lvl == .l1)) (eaOf x.d off 128) with pa := pa e, leaf := BitVec.ofNat 64 (leaf e) }))
  ∧ DoesAll (.xlq g q wr d a) (fun _ _ => True) (fun s w e x _ _ => x.poison = true ∨ Reaches s w (if wr then .wr else .rd) x.d 1 (pa e) (leaf e))
    (fun s w e x _ _ => if x.poison then deliverLater s w e (.xlq g q wr d a) ⟨0, 0, true, true⟩
      else (oweD s (.xlq g q wr d a) e, launch (translated s w (if wr then .wr else .rd) x.d 1) (flightOf s w e (.xlq g q wr d a) (.xlq q wr) x.d)))
  ∧ DoesAll (.tagr g d a) NoneFailed (fun s w e x _ _ => x.poison = true
      ∨ (Unwatched s w e true false (tagBlock x.d) 256 ∧ Reaches s w .tagr (tagBlock x.d) 256 (pa e) (leaf e)))
    (fun s w e x _ _ => if x.poison then deliverLater s w e (.tagr g d a) ⟨0, 0, true, true⟩
      else (oweD s (.tagr g d a) (e.now s w), launch (translated s w .tagr (tagBlock x.d) 256)
        { flightOf s w e (.tagr g d a) .tagr x.d with stage := .ready, pa := pa e, leaf := BitVec.ofNat 64 (leaf e) }))

/-- R135, R138, R141 to R146, R177 and R193, for groups of any number of lanes: words that write global memory put one write of each lane on its way, to the
address that the operands give and with the value they give; the forms with D owe it. Nothing is written before the write is performed. That qpush and qpop
check the four bytes at the queue's address alone is the model's reading (assumption log 25). -/
def Obligations.StoreWords : Prop := ∀ (g : Guard) (stream : Bool) (sz : Sz) (fn : AFn) (ty : Ty) (d : Code) (a b : Src) (off : BitVec 8)
    (pa leaf : Ent → Nat),
  DoesAll (.st g stream sz a b off) (fun _ _ => True) (fun s w e x y _ => x.poison = false ∧ y.poison = false ∧ eaVa (eaOf x.d off (szBytes sz)) % szBytes sz = 0
      ∧ Unwatched s w e false true (eaOf x.d off (szBytes sz)) (szBytes sz)
      ∧ Reaches (ownView s w e) w .wr (eaOf x.d off (szBytes sz)) (szBytes sz) (pa e) (leaf e) ∧ Permitted s w .wr (eaOf x.d off (szBytes sz)) (szBytes sz) (leaf e))
    (fun s w e x y _ => Writes s w e (.st g stream sz a b off) (.st sz) .wr (eaOf x.d off (szBytes sz)) (szBytes sz) y.d (pa e) (leaf e) false)
  ∧ DoesAll (.rmw g fn ty d a b off) (fun _ _ => True) (fun s w e x y _ => x.poison = false ∧ y.poison = false ∧ eaVa (eaOf x.d off (tyBytes ty)) % tyBytes ty = 0
      ∧ Unwatched s w e true true (eaOf x.d off (tyBytes ty)) (tyBytes ty)
      ∧ Reaches (ownView s w e) w .wr (eaOf x.d off (tyBytes ty)) (tyBytes ty) (pa e) (leaf e) ∧ Permitted s w .wr (eaOf x.d off (tyBytes ty)) (tyBytes ty) (leaf e))
    (fun s w e x y _ => Writes s w e (.rmw g fn ty d a b off) (.rmw fn ty) .wr (eaOf x.d off (tyBytes ty)) (tyBytes ty) y.d (pa e) (leaf e) true)
  ∧ DoesAll (.red g fn ty a b off) (fun _ _ => True) (fun s w e x y _ => x.poison = false ∧ y.poison = false ∧ eaVa (eaOf x.d off (tyBytes ty)) % tyBytes ty = 0
      ∧ Unwatched s w e true true (eaOf x.d off (tyBytes ty)) (tyBytes ty)
      ∧ Reaches (ownView s w e) w .wr (eaOf x.d off (tyBytes ty)) (tyBytes ty) (pa e) (leaf e) ∧ Permitted s w .wr (eaOf x.d off (tyBytes ty)) (tyBytes ty) (leaf e))
    (fun s w e x y _ => Writes s w e (.red g fn ty a b off) (.red fn ty) .wr (eaOf x.d off (tyBytes ty)) (tyBytes ty) y.d (pa e) (leaf e) false)
  ∧ DoesAll (.qpush g a b) (fun _ _ => True) (fun s w e x y _ => x.poison = false ∧ y.poison = false ∧ eaVa x.d % 4096 = 0 ∧ Unwatched s w e true true x.d 4
      ∧ Reaches (ownView s w e) w .wr x.d 4 (pa e) (leaf e) ∧ Permitted s w .wr x.d 4 (leaf e))
    (fun s w e x y _ => Writes s w e (.qpush g a b) .qpush .wr x.d 4 y.d (pa e) (leaf e) false)
  ∧ DoesAll (.qpop g d a) (fun _ _ => True) (fun s w e x _ _ => x.poison = false ∧ eaVa x.d % 4096 = 0 ∧ Unwatched s w e true true x.d 4
      ∧ Reaches (ownView s w e) w .wr x.d 4 (pa e) (leaf e) ∧ Permitted s w .wr x.d 4 (leaf e))
    (fun s w e x _ _ => Writes s w e (.qpop g d a) .qpop .wr x.d 4 0 (pa e) (leaf e) true)
  ∧ DoesAll (.tagw g a b) (fun _ _ => True) (fun s w e x y _ => x.poison = false ∧ y.poison = false ∧ Unwatched s w e false true (tagBlock x.d) 256
      ∧ Reaches (ownView s w e) w .tagw (tagBlock x.d) 256 (pa e) (leaf e) ∧ AtFront s w)
    (fun s w e x y _ => Writes s w e (.tagw g a b) .tagw .tagw (tagBlock x.d) 256 y.d (pa e) (leaf e) false x.d)

/-- R152: a fence is passed at once where its condition holds, and else the lane waits at it, to go on at the next place. -/
def Obligations.FenceWord : Prop := ∀ (g : Guard) (sc : Scope),
  Does (.fence g sc) (fun _ _ e _ _ _ => sc = .fabric → e.lane.ferr = none)
    (fun s w e _ _ _ => (if s.ldpDone w.group.tid e.lid ∧ s.storesDone w.group.tid e.lid ∧ (sc ≠ .team → e.lane.wct < s.now)
        ∧ (sc = .fabric → s.fabStoresDone w.group.tid e.lid ∧ (e.lane.fwct = 0 ∨ e.lane.fwct + 64 < s.now)) then .off
      else .block (.fence sc (nextHead w e) (nextWord w) (hdrCount w.group.hdr)), s))

/-- R149 to R151: bank checks its range and starts the switches; bankq reads a bank's mode, whether it switches, what uses it and how much of it is free.
A bank in a switch has its target's mode here, and its last two fields go by that (assumption log 117). -/
def Obligations.BankWords : Prop := ∀ (g : Guard) (m : BMode) (d : Code) (a b : Src),
  Does (.bank g m a b) (fun s w _ x y _ => x.pl = false ∧ y.pl = false ∧ y.lo.toNat ≠ 0 ∧ x.lo.toNat + y.lo.toNat ≤ 64
      ∧ ∀ k, x.lo.toNat ≤ k → k < x.lo.toNat + y.lo.toNat → s.bankBusy (clusterOf w.core) m k = false)
    (fun s w _ x y _ => (.off, s.modCluster (clusterOf w.core) (fun c => { c with
      banks := (upFrom x.lo.toNat y.lo.toNat).foldl (fun bs k => if (c.bank k).mode = m then bs else Tab.put k ⟨m, some s.cyc⟩ bs) c.banks
      cache := if (upFrom x.lo.toNat y.lo.toNat).any (fun k => (c.bank k).mode == .cache && m != .cache) then [] else c.cache })))
  ∧ Does (.bank g m a b) (fun _ _ _ x y _ => x.pl = true ∨ y.pl = true) (fun s _ _ _ _ _ => (.off, s))
  ∧ ComputesIf (.bankq g d a) d false (fun x _ _ => x.pl = false ∧ x.lo.toNat ≤ 63) (fun s w x _ _ =>
      let b := (s.cluster (clusterOf w.core)).bank x.lo.toNat
      .w (BitVec.ofNat 32 ((match b.mode with | .cache => 0 | .pad => 1 | .fifo => 2) * 2 ^ 30 + (if b.sw.isSome then 2 ^ 29 else 0)
        + min (match b.mode with | .cache => 0 | .pad => s.bankPads (clusterOf w.core) x.lo.toNat | .fifo => s.bankHoles (clusterOf w.core) x.lo.toNat) 255 * 2 ^ 16
        + (if b.mode = .pad then 4096 - s.bankPadUnits (clusterOf w.core) x.lo.toNat else 0))) false)
  ∧ ComputesIf (.bankq g d a) d false (fun x _ _ => x.pl = true) (fun _ _ _ _ _ => .w 0 true)

/-- R224, R226, R228, R230 and R231: what the words on queues and racks do when the act can be performed at once, that a push, a stamp or an rput that
cannot be waits, and that a lane waits with a word on an object for its own commands on it; with a poisoned operand no act is made, and D is a poisoned 0
(R224). A take is performed if its turn has come. That a new act waits behind acts that could be served is the model's reading (assumption log 34). -/
def Obligations.PigeonholeWords : Prop := ∀ (g : Guard) (st wide : Bool) (d : Code) (a b c : Src) (p q : Pigeon),
  Does (.push g st wide a b) (fun s w e x y _ => x.pl = false ∧ Names s w e x.lo p ∧ p.kind = b2n wide ∧ NoSlots s w ∧ NoLdp s w e
      ∧ s.servable p PActKind.isStamp = false
      ∧ if st then p.resv ≠ 0 ∧ q = p.pushStamped (if wide then ⟨y.d, y.poison⟩ else ⟨y.lo.setWidth 64, y.pl⟩)
        else s.waiting p PActKind.isPush = [] ∧ p.pushNow (s.chunksFree p.ctx) (if wide then ⟨y.d, y.poison⟩ else ⟨y.lo.setWidth 64, y.pl⟩) = some q)
    (fun s _ _ _ _ _ => (.off, s.setPigeon q))
  ∧ Does (.push g false wide a b) (fun s w e x y _ => x.pl = false ∧ Names s w e x.lo p ∧ p.kind = b2n wide ∧ NoLdp s w e
      ∧ s.servable p PActKind.isStamp = false ∧ (s.waiting p PActKind.isPush ≠ []
        ∨ p.pushNow (s.chunksFree p.ctx) (if wide then ⟨y.d, y.poison⟩ else ⟨y.lo.setWidth 64, y.pl⟩) = none))
    (fun s w e _ y _ => (.block (.act s.ids), enqueueAct s (actOf s w e (.push g false wide a b)
      (.push (if wide then ⟨y.d, y.poison⟩ else ⟨y.lo.setWidth 64, y.pl⟩)) p.scope p.owner p.num)))
  ∧ Does (.pop g wide d a) (fun s w e x _ _ => x.pl = false ∧ Names s w e x.lo p ∧ p.kind = b2n wide ∧ NoSlots s w)
    (fun s w e _ _ _ => (oweD s (.pop g wide d a) e, serveAct (enqueueAct s (actOf s w e (.pop g wide d a) .pop p.scope p.owner p.num)) s.ids))
  ∧ Does (.poll g d a) (fun s w e x _ _ => x.pl = false ∧ Names s w e x.lo p ∧ p.kind = 0 ∧ NoSlots s w)
    (fun s w e _ _ _ => (oweD s (.poll g d a) e, serveAct (enqueueAct s (actOf s w e (.poll g d a) .poll p.scope p.owner p.num)) s.ids))
  ∧ Does (.stamp g d a b) (fun s w e x y _ => x.pl = false ∧ y.pl = false ∧ Names s w e x.lo p ∧ p.kind ≠ 2 ∧ y.lo ≠ 0 ∧ y.lo.toNat ≤ p.depth
      ∧ NoSlots s w)
    (fun s w e _ y _ => (oweD s (.stamp g d a b) e,
      serveAct (enqueueAct s (actOf s w e (.stamp g d a b) (.stamp y.lo.toNat) p.scope p.owner p.num)) s.ids))
  ∧ Does (.rput g a b c) (fun s w e x y z => x.pl = false ∧ y.pl = false ∧ Names s w e x.lo p ∧ p.kind = 2 ∧ NoSlots s w ∧ NoLdp s w e
      ∧ s.servable p PActKind.isPut = false ∧ p.rputNow y.lo.toNat ⟨z.lo.setWidth 64, z.pl⟩ = .put q)
    (fun s _ _ _ _ _ => (.off, s.setPigeon q))
  ∧ Does (.rput g a b c) (fun s w e x y z => x.pl = false ∧ y.pl = false ∧ Names s w e x.lo p ∧ p.kind = 2 ∧ NoLdp s w e
      ∧ p.rputNow y.lo.toNat ⟨z.lo.setWidth 64, z.pl⟩ = .beyond)
    (fun s w e _ y z => (.block (.act s.ids), enqueueAct s (actOf s w e (.rput g a b c) (.rput y.lo.toNat ⟨z.lo.setWidth 64, z.pl⟩)
      p.scope p.owner p.num)))
  ∧ Does (.rtake g d a) (fun s w e x _ _ => x.pl = false ∧ Names s w e x.lo p ∧ p.kind = 2 ∧ NoSlots s w)
    (fun s w e _ _ _ => (oweD s (.rtake g d a) e, serveAct (enqueueAct s (actOf s w e (.rtake g d a) .rtake p.scope p.owner p.num)) s.ids))
  ∧ (∀ i, i = .push g st wide a b ∨ i = .pop g wide d a ∨ i = .poll g d a ∨ i = .stamp g d a b ∨ i = .rput g a b c ∨ i = .rtake g d a →
    Does i (fun s w e x y _ => x.pl = false ∧ y.pl = false ∧ s.holeOwed w.group.tid e.lid x.lo s.ids = true
        ∧ ∀ q, s.named w.group.tid w.core w.grid.ctx x.lo = some q → s.servable q PActKind.isStamp = false)
      (fun s _ _ x _ _ => (.block (.holeCmd x.lo), s)))
  ∧ Does (.push g st wide a b) (fun _ _ _ x _ _ => x.pl = true) (fun s _ _ _ _ _ => (.off, s))
  ∧ Does (.rput g a b c) (fun _ _ _ x y _ => x.pl = true ∨ y.pl = true) (fun s _ _ _ _ _ => (.off, s))
  ∧ (∀ i, i = .pop g wide d a ∨ i = .poll g d a ∨ i = .rtake g d a → Does i (fun _ _ _ x _ _ => x.pl = true)
      (fun s w e _ _ _ => deliverLater s w e i ⟨0, 0, true, true⟩))
  ∧ Does (.stamp g d a b) (fun _ _ _ x y _ => x.pl = true ∨ y.pl = true) (fun s w e _ _ _ => deliverLater s w e (.stamp g d a b) ⟨0, 0, true, true⟩)

/-- R226 and R233 to R238: the words on collection points, the courier write to a lane of a team on the cluster, and the wait on a pad word. -/
def Obligations.PointWords : Prop := ∀ (g : Guard) (d : Code) (a b : Src) (pt : Point) (tid core slot : Nat) (u : Team),
  Does (.arrive g a b) (fun s w e x y _ => x.pl = false ∧ (y.pl = true ∨ y.lo.toNat ≤ 65535) ∧ NoneOwed s w e (pointHandle x.lo.toNat)
      ∧ Tab.find x.lo.toNat w.team.points = some pt
      ∧ NoLdp s w e ∧ NoSlots s w)
    (fun s w e x y _ => (.off, arriveAt s w.group.tid x.lo.toNat (if y.pl then 1 else y.lo.toNat) y.pl w.group.tid e.lid))
  ∧ Does (.await g d a b) (fun s w e x y _ => x.pl = false ∧ y.pl = false ∧ NoneOwed s w e (pointHandle x.lo.toNat)
      ∧ Tab.find x.lo.toNat w.team.points = some pt ∧ NoLdp s w e)
    (fun s w e x y _ => match pt.awaited y.lo.toNat with
      | some (v, poisoned) => deliverLater s w e (.await g d a b) (.w v poisoned)
      | none => (oweD s (.await g d a b) e, enqueueAct s (actOf s w e (.await g d a b) (.await y.lo.toNat) 3 w.group.tid x.lo.toNat)))
  ∧ Does (.expect g a b) (fun s w e x y _ => x.pl = false ∧ y.pl = false ∧ NoneOwed s w e (pointHandle x.lo.toNat)
      ∧ Tab.find x.lo.toNat w.team.points = some pt ∧ y.lo ≠ 0
      ∧ y.lo.toNat ≤ 65535 ∧ NoLdp s w e ∧ NoSlots s w)
    (fun s w e x y _ => (.off, pointAct s w.group.tid x.lo.toNat { pt with expect := y.lo.toNat, once := true } w.group.tid e.lid false))
  ∧ Does (.cwr g a b) (fun s w e x _ _ => x.poison = false ∧ courierTeam s w (fld x.d.toNat 32 32) = some (tid, u) ∧ u.place = some (core, slot)
      ∧ fld x.d.toNat 23 9 = 0 ∧ fld x.d.toNat 0 10 < u.lanes.length ∧ (nth {} u.lanes (fld x.d.toNat 0 10)).exited = false
      ∧ fld x.d.toNat 10 7 < (nth {} u.lanes (fld x.d.toNat 0 10)).regs.length
      ∧ (bit x.d.toNat 22 = true ∨ (Tab.find (fld x.d.toNat 17 5) u.points).isSome)
      ∧ (bit x.d.toNat 22 = false → tid = w.group.tid → NoneOwed s w e (pointHandle (fld x.d.toNat 17 5))) ∧ s.heldAt core < 64 ∧ NoLdp s w e ∧ NoSlots s w)
    (fun s w e x y _ => (.off, courierFillNow { s with
      ids := s.ids + 1
      couriers := Tab.put s.ids ⟨tid, fld x.d.toNat 0 10, fld x.d.toNat 10 7, y.lo, y.pl,
        if bit x.d.toNat 22 then none else some (fld x.d.toNat 17 5), w.group.tid, e.lid⟩ s.couriers } s.ids))
  ∧ Does (.cwr g a b) (fun s w e x _ _ => x.poison = false ∧ courierTeam s w (fld x.d.toNat 32 32) = some (tid, u) ∧ u.place = none
      ∧ fld x.d.toNat 23 9 = 0 ∧ fld x.d.toNat 0 10 < u.lanes.length ∧ (nth {} u.lanes (fld x.d.toNat 0 10)).exited = false
      ∧ fld x.d.toNat 10 7 < (nth {} u.lanes (fld x.d.toNat 0 10)).regs.length
      ∧ (bit x.d.toNat 22 = true ∨ (Tab.find (fld x.d.toNat 17 5) u.points).isSome)
      ∧ (bit x.d.toNat 22 = false → tid = w.group.tid → NoneOwed s w e (pointHandle (fld x.d.toNat 17 5))) ∧ NoLdp s w e)
    (fun s w e x y _ => (.off, { s with
      ids := s.ids + 1
      couriers := Tab.put s.ids ⟨tid, fld x.d.toNat 0 10, fld x.d.toNat 10 7, y.lo, y.pl,
        if bit x.d.toNat 22 then none else some (fld x.d.toNat 17 5), w.group.tid, e.lid⟩ s.couriers }))
  ∧ Does (.waitw g a b) (fun s w e x y _ => x.pl = false ∧ y.pl = false ∧ x.lo.toNat % 4 = 0 ∧ x.lo.toNat + 4 ≤ w.team.padb ∧ NoLdp s w e)
    (fun s w e x y _ => (if BitVec.ofNat 32 (leNat (Mem.read w.team.pad x.lo.toNat 4)) = y.lo
      then .block (.word x.lo.toNat y.lo (nextHead w e) (nextWord w)) else .off, s))
  ∧ (∀ i, i = .arrive g a b ∨ i = .await g d a b ∨ i = .expect g a b → Does i (fun s w e x y _ => x.pl = false ∧ y.pl = false
      ∧ s.holeOwed w.group.tid e.lid (pointHandle x.lo.toNat) s.ids = true) (fun s _ _ x _ _ => (.block (.holeCmd (pointHandle x.lo.toNat)), s)))
  ∧ (∀ i, i = .expect g a b ∨ i = .waitw g a b → Does i (fun _ _ _ x y _ => x.pl = true ∨ y.pl = true) (fun s _ _ _ _ _ => (.off, s)))
  ∧ Does (.arrive g a b) (fun _ _ _ x _ _ => x.pl = true) (fun s _ _ _ _ _ => (.off, s))
  ∧ Does (.cwr g a b) (fun _ _ _ x _ _ => x.poison = true) (fun s _ _ _ _ _ => (.off, s))
  ∧ Does (.await g d a b) (fun _ _ _ x y _ => x.pl = true ∨ y.pl = true) (fun s w e _ _ _ => deliverLater s w e (.await g d a b) ⟨0, 0, true, true⟩)

/-- R264, R278, R279, R282 and R283: post puts a launch record that keeps every check into the out-tray and gives the new grid's handle; an accept of a partition of
the pair moves the partition table's mean at the end of its cycle, two of them in the order of the cores and the lanes' indexes; cwait notes the grids of its team; bleft reads what is
left of the budget. -/
def Obligations.DispatchWords : Prop := ∀ (g : Guard) (pmk par gx all : Bool) (d code dode : Code) (a b : Src),
  (∀ (bytes : List Byte) (v : Nat) (l : Launch) (t u : State),
    Does (.post g pmk par gx d code dode) (fun s w e x y _ => x.poison = false ∧ y.poison = false ∧ x.lo.toNat % 64 = 0
        ∧ x.lo.toNat + 64 ≤ w.team.padb ∧ e.lid = 0 ∧ w.grid.depth ≠ 10 ∧ fld (leNat (Mem.read w.team.pad x.lo.toNat 64)) 176 336 = 0
        ∧ fld (leNat (Mem.read w.team.pad x.lo.toNat 64)) 0 7 = 0
        ∧ readPtr s (s.tagsOf w.core w.team) (fld (leNat (Mem.read w.team.pad x.lo.toNat 64)) 0 64) 128 (fun p => e.lane.refused == some p) = (.ok bytes, t)
        ∧ postRec pmk par gx (leNat bytes) (leNat (Mem.read w.team.pad x.lo.toNat 64)) y.lo = .ok v
        ∧ checkRec t (s.tagsOf w.core w.team) v (some ⟨w.team.lseq, t.carbonOf w.team.lseq⟩) (fun p => e.lane.refused == some p) = (.ok l, u)
        ∧ u.bus = none ∧ u.hits = [] ∧ u.team w.group.tid = some w.team ∧ (l.lrec.pm = true ∨ AtFront u w) ∧ u.disp.tray.length < 4096)
      (fun _ w e _ _ _ => (.upd (({ e.lane with refused := none } : Lane).writeD d.toNat false (.w (statusWord 0 6 u.disp.lseq) false)), trayPut u w l)))
  ∧ Does (.accept g a b) (fun _ _ _ x y _ => x.pl = true ∨ y.pl = true) (fun s _ _ _ _ _ => (.off, s))
  ∧ Does (.accept g a b) (fun s w _ x y _ => x.pl = false ∧ y.pl = false ∧ y.lo.toNat ≠ 0 ∧ y.lo.toNat ≤ 65535 ∧ x.lo.toNat ≤ y.lo.toNat
      ∧ (s.disp.ptable.pairen = false ∨ (w.grid.lrec.part ≠ s.disp.ptable.draft ∧ w.grid.lrec.part ≠ s.disp.ptable.target)))
    (fun s _ _ _ _ _ => (.off, s))
  ∧ Does (.accept g a b) (fun s w _ x y _ => x.pl = false ∧ y.pl = false ∧ y.lo.toNat ≠ 0 ∧ y.lo.toNat ≤ 65535 ∧ x.lo.toNat ≤ y.lo.toNat
      ∧ s.disp.ptable.pairen = true ∧ (w.grid.lrec.part = s.disp.ptable.draft ∨ w.grid.lrec.part = s.disp.ptable.target))
    (fun s w e x y _ => (.off, { s with disp := { s.disp with accepts := s.disp.accepts ++ [(w.core, e.lid, x.lo.toNat * 65536 / y.lo.toNat)] } }))
  ∧ (∀ (s : State) (n : Nat), 0 < n → s.sys.writes = [] → (tick s n).disp.accepts = []
    ∧ (∀ core lid v, s.disp.accepts = [(core, lid, v)] →
        (tick s n).disp.ptable.ewma = ((s.disp.ptable.ewma : Int) + ((v : Int) - (s.disp.ptable.ewma : Int)) / 16).toNat)
    ∧ (∀ core lid v core2 lid2 v2 m, (s.disp.accepts = [(core, lid, v), (core2, lid2, v2)] ∨ s.disp.accepts = [(core2, lid2, v2), (core, lid, v)]) →
        (core < core2 ∨ (core = core2 ∧ lid < lid2)) → lid < 1024 → lid2 < 1024 →
        m = ((s.disp.ptable.ewma : Int) + ((v : Int) - (s.disp.ptable.ewma : Int)) / 16).toNat →
        (tick s n).disp.ptable.ewma = ((m : Int) + ((v2 : Int) - (m : Int)) / 16).toNat))
  ∧ Does (.cwait g all d code dode) (fun s w _ x y _ => x.poison = false ∧ y.poison = false ∧ x.lo.toNat % 64 = 0
      ∧ x.lo.toNat + 64 ≤ w.team.padb ∧ s.queued w.core < 64 ∧ ∀ q ∈ s.cmds, q.1 < s.ids)
    (fun s w e x y _ => (.upd (e.lane.owe d.toNat false s.ids false), { s with
      ids := s.ids + 1
      cmds := Tab.put s.ids { instr := .cwait g all d code dode, tid := w.group.tid, lid := e.lid, tags := s.tagsOf w.core w.team, h := w.group.h,
                              slot := w.group.slot, d := d.toNat, aoff := x.lo.toNat, b := y.lo, spec := s.isSpec w.team.lseq,
                              data := [s.childrenOf w.group.tid] } s.cmds }))
  ∧ ComputesIf (.bleft g d) d false (fun _ _ _ => True) (fun s w _ _ _ =>
      .w (if w.grid.lrec.budget = 0 then 0xFFFFFFFF else BitVec.ofNat 32 (w.grid.lrec.budget - w.team.cycles s.cyc)) false)

/-- R365 to R367 and R369: what a lane of a task reads of its task and of the frontier, and abrt, which ends the launch. A core
without a copy of the frontier reads the frontier itself (assumption log 27); tsq reads the core's copy of the entry, or the entry itself where the core
has none of this launch (assumption log 116). -/
def Obligations.TaskWords : Prop := ∀ (g : Guard) (kl : Bool) (d : Code) (a : Src),
  (∀ (s : State) (w : WordCtx) (e : Ent) (x y z : Val) (k : Task) (t : State), Alone s w (.abrt g kl a) e x y z → s.task w.team.lseq = some k →
    (kl = true → AtFront s w) →
    t = abortTasks (afterWord (s.modTask w.team.lseq (fun t => { t with acode := x.lo })) w (.abrt g kl a) [(e, .leave e.lane)]) [w.team.lseq] kl →
    (s.kvs = [] ∨ t.bus = none) → exec (.abrt g kl a) s = .next t)
  ∧ ComputesIf (.frq g .atF d) d false (fun _ _ _ => True) (fun s w _ _ _ => .w (b2w (s.atFront w.core w.team.lseq)) false)
  ∧ ComputesIf (.frq g .pm d) d true (fun _ _ _ => True) (fun s w _ _ _ =>
      .dw ((s.frontCopy w.core w.grid.ctx).elim (BitVec.allOnes 64) (fun k => BitVec.ofNat 64 k.1)) false)
  ∧ ComputesIf (.frq g .seq d) d true (fun _ _ _ => True) (fun s w _ _ _ =>
      .dw ((s.frontCopy w.core w.grid.ctx).elim (BitVec.allOnes 64) (fun k => BitVec.ofNat 64 k.2)) false)
  ∧ ComputesIf (.tsq g d) d false (fun _ _ _ => True) (fun s w _ _ _ => .w ((s.task w.team.lseq).elim 0xE0000000 (fun t =>
      let seen := s.taskSeen w.core w.team.lseq t
      BitVec.ofNat 32 (taskCode s w.core w.team.lseq seen.1 * 2 ^ 29 + min 15 seen.1.relaunch * 2 ^ 25 + (if seen.1.holdm then 2 ^ 24 else 0)
        + seen.1.edges.length * 2 ^ 20 + seen.2 * 2 ^ 16 + seen.1.idx))) false)
  ∧ (∀ (s : State) (core lseq : Nat) (t : Task), (∀ k ∈ (s.core core).copies, k.lseq = lseq → k.entry.relaunch ≠ t.relaunch) →
    s.taskSeen core lseq t = (t, s.depthOf t.ctx t.carbon))
  ∧ ComputesIf (.edges g d) d false (fun _ _ _ => True) (fun s w _ _ _ => .w ((s.task w.team.lseq).elim 0 (fun t =>
      BitVec.ofNat 32 (t.edges.length + min 0xFFFFFF t.edgeWaits * 2 ^ 8))) false)

/-- R393, R407, R414 to R416 and R418: kvx and the words on another endpoint's memory put an access or a request on its way. -/
def Obligations.SequenceAndFabricWords : Prop := ∀ (g : Guard) (wr : Bool) (sz : Sz) (fop : FrOp) (d : Code) (a b c : Src) (off : BitVec 8)
    (leaf : Nat) (big : Bool),
  (∀ (s : State) (w : WordCtx) (e : Ent) (x y z : Val) (t : State), Alone s w (.kvx g wr d a b c) e x y z → x.poison = false → y.pl = false →
    z.pl = false → x.d.toNat % 4096 = 0 → NoneFailed s w → (∀ f ∈ s.flights, f.1 < s.ids) →
    t = afterWord (launch s (flightOf s w e (.kvx g wr d a b c) (.kvx y.lo.toNat z.lo.toNat wr) x.d)) w (.kvx g wr d a b c) [(e, oweD s (.kvx g wr d a b c) e)] →
    kvxFailed (kvxNow t s.ids) s.ids = false → exec (.kvx g wr d a b c) s = .next t)
  ∧ (∀ (s : State) (w : WordCtx) (e : Ent) (x y z : Val), Alone s w (.kvx g wr d a b c) e x y z → (x.poison = true ∨ y.pl = true ∨ z.pl = true) →
    NoneFailed s w → (∀ f ∈ s.flights, f.1 < s.ids) → exec (.kvx g wr d a b c) s = .next (afterWord (deliverLater s w e (.kvx g wr d a b c) ⟨0, 0, true, true⟩).2 w
      (.kvx g wr d a b c) [(e, (deliverLater s w e (.kvx g wr d a b c) ⟨0, 0, true, true⟩).1)]))
  ∧ Does (.fld g sz d a off) (fun s w e x _ _ => x.poison = false ∧ eaVa (eaOf x.d off (szBytes sz)) % szBytes sz = 0
      ∧ Unwatched s w e true false (eaOf x.d off (szBytes sz)) (szBytes sz) ∧ NoneFailed s w
      ∧ LeavesPackage s w .rd (eaOf x.d off (szBytes sz)) (szBytes sz) leaf big)
    (fun s w e x _ _ => (oweD s (.fld g sz d a off) e,
      Asks s w e (.fld g sz d a off) (.fabLd sz) .rd (eaOf x.d off (szBytes sz)) (szBytes sz) leaf (.read (szBytes sz)) (fabTag s w.core w.team.lseq (fld leaf 42 10)) d.toNat))
  ∧ Does (.fst g sz a b off) (fun s w e x y _ => x.poison = false ∧ y.poison = false ∧ eaVa (eaOf x.d off (szBytes sz)) % szBytes sz = 0
      ∧ Unwatched s w e false true (eaOf x.d off (szBytes sz)) (szBytes sz) ∧ NoneFailed s w ∧ leafWritable leaf = true ∧ AtFront s w
      ∧ LeavesPackage s w .wr (eaOf x.d off (szBytes sz)) (szBytes sz) leaf big)
    (fun s w e x y _ => (.off, Asks s w e (.fst g sz a b off) (.fabSt sz) .wr (eaOf x.d off (szBytes sz)) (szBytes sz) leaf
      (.write (leBytes (szBytes sz) y.d.toNat)) none b.code.toNat))
  ∧ Does (.frmw g fop wr d a b off) (fun s w e x y _ => x.poison = false ∧ y.poison = false
      ∧ eaVa (eaOf x.d off (tyBytes (frmwFn fop wr).2)) % tyBytes (frmwFn fop wr).2 = 0
      ∧ Unwatched s w e true true (eaOf x.d off (tyBytes (frmwFn fop wr).2)) (tyBytes (frmwFn fop wr).2) ∧ NoneFailed s w ∧ leafWritable leaf = true
      ∧ AtFront s w ∧ LeavesPackage s w .wr (eaOf x.d off (tyBytes (frmwFn fop wr).2)) (tyBytes (frmwFn fop wr).2) leaf big)
    (fun s w e x y _ => (oweD s (.frmw g fop wr d a b off) e, Asks s w e (.frmw g fop wr d a b off) .fabRmw .wr
      (eaOf x.d off (tyBytes (frmwFn fop wr).2)) (tyBytes (frmwFn fop wr).2) leaf (.atomic (frmwFn fop wr).1 (frmwFn fop wr).2 y.d) none d.toNat))

/-- R439 to R441 and R473: a breakpoint halts its lane where a master holds debug rights, and lets it pass once it is released; trc posts a record; the
counters' and the features' values. -/
def Obligations.DebugWords : Prop := ∀ (g : Guard) (d : Code) (a b : Src),
  Does (.bkpt g a) (fun s w e _ _ _ => e.lane.passing.contains 20 = false ∧ (s.dbgOf w.grid.ctx).rights = true ∧ AtFront s w)
    (fun s w e x _ _ => (.leave { e.lane with passing := 20 :: e.lane.passing, halted := some 4 }, laneTrace s w.group.tid e.lid 6 0 x.lo.toNat))
  ∧ Does (.bkpt g a) (fun _ _ e _ _ _ => e.lane.passing.contains 20 = true) (fun s _ _ _ _ _ => (.off, s))
  ∧ Does (.trc g a b) (fun _ _ _ _ _ _ => True)
    (fun s w e x y _ => (.off, laneTrace s w.group.tid e.lid 1 (y.lo.toNat * 2 ^ 32 + x.lo.toNat) ((if y.pl then 2 else 0) + if x.pl then 1 else 0)))
  ∧ Does (.ctrr g .latch d a) (fun _ _ _ _ _ _ => True)
    (fun s w e _ _ _ => deliverLater { s with ctrs := modAt (fun c => { c with snap := s.counters (dieOf w.core) }) s.ctrs (dieOf w.core) } w e
      (.ctrr g .latch d a) (.dw (BitVec.ofNat 64 (nth 0 (s.counters (dieOf w.core)) 10)) false))
  ∧ Does (.ctrr g .live d a) (fun _ _ _ x _ _ => x.pl = false ∧ x.lo.toNat ≤ 12)
    (fun s w e x _ _ => deliverLater s w e (.ctrr g .live d a) (.dw (BitVec.ofNat 64 (nth 0 (s.counters (dieOf w.core)) x.lo.toNat)) false))
  ∧ Does (.ctrr g .snap d a) (fun _ _ _ x _ _ => x.pl = false ∧ x.lo.toNat ≤ 12)
    (fun s w e x _ _ => deliverLater s w e (.ctrr g .snap d a) (.dw (BitVec.ofNat 64 (nth 0 (nth {} s.ctrs (dieOf w.core)).snap x.lo.toNat)) false))
  ∧ ComputesIf (.featq g d a) d false (fun x _ _ => x.pl = false ∧ x.lo.toNat ≤ 7)
    (fun s _ x _ _ => .w (BitVec.ofNat 32 (s.sys.featAcc / 2 ^ (32 * x.lo.toNat))) false)

/-- R13, R15, R194, R241 and R275: the words of the copy engine, of the pigeonhole engine's commands and of the dispatch engine's commands each put one command
in the core's queue; publish and shadow.close are irrevocable. R200 to R206: the steps of copy, fill, copy2d, gath and scat, of reads and writes of the pad and
of pages that are not versioned; R208 and R212: those of shadow and cpq. -/
def Obligations.EngineWordsOfCopiesAndDispatch : Prop := ∀ (g : Guard) (stream sig dp sp ord occ keepe expert : Bool) (d a b : Code),
  Queues (.copy g stream sig dp sp d a) d false
  ∧ Queues (.fill g stream sig dp d a b) d false
  ∧ Queues (.gath g stream sig dp sp d a) d false
  ∧ Queues (.scat g stream sig dp sp d a) d false
  ∧ Queues (.copy2d g stream sig dp sp d a) d false
  ∧ Queues (.publish g d a b) d true
  ∧ Queues (.smerge g ord d a) d false
  ∧ Queues (.shadow g d a b) d false
  ∧ Queues (.shadowClose g d a b) d true
  ∧ Queues (.cpq g occ d a b) d false
  ∧ Queues (.phcfgCreate g d a b) d false
  ∧ Queues (.phcfgDestroy g d a b) d false
  ∧ Queues (.phq g d a b) d false
  ∧ Queues (.pshare g keepe expert d a) d false
  ∧ Queues (.opclass g d a b) d false
  ∧ Queues (.preempt g d a b) d false
  ∧ Queues (.preemptResume g d a b) d false
  ∧ Queues (.pquery g d a) d false
  ∧ (∀ s cid c ptr n keep pa leaf, Touches s c .rd ptr n pa leaf → c.early = [] → cmdRead s cid c ptr n keep = .ok (Mem.read s.mem pa n) s)
  ∧ (∀ s cid c ptr bytes keep pa leaf, Touches s c .wr ptr bytes.length pa leaf → Steps s cid c → cmdFront s c = true →
    ∃ w, s.now < w ∧ cmdWrite s cid c ptr bytes keep = .ok () { s with
      mem := Mem.write s.mem pa bytes, cmds := Tab.upd (fun x => { x with wct := max x.wct w }) cid s.cmds })
  ∧ (∀ s c off n t, s.team c.tid = some t → c.early = [] → c.shadow = [] → cmdPad s c off n = Mem.read t.pad off n)
  ∧ (∀ s cid c form, Steps s cid c → dataForm c.instr = some (form, sig, dp, sp) →
    (∀ i r n da bytes v, form = 1 → r = c.cpRow → i = c.cpOff → r = 0 → i < c.cpLen → sideAdd dp c.cpDst i = some da → n = min (c.cpLen - i) (512 - da % 512) →
      bytes = fillBytes c.b (fld da 0 56) n → sideWrite s cid c dp (some da) bytes [] = .ok () v → v.bus = none →
      exec (.engineStep cid) s = .next (nextStep v cid (fun c => { c with vals := if i + n < c.cpLen then [0, i + n] else [1, 0] })))
    ∧ (∀ i r n da sa bytes v, (form = 0 ∧ r = 0) ∨ (form = 2 ∧ r < c.cpCount) → r = c.cpRow → i = c.cpOff → i < c.cpLen →
      sideAdd dp c.cpDst ((r : Int) * (if form = 2 then c.cpDS else 0) + i) = some da → n = min (c.cpLen - i) (512 - da % 512) →
      sideAdd sp c.cpSrc ((r : Int) * (if form = 2 then c.cpSS else 0) + i) = some sa →
      sideRead s cid c sp (some sa) n (sidePages sp (some sa) n ++ sidePages dp (some da) n) = .ok bytes s →
      sideWrite s cid c dp (some da) bytes (sidePages sp (some sa) n ++ sidePages dp (some da) n) = .ok () v → v.bus = none →
      exec (.engineStep cid) s = .next (nextStep v cid (fun c => { c with vals := if i + n < c.cpLen then [r, i + n] else [r + 1, 0] })))
    ∧ (∀ (j : Int) sa da bytes v, 3 ≤ form → c.step < c.cpCount → j = leNat (cmdPad s c (c.cpIdx + 4 * c.step) 4) →
      sideAdd sp c.cpSrc (if form = 3 then j * c.cpSS else (c.step * c.cpLen : Nat)) = some sa →
      sideAdd dp c.cpDst (if form = 3 then ((c.step * c.cpLen : Nat) : Int) else j * c.cpDS) = some da →
      sideRead s cid c sp (some sa) c.cpLen (sidePages sp (some sa) c.cpLen ++ sidePages dp (some da) c.cpLen) = .ok bytes s →
      sideWrite s cid c dp (some da) bytes (sidePages sp (some sa) c.cpLen ++ sidePages dp (some da) c.cpLen) = .ok () v → v.bus = none →
      exec (.engineStep cid) s = .next (nextStep v cid id))
    ∧ ((form ≤ 2 ∧ (c.cpLen = 0 ∨ (if form = 2 then c.cpCount else 1) ≤ c.cpRow)) ∨ (3 ≤ form ∧ c.cpCount ≤ c.step) →
      exec (.engineStep cid) s = .next (endCmd (if sig then padWrite s c.tid none c.cpSigOff (leBytes 4 c.cpSigVal) else s) cid 0 0)))
  ∧ (∀ s cid c p, Steps s cid c → c.instr = .cpq g false d a b → c.b.toNat ≤ 15 → s.pair c.tags.ctx c.b.toNat = some p →
    exec (.engineStep cid) s = .next (endCmd s cid 0 ((if p.live then 2 ^ 23 else 0) + (if p.flip then 2 ^ 22 else 0) + p.gen)))
  ∧ (∀ s cid c, Steps s cid c → c.instr = .shadow g d a b → cmdFront s c = true → c.f 160 352 = 0 → c.b.toNat ≤ 15 → 1 ≤ c.f 128 32 → c.f 128 32 ≤ 4096 →
    s.pair c.tags.ctx c.b.toNat = none → c.f 0 56 % 65536 = 0 → c.f 64 56 % 65536 = 0 → c.f 0 56 + c.f 128 32 * 65536 ≤ 2 ^ 56 →
    c.f 64 56 + c.f 128 32 * 65536 ≤ 2 ^ 56 → pagesMeet (c.f 0 56) (c.f 128 32) (c.f 64 56) (c.f 128 32) = false →
    (∀ k, k < c.f 128 32 → pairPage s c.tags.ctx (c.f 0 56 + 65536 * k) = true ∧ pairPage s c.tags.ctx (c.f 64 56 + 65536 * k) = true) →
    (∀ p ∈ s.pairs, p.ctx = c.tags.ctx → p.live = true → pagesMeet (c.f 0 56) (c.f 128 32) p.front p.pages = false ∧ pagesMeet (c.f 0 56) (c.f 128 32) p.back p.pages = false
      ∧ pagesMeet (c.f 64 56) (c.f 128 32) p.front p.pages = false ∧ pagesMeet (c.f 64 56) (c.f 128 32) p.back p.pages = false) →
    exec (.engineStep cid) s = .next (endCmd { s with
      pairs := s.pairs ++ [{ ctx := c.tags.ctx, num := c.b.toNat, front := c.f 0 56, back := c.f 64 56, pages := c.f 128 32 }] } cid 0 0))

/-- R13, R15, R294 and R312: the words of the matrix engine and of the selection engine each put one command in the queue. R296, R299, R301, R302, R303 and R304:
the steps of mmul, bfill, azero, aread and aepi, whose turn on their core has come and whose checks have passed; R316 to R318: those of topk and hist. -/
def Obligations.EngineWordsOfMatricesAndSelection : Prop := ∀ (g : Guard) (scb sca acc tr sp scl dp sat resc exp bd raw greedy : Bool) (rm : RMode) (d a b : Code),
  Queues (.mmul g scb sca acc d a) d false
  ∧ Queues (.bfill g tr sp d a) d false
  ∧ Queues (.azero g d a) d false
  ∧ Queues (.aread g scl dp sat rm d a) d false
  ∧ Queues (.aepi g resc exp d a) d false
  ∧ Queues (.rqt g bd d a) d false
  ∧ Queues (.mattn g scb sca acc d a) d false
  ∧ Queues (.aalloc g d a b) d false
  ∧ Queues (.mstat g d a) d false
  ∧ Queues (.topk g dp sp d a) d false
  ∧ Queues (.selm g dp sp d a) d false
  ∧ Queues (.sdraw g raw greedy dp sp d a b) d false
  ∧ Queues (.hook g d a) d false
  ∧ Queues (.hist g acc sp d a) d false
  ∧ (∀ s cid c t, Steps s cid c → s.coreTurn cid c = true → (c.step = 0 → matrixCheck s c = none) → s.team c.tid = some t →
    (∀ (as : List Nat) (bs : Nat → List Nat) (old : Nat → Nat), c.instr = .mmul g false false acc d a → 0 < c.mxK → c.mxK ≤ 8192 → c.step < c.mxM →
      c.mxCol + c.mxN ≤ 256 → Tab.sorted t.acc.rows = true →
      as = elemsOf (opWidth c.mxA) c.mxK (cmdPad s c (c.f 0 32 + c.step * c.f 32 32) (elemBytes (opWidth c.mxA) c.mxK)) →
      (∀ j, bs j = elemsOf (opWidth c.mxA) c.mxK (t.acc.slice (c.mxCol + j) (c.f 128 32) (elemBytes (opWidth c.mxA) c.mxK))) →
      (∀ j, old j = if acc then t.acc.word (c.mxRow + c.step) (c.mxCol + j) else 0) →
      ∃ u m, exec (.engineStep cid) s = .next u ∧ u.team c.tid = some m
        ∧ (∀ j, j < c.mxN → opInt c.mxA = true → m.acc.word (c.mxRow + c.step) (c.mxCol + j)
            = wrap 32 ((old j : Int) + ((as.zip (bs j)).map (fun x => sx (opWidth c.mxA) x.1 * sx (opWidth c.mxA) x.2)).sum))
        ∧ (∀ j, j < c.mxN → opInt c.mxA = false → m.acc.word (c.mxRow + c.step) (c.mxCol + j)
            = dotFloat (old j) (as.map (opFmt c.mxA).read) ((bs j).map (opFmt c.mxB).read) % 2 ^ 32)
        ∧ (∀ r k, k < 256 → (r ≠ c.mxRow + c.step ∨ k < c.mxCol ∨ c.mxCol + c.mxN ≤ k) → m.acc.word r k = t.acc.word r k) ∧ m.acc.slices = t.acc.slices
        ∧ u.cmd cid = some (if c.step + 1 < c.mxM then stepped c else finished c 0)
        ∧ u = { s with teams := u.teams, cores := u.cores, cmds := u.cmds })
    ∧ (∀ old xs ys, xs ≠ [] → ys.length = xs.length → dotFloat old xs ys = if xs.length ≤ 32 then f32.put .rn false (fxAdd .rn (f32.read old) (blockSum xs ys))
        else dotFloat (dotFloat old (xs.take 32) (ys.take 32)) (xs.drop 32) (ys.drop 32))
    ∧ (∀ ps : List (FX × FX), ((∃ x ∈ ps, fxMul x.1 x.2 = .nan) → blockSum (ps.map Prod.fst) (ps.map Prod.snd) = .nan)
      ∧ (∀ p, (∃ x ∈ ps, fxMul x.1 x.2 = .inf p) → (∀ x ∈ ps, fxMul x.1 x.2 ≠ .nan ∧ fxMul x.1 x.2 ≠ .inf (!p)) → blockSum (ps.map Prod.fst) (ps.map Prod.snd) = .inf p)
      ∧ ((∃ x ∈ ps, fxMul x.1 x.2 = .inf false) → (∃ x ∈ ps, fxMul x.1 x.2 = .inf true) → blockSum (ps.map Prod.fst) (ps.map Prod.snd) = .nan)
      ∧ ∀ (u : Int) (val : FX × FX → Int), (∀ x ∈ ps, ∃ p m e, fxMul x.1 x.2 = .fin p m e false ∧ u ≤ e ∧ val x = scaled p m e u) →
        ∃ r m v, blockSum (ps.map Prod.fst) (ps.map Prod.snd) = .fin r m v false ∧ scaled r m v u = (ps.map val).sum
          ∧ (m = 0 → (r = true ↔ ∀ x ∈ ps, ∃ e, fxMul x.1 x.2 = .fin true 0 e false)))
    ∧ (∀ bs, c.instr = .bfill g false sp d a → c.step < c.f 168 8 + 1 →
      (if sp then bs = cmdPad s c (c.f 0 32 + c.step * c.f 64 32) (c.f 128 32)
        else cmdRead s cid c (ptrOn (c.f 0 64) (c.step * c.f 64 32)) (c.f 128 32) = .ok bs s) →
      exec (.engineStep cid) s = .next (stepDone (s.modAcc c.tid (fun x => x.setSlice (c.f 160 8 + c.step) (c.f 96 32) bs)) cid c (c.f 168 8 + 1)))
    ∧ (∀ bs, c.instr = .bfill g true sp d a → c.step < c.f 128 32 → c.f 176 2 = 1 →
      (if sp then bs = cmdPad s c (c.f 0 32 + c.step * c.f 64 32) (c.f 168 8 + 1)
        else cmdRead s cid c (ptrOn (c.f 0 64) (c.step * c.f 64 32)) (c.f 168 8 + 1) = .ok bs s) → bs.length = c.f 168 8 + 1 →
      exec (.engineStep cid) s = .next (stepDone (s.modAcc c.tid (fun x => (bs.zip (upFrom 0 (c.f 168 8 + 1))).foldl
        (fun x e => x.setSlice (c.f 160 8 + e.2) (c.f 96 32 + c.step) [e.1]) x)) cid c (c.f 128 32)))
    ∧ (c.instr = .azero g d a → exec (.engineStep cid) s =
      .next (stepDone (s.modAcc c.tid (fun x => x.setRow (c.f 0 16 + c.step) 0 (List.replicate 256 0))) cid c (c.f 16 16)))
    ∧ (∀ ws, c.instr = .aread g false true sat rm d a → c.f 144 4 = 0 →
      ws = (upFrom (c.f 128 8) (c.f 136 8 + 1)).map (fun col => t.acc.word (c.f 96 16 + c.step) col) →
      exec (.engineStep cid) s = .next (stepDone (padWrite s c.tid none (c.f 0 32 + c.step * c.f 64 32)
        (ws.flatMap (fun x => leBytes 4 (f32.put rm sat (fxMul (f32.read x) (f32.read (c.f 160 32))))))) cid c (c.f 112 16)))
    ∧ (∀ v, c.instr = .aread g scl false sat rm d a → cmdWriteMany s cid c ((ptrOn (c.f 0 64) (c.step * c.f 64 32), (areadRow t scl sat rm c c.step).1)
        :: (if scl then [(ptrOn (c.f 192 64) (c.step * c.f 256 32), (areadRow t scl sat rm c c.step).2)] else [])) = .ok () v → v.bus = none →
      exec (.engineStep cid) s = .next (stepDone v cid c (c.f 112 16)))
    ∧ (∀ xs r, c.instr = .aepi g false exp d a → xs = (upFrom (c.f 128 8) (c.f 136 8 + 1)).map (fun col => mul32 (t.acc.word (c.f 96 16 + c.step) col) (c.f 160 32)) →
      r = epiRow exp (c.f 144 4) (leNat (cmdPad s c (c.f 64 32 + 16 * c.step) 4)) (leNat (cmdPad s c (c.f 64 32 + 16 * c.step + 4) 4)) xs →
      exec (.engineStep cid) s = .next (stepDone (padWrite (padWrite s c.tid none (c.f 64 32 + 16 * c.step)
          (leBytes 4 r.1 ++ leBytes 4 r.2.1 ++ leBytes 4 r.2.2.1 ++ leBytes 4 0)) c.tid none (c.f 0 32 + c.step * c.f 32 32)
          (packElems (epiWidth (c.f 144 4)) r.2.2.2)) cid c (c.f 112 16))))
  ∧ (∀ s cid c keys, Steps s cid c →
    (∀ k m n, c.instr = .topk g dp sp d a → m = min c.tkK c.tkN → n = chunks c.tkN → k = c.step % n →
      chunkRead s cid c sp (c.f 0 64) c.tkFmt c.tkN k (sidePages dp (some (c.f 128 64)) (8 * c.tkK)) = .ok keys s →
      (c.tkCollect = false → k + 1 ≠ n → exec (.engineStep cid) s = .next (nextStep s cid (fun x => { x with
        data := digitCounts c.tkFmt c.tkPass c.tkPrefix (if k = 0 then List.replicate 256 0 else c.data) keys })))
      ∧ (c.tkCollect = false → k + 1 = n → exec (.engineStep cid) s = .next (nextStep s cid (fun x => { x with
        vals := afterPass c.tkFmt m c.tkPass c.tkPrefix c.tkAbove (digitCounts c.tkFmt c.tkPass c.tkPrefix (if k = 0 then List.replicate 256 0 else c.data) keys)
        data := [] })))
      ∧ (c.tkCollect = true → k + 1 ≠ n → exec (.engineStep cid) s = .next (nextStep s cid (fun x => { x with data := c.data ++ keys })))
      ∧ (∀ es ties v, c.tkCollect = true → k + 1 = n → es = collected c.tkFmt m c.tkPass c.tkPrefix (c.data ++ keys) →
        ties = ((c.data ++ keys).filter (fun x => rankVal c.tkFmt x == rankVal c.tkFmt ((es.getLast?.map Prod.snd).getD 0))).length →
        sideWrite s cid c dp (some (c.f 128 64)) (listBytes c.tkK (es.map (fun e => (c.tkBase + e.1, e.2)))) [] = .ok () v → v.bus = none →
        exec (.engineStep cid) s = .next (endCmd v cid 0 (c.tkPass + 16 * min 0xFFFFF ties))))
    ∧ (∀ n bins hits, c.instr = .hist g acc sp d a → n = 2 ^ c.hsWidth → bins = (if c.step = 0 then List.replicate n 0 else c.data) →
      (c.step < chunks (c.f 64 32) → chunkRead s cid c sp (c.f 0 64) c.hsFmt (c.f 64 32) c.step [] = .ok keys s →
        hits = (keys.map (rankVal c.hsFmt)).filter (fun t => (t &&& c.f 96 32) == c.f 128 32) →
        exec (.engineStep cid) s = .next (nextStep s cid (fun x => { x with
          data := hits.foldl (fun bs t => modAt (· + 1) bs (t / 2 ^ c.f 200 5 % n)) bins, vals := [nth 0 c.vals 0 + hits.length] })))
      ∧ (chunks (c.f 64 32) ≤ c.step → exec (.engineStep cid) s = .next (endCmd (padWrite s c.tid none (c.f 160 32) ((upFrom 0 n).flatMap (fun k =>
          leBytes 4 (((if acc then leNat (cmdPad s c (c.f 160 32 + 4 * k) 4) else 0) + nth 0 bins k) % 2 ^ 32)))) cid 0 (min (nth 0 c.vals 0) 0xFFFFFF)))))

/-- R13, R15, R360, R380, R411, R442 and R472: the words of the sorting office, the sequence store, the fabric port's commands, the debug engine's and the
controller's each put one command in the queue. R354, R357, R363 and R364: the effects of fork, seal and shred; R387, R395 and R397: the steps of redact, kvalloc and
kvapp, of a pool that is read and written without a failure. -/
def Obligations.EngineWordsOfTasksSequencesAndControl : Prop := ∀ (g : Guard) (save sp : Bool) (d a b : Code),
  Queues (.fork g d a) d false
  ∧ Queues (.seal g d a b) d false
  ∧ Queues (.shred g d a b) d false
  ∧ Queues (.decl g d a) d false
  ∧ Queues (.verq g d a) d false
  ∧ Queues (.dtload g save sp d a) d false
  ∧ Queues (.dtnode g d a) d false
  ∧ Queues (.dtclr g d a b) d false
  ∧ Queues (.dtmask g d a) d false
  ∧ Queues (.dtpos g d a) d false
  ∧ Queues (.dtacc g sp d a) d false
  ∧ Queues (.redact g d a) d false
  ∧ Queues (.kvfork g d a) d false
  ∧ Queues (.kvapp g d a) d false
  ∧ Queues (.kvalloc g d a) d false
  ∧ Queues (.kvallocInit g d a) d false
  ∧ Queues (.kvfree g d a) d false
  ∧ Queues (.pcatt g d a) d false
  ∧ Queues (.pcattIns g d a) d false
  ∧ Queues (.pcevict g d a) d false
  ∧ Queues (.bltabCreate g d a) d false
  ∧ Queues (.bltabDestroy g d a) d false
  ∧ Queues (.bltabRead g d a) d false
  ∧ Queues (.kvsurvGet g d a) d false
  ∧ Queues (.kvsurvClr g d a) d false
  ∧ Queues (.kvsurvSet g d a) d false
  ∧ Queues (.fstm g d a) d false
  ∧ Queues (.fldr g d a) d false
  ∧ Queues (.fexpGrant g d a b) d false
  ∧ Queues (.fexpRevoke g d a b) d false
  ∧ Queues (.fexpGroup g d a b) d false
  ∧ Queues (.fexpQuery g d a b) d false
  ∧ Queues (.wpset g d a b) d false
  ∧ Queues (.errq g d a) d false
  ∧ Queues (.pwrq g d a) d false
  ∧ Queues (.idq g d a) d false
  ∧ (∀ s cid c k n, Steps s cid c → c.instr = .fork g d a → c.f 48 464 = 0 → k = s.carbonOf (cmdLseq s c) → (k ≠ 0 → ∃ x, s.carbon c.tags.ctx k = some x ∧ x.postmark ≤ c.f 0 48) →
    (k = 0 → s.carbon c.tags.ctx 0 = none) → s.depthOf c.tags.ctx k ≠ 8 → s.carbons.length < 255 → (∀ t, s.task (cmdLseq s c) = some t → t.postmark < c.f 0 48) →
    s.freeCarbon c.tags.ctx = some n →
    exec (.engineStep cid) s = .next (endCmd { s with carbons := s.carbons ++ [{ ctx := c.tags.ctx, num := n, parent := k, postmark := c.f 0 48, depth := s.depthOf c.tags.ctx k + 1
                                                                                 owner := if (s.task (cmdLseq s c)).isSome then some (cmdLseq s c) else none }] }
      cid 0 ((s.depthOf c.tags.ctx k + 1) * 2 ^ 8 + n)))
  ∧ (∀ s v cid c x, s.bus = none → s.cmd cid = some c → c.st = .queued → c.suspended = false → c.lost s = false → s.acceptTurn cid c = true → s.ldpBefore cid c = false →
    v = { s.modCmd cid (fun _ => captured s c) with ids := s.ids + 1 } → 1 ≤ c.b.toNat → c.b.toNat ≤ 255 → s.carbon c.tags.ctx c.b.toNat = some x →
    (c.instr = .seal g d a b → x.parent = s.carbonOf (cmdLseq s c) →
      (s.atFrontNow (cmdLseq s c) = true → exec (.commandAcceptance cid) s = .next (applySeal (pendingFirst (endCmd v cid 0 1) c.tags.ctx c.b.toNat) c.tags.ctx c.b.toNat))
      ∧ (s.atFrontNow (cmdLseq s c) = false → exec (.commandAcceptance cid) s =
          .next (endCmd (v.modTask (cmdLseq s c) (fun t => { t with acts := t.acts ++ [(c.b.toNat, true)] })) cid 0 0)))
    ∧ (c.instr = .shred g d a b → s.above c.tags.ctx (s.carbonOf (cmdLseq s c)) c.b.toNat 9 = true →
      (s.atFrontNow (cmdLseq s c) = true → exec (.commandAcceptance cid) s = .next (applyShred (pendingFirst (endCmd v cid 0 1) c.tags.ctx c.b.toNat) c.tags.ctx c.b.toNat))
      ∧ (s.atFrontNow (cmdLseq s c) = false → exec (.commandAcceptance cid) s =
          .next (endCmd (v.modTask (cmdLseq s c) (fun t => { t with acts := t.acts ++ [(c.b.toNat, false)] })) cid 0 0))))
  ∧ (∀ s ctx k x, State.carbon s ctx k = some x → (∀ y ∈ s.carbons, y.ctx = ctx → y.parent = x.parent → y.postmark = x.postmark → y.num = k) → (∀ e ∈ s.tasks, e.2.sig = []) →
    (applySeal s ctx k).tasks = s.tasks.map (fun e => if e.2.ctx == ctx && e.2.carbon == k then (e.1, { e.2 with carbon := x.parent }) else e)
    ∧ (applySeal s ctx k).carbon ctx k = none ∧ (applySeal s ctx k).teams = (s.modPosts ctx (fun r => r.rebind k x.parent)).teams)
  ∧ (∀ s ctx k x, State.carbon s ctx k = some x → (∀ y ∈ s.carbons, ¬ (y.ctx = ctx ∧ y.parent = k)) → (∀ e ∈ s.tasks, ¬ (e.2.ctx = ctx ∧ e.2.carbon = k)) →
    (applyShred s ctx k).carbons = s.carbons.filter (fun y => !(y.ctx == ctx && y.num == k)) ∧ (applyShred s ctx k).tasks = s.tasks
      ∧ (applyShred s ctx k).teams = (s.modPosts ctx (fun r => r.rebind k noCarbon)).teams)
  ∧ (∀ s cid c h len nblk, Steps s cid c → s.actTurn cid c = true → poolHdr s cid c (c.f 0 64) = .ok h s → (c.step = 0 → kvLimit c h = true) →
    readSeq s cid c h c.kvSeq = .ok (len, nblk, true) s →
    (∀ k dsc v, c.instr = .kvalloc g d a → nblk < h.maxb → (∃ pa leaf, cmdXl s cid c (ptrOn h.ptr 48) .wr 4 [] = .ok (pa, leaf) s ∧ (leafVersioned leaf = true ∨ cmdFront s c = true)) →
      findBlocks s cid c h 1 = .ok (some [k]) s → readDesc s cid c h k = .ok dsc s →
      cmdWriteMany s cid c [wDesc h k (freshDesc dsc k c.tags.carbon 0), wList h c.kvSeq nblk k len, wSeq h c.kvSeq len (nblk + 1) true] h.keep = .ok () v → v.bus = none →
      exec (.engineStep cid) s = .next (endCmd (takeBlocks v c h [k] id none) cid 0 k))
    ∧ (∀ ks, c.instr = .kvapp g d a → c.vals = [] → nblk = 0 → moreBlocks c.kvArg 64 ≤ h.maxb →
      (∃ pa leaf, cmdXl s cid c (ptrOn h.ptr 48) .wr 4 [] = .ok (pa, leaf) s ∧ (leafVersioned leaf = true ∨ cmdFront s c = true)) →
      findBlocks s cid c h (moreBlocks c.kvArg 64) = .ok (some ks) s →
      (∀ k ∈ ks, ∃ pa leaf, cmdXl s cid c (h.descAt k) .wr 32 h.keep = .ok (pa, leaf) s ∧ (leafVersioned leaf = true ∨ cmdFront s c = true)) →
      exec (.engineStep cid) s = .next (nextStep (takeBlocks s c h ks id none) cid (fun x => { x with vals := [1, len, 0, c.kvArg, len], data := ks }))))
  ∧ (∀ s cid c h first nblk left cum, Steps s cid c → c.instr = .kvapp g d a → poolHdr s cid c (c.f 0 64) = .ok h s → (c.step = 0 → kvLimit c h = true) →
    c.vals = [1, first, nblk, left, cum] → 0 < nblk →
    ∀ k cumK dsc v, readList s cid c h c.kvSeq (nblk - 1) = .ok (k, cumK) s → readDesc s cid c h k = .ok dsc s → dFill dsc < 64 → dRef dsc ≤ 1 → needsCopy c dsc = false →
      cmdWriteMany s cid c [wDesc h k (putFld (putFld dsc 0 64 (dSurv dsc ||| ((2 ^ min left (64 - dFill dsc) - 1) * 2 ^ dFill dsc))) 80 7 (dFill dsc + min left (64 - dFill dsc))),
        wList h c.kvSeq (nblk - 1) k (cumK + min left (64 - dFill dsc))] h.keep = .ok () v → v.bus = none →
      exec (.engineStep cid) s = .next (nextStep v cid (fun x => { x with
        vals := [2, first, nblk, left - min left (64 - dFill dsc), cumK + min left (64 - dFill dsc)] })))
  ∧ (∀ s cid c t h path, Steps s cid c → c.instr = .redact g d a → s.treeTurn cid c = true → (c.step = 0 → c.vals = [] → treeCheck s c = none) → myTree s c c.trSlot = some t →
    path = (upFrom 0 t.nodes.length).filter (fun i => bit (nth {} t.nodes i).flags 1) → s.actTurn cid c = true → pathGood t.nodes path = true →
    poolHdr s cid c (c.f 192 64) = .ok h s →
    (∀ len nblk xs, c.vals = [] → t.seq < h.nseq → readSeq s cid c h t.seq = .ok (len, nblk, true) s → t.kv0 + t.nodes.length ≤ len →
      allSlots s cid c h t.seq t.kv0 [] t.nodes.length = .ok (some xs) s →
      exec (.engineStep cid) s = .next (s.modCmd cid (fun c => { c with vals := [1], data := xs, page := none, refused := none })))
    ∧ (∀ k k' mask e dsc v mine, c.vals ≠ [] → c.step < (distinct (c.data.map (· / 2 ^ 40))).length → k = nth 0 (distinct (c.data.map (· / 2 ^ 40))) c.step →
      mine = (c.data.zip (upFrom 0 t.nodes.length)).filter (fun x => x.1 / 2 ^ 40 == k) → k' = (mine.headD (0, 0)).1 % 2 ^ 40 / 64 →
      mask = sumOf ((mine.filter (fun x => !path.contains x.2)).map (fun x => 2 ^ (x.1 % 64))) → readSeq s cid c h t.seq = .ok e s → readDesc s cid c h k' = .ok dsc s →
      dRef dsc ≤ 1 → needsCopy c dsc = false → surviveWrite s cid c h t.seq k e k' dsc (clearBits (dSurv dsc) mask) = .ok () v → v.bus = none →
      exec (.engineStep cid) s = .next (nextStep v cid id))
    ∧ (c.vals ≠ [] → (distinct (c.data.map (· / 2 ^ 40))).length ≤ c.step →
      exec (.engineStep cid) s = .next (endCmd (s.setTree c.tid c.trSlot (pathTree t path)) cid 0 (t.nodes.length - path.length))))

/-! ### Words in general -/

/-- R45, R55 and R56: what becomes of a lane that does not execute its word, for every word of the opcode table. A false guard gives no effect; a lane that
must wait for its registers leaves the group for the wait list; a lane that a place of R56 stops raises the trap. R14, R23, R87, R95, R135, R136, R145, R150,
R151, R224, R227, R233, R237, R238, R276, R279, R365, R393, R439, R441 and R473: where a form traps on its operands, with which code and info word; that a word
of an engine command does so for its block (PARAM_RANGE) is in `Queues`. That post tests PARAM_RANGE before NOT_LEADER, and the info word of bankq's BANK_RANGE,
are the model's readings (assumption logs 41 and 26). -/
def Obligations.LanesThatDoNotExecute : Prop :=
  (∀ (i : Instr) (s : State) (w : WordCtx) (e : Ent), i.guard.isSome = true → Ready s w → w.ents = [e] →
    w.group.slot < hdrCount w.group.hdr → NoneFailed s w → s.couriers = [] → (∀ f ∈ s.flights, f.1 < s.ids) →
    (gate s w i e = .off → exec i s = .next (afterWord s w i [(e, .off)]))
    ∧ (∀ rs, gate s w i e = .block rs → exec i s = .next (afterWord s w i [(e, .block (.regs rs))]))
    ∧ (∀ c n, gate s w i e = .trap c n → exec i s = .next (raiseTrap (afterWord s w i [(e, .trap c n)]) w.group.tid e.lid
        ⟨w.group.h, causeWord c (i.cls.getD 0) w.group.slot false false (hdrCount w.group.hdr), n⟩)))
  ∧ (∀ (us : List OpUse) (p : Pos) (u : OpUse) (v : Val) (vs : List (Pos × Val)), consumed us [] = none ∧ (v.poison = false → consumed us ((p, v) :: vs) = consumed us vs)
    ∧ (v.poison = true → useAt p us = some u → ∃ n, consumed us ((p, v) :: vs) = some (5, n) ∧ n.toNat % 2 ^ 8 = u.code.toNat ∧ n.toNat / 2 ^ 8 % 16 = posField p
      ∧ n.toNat / 2 ^ 12 = if v.lo.toNat / 2 ^ 28 = 15 then v.lo.toNat % 2 ^ 20 else 0))
  ∧ (∀ (t : Team) (o n : Nat), (o % n ≠ 0 → padCheck t o n = some (0x30, BitVec.ofNat 32 o)) ∧ (o % n = 0 → t.padb < o + n → padCheck t o n = some (0x31, BitVec.ofNat 32 o))
    ∧ (o % n = 0 → o + n ≤ t.padb → padCheck t o n = none))
  ∧ ∀ (g : Guard) (wide stream slot pmk par gx wr kl : Bool) (h : Hint) (sz : Sz) (fn : AFn) (ty : Ty) (fop : FrOp) (pt : BitVec 5) (m : BMode) (cm : CtrMode)
      (d code code' : Code) (a b c : Src) (off : BitVec 8),
    (∀ i, (i = .movx g wide d a ∨ i = .movxw g wide a b) → TrapsAs i (fun _ _ e x _ _ => (consumed i.uses [(.A, x)]).or
        (if e.lane.regs.length ≤ x.lo.toNat ∨ (wide = true ∧ (x.lo.toNat % 2 = 1 ∨ e.lane.regs.length ≤ x.lo.toNat + 1)) then some (0x10, x.lo) else none)))
    ∧ TrapsAs (.brx g slot d a b) (fun _ _ _ x y _ => (consumed (Instr.brx g slot d a b).uses ((.A, x) :: if slot then [(.B, y)] else [])).or
        (if x.lo.toNat % 8 ≠ 0 then some (0x11, x.lo) else none))
    ∧ TrapsAs (.brx g true d a b) (fun s w e x y _ => if x.poison || y.poison || x.lo.toNat % 8 != 0 then none
        else match fetchWord s (s.tagsOf w.core w.team) (x.d.extractLsb' 0 56).toNat e.lane.refused with
          | (.ok hdr, t) => if t = s ∧ hdrBad hdr = false ∧ hdrCount hdr + 1 < y.lo.toNat then some (0x12, y.lo) else none
          | _ => none)
    ∧ (∀ ea : DWord → DWord, ea = (fun x => eaOf x off (szBytes sz)) → ∀ load : Val → Option (Nat × Word),
      load = (fun x => if x.poison = false ∧ eaVa (ea x.d) % szBytes sz ≠ 0 then some (0x30, (ea x.d).extractLsb' 0 32) else none) →
      TrapsAs (.ld g h sz d a off) (fun _ _ _ x _ _ => load x) ∧ TrapsAs (.fld g sz d a off) (fun _ _ _ x _ _ => load x)
      ∧ TrapsAs (.st g stream sz a b off) (fun _ _ _ x y _ => (consumed (Instr.st g stream sz a b off).uses [(.A, x), (.B, y)]).or (load x))
      ∧ TrapsAs (.fst g sz a b off) (fun _ _ _ x y _ => (consumed (Instr.fst g sz a b off).uses [(.A, x), (.B, y)]).or (load x)))
    ∧ (∀ (t : Ty) (i : Instr), ((t = ty ∧ (i = .rmw g fn ty d a b off ∨ i = .red g fn ty a b off)) ∨ (t = (frmwFn fop wide).2 ∧ i = .frmw g fop wide d a b off)) →
      TrapsAs i (fun _ _ _ x y _ => (consumed i.uses [(.A, x), (.B, y)]).or
        (if eaVa (eaOf x.d off (tyBytes t)) % tyBytes t ≠ 0 then some (0x30, (eaOf x.d off (tyBytes t)).extractLsb' 0 32) else none)))
    ∧ TrapsAs (.pld g sz d a off) (fun _ w _ x _ _ => if x.pl then none else padCheck w.team (padOff x.lo off (szBytes sz)) (szBytes sz))
    ∧ TrapsAs (.pst g sz a b off) (fun _ w _ x y _ => (consumed (Instr.pst g sz a b off).uses [(.A, x), (.B, y)]).or
        (padCheck w.team (padOff x.lo off (szBytes sz)) (szBytes sz)))
    ∧ TrapsAs (.prmw g fn ty d a b off) (fun _ w _ x y _ => (consumed (Instr.prmw g fn ty d a b off).uses [(.A, x), (.B, y)]).or
        (padCheck w.team (padOff x.lo off (tyBytes ty)) (tyBytes ty)))
    ∧ TrapsAs (.ldp g pt a b) (fun _ w _ x y _ => if x.poison || y.pl then none
        else if eaVa x.d % 16 ≠ 0 then some (0x30, (eaOf x.d 0 16).extractLsb' 0 32) else padCheck w.team y.lo.toNat 16)
    ∧ TrapsAs (.qpush g a b) (fun _ _ _ x y _ => (consumed (Instr.qpush g a b).uses [(.A, x), (.B, y)]).or (if eaVa x.d % 4096 ≠ 0 then some (0x30, x.lo) else none))
    ∧ TrapsAs (.qpop g d a) (fun _ _ _ x _ _ => (consumed (Instr.qpop g d a).uses [(.A, x)]).or (if eaVa x.d % 4096 ≠ 0 then some (0x30, x.lo) else none))
    ∧ TrapsAs (.tagw g a b) (fun _ _ _ x y _ => consumed (Instr.tagw g a b).uses [(.A, x), (.B, y)])
    ∧ TrapsAs (.bank g m a b) (fun s w _ x y _ => if x.pl || y.pl then none
        else if 63 < x.lo.toNat ∨ y.lo = 0 ∨ 64 < x.lo.toNat + y.lo.toNat then some (0x32, BitVec.ofNat 32 (x.lo.toNat % 256 * 256 + y.lo.toNat % 256))
        else (firstWith (s.bankBusy (clusterOf w.core) m) (upFrom x.lo.toNat y.lo.toNat)).map (fun k => (0x33, BitVec.ofNat 32 k)))
    ∧ TrapsAs (.bankq g d a) (fun _ _ _ x _ _ => if x.pl = false ∧ 63 < x.lo.toNat then some (0x32, BitVec.ofNat 32 (x.lo.toNat % 256 * 256)) else none)
    ∧ (∀ (i : Instr) (fits : Pigeon → Bool), (i = .pop g wide d a ∧ fits = fun p => p.kind == b2n wide)
        ∨ (i = .poll g d a ∧ fits = fun p => p.kind == 0) ∨ (i = .stamp g d a b ∧ fits = fun p => p.kind != 2) ∨ (i = .rput g a b c ∧ fits = fun p => p.kind == 2)
        ∨ (i = .rtake g d a ∧ fits = fun p => p.kind == 2) →
      TrapsAs i (fun s w e x y _ => if x.pl || y.pl || s.holeOwed w.group.tid e.lid x.lo s.ids then none
        else match s.named w.group.tid w.core w.grid.ctx x.lo with
        | none => some (0x60, x.lo)
        | some p => if fits p then none else some (0x61, x.lo)))
    ∧ TrapsAs (.push g slot wide a b) (fun s w e x _ _ => if x.pl || s.holeOwed w.group.tid e.lid x.lo s.ids then none
        else match s.named w.group.tid w.core w.grid.ctx x.lo with
        | none => some (0x60, x.lo)
        | some p => if s.servable p PActKind.isStamp then none else if p.kind ≠ b2n wide then some (0x61, x.lo)
          else if slot = true ∧ p.resv = 0 then some (0x62, x.lo) else none)
    ∧ TrapsAs (.stamp g d a b) (fun s w e x y _ => match s.named w.group.tid w.core w.grid.ctx x.lo with
        | none => none
        | some p => if x.pl = false ∧ y.pl = false ∧ NoneOwed s w e x.lo ∧ p.kind ≠ 2 ∧ (y.lo = 0 ∨ p.depth < y.lo.toNat) then some (0x63, y.lo) else none)
    ∧ TrapsAs (.rput g a b c) (fun s w e x y z => match s.named w.group.tid w.core w.grid.ctx x.lo with
        | none => none
        | some p => if x.pl = false ∧ y.pl = false ∧ NoneOwed s w e x.lo ∧ p.kind = 2 ∧ s.servable p PActKind.isPut = false
            ∧ p.rputNow y.lo.toNat ⟨z.lo.setWidth 64, z.pl⟩ = .stale then some (0x64, y.lo) else none)
    ∧ (∀ i, i = .arrive g a b ∨ i = .await g d a b ∨ i = .expect g a b →
      TrapsAs i (fun s w e x y _ => if x.pl || y.pl || s.holeOwed w.group.tid e.lid (pointHandle x.lo.toNat) s.ids then none
        else match (s.team w.group.tid).bind (fun t => Tab.find x.lo.toNat t.points) with
        | none => some (0x60, x.lo)
        | some _ => none))
    ∧ (∀ i, (i = .arrive g a b ∨ i = .expect g a b) → TrapsAs i (fun s w e x y _ => if x.pl || y.pl || s.holeOwed w.group.tid e.lid (pointHandle x.lo.toNat) s.ids then none
        else if ((s.team w.group.tid).bind (fun t => Tab.find x.lo.toNat t.points)).isSome = true ∧ s.ldpDone w.group.tid e.lid = true
          ∧ (65535 < y.lo.toNat ∨ (y.lo = 0 ∧ i = .expect g a b)) then some (0x65, y.lo) else none))
    ∧ TrapsAs (.cwr g a b) (fun s w _ x _ _ => if x.poison then none else match courierTeam s w (fld x.d.toNat 32 32) with
        | none => some (0x66, x.lo)
        | some (_, t) => if fld x.d.toNat 23 9 ≠ 0 ∨ t.lanes.length ≤ fld x.d.toNat 0 10 ∨ (nth {} t.lanes (fld x.d.toNat 0 10)).exited = true
            ∨ (nth {} t.lanes (fld x.d.toNat 0 10)).regs.length ≤ fld x.d.toNat 10 7
            ∨ (bit x.d.toNat 22 = false ∧ Tab.find (fld x.d.toNat 17 5) t.points = none) then some (0x66, x.lo) else none)
    ∧ TrapsAs (.waitw g a b) (fun _ w _ x y _ => if x.pl || y.pl then none else padCheck w.team x.lo.toNat 4)
    ∧ TrapsAs (.accept g a b) (fun _ _ _ x y _ => if x.pl || y.pl then none
        else if y.lo = 0 ∨ 65535 < y.lo.toNat ∨ y.lo.toNat < x.lo.toNat then some (0x73, y.lo) else none)
    ∧ TrapsAs (.post g pmk par gx d code code') (fun _ w e x y _ => (consumed (Instr.post g pmk par gx d code code').uses [(.A, x), (.B, y)]).or
        (if x.lo.toNat % 64 ≠ 0 ∨ w.team.padb < x.lo.toNat + 64 then some (7, x.lo) else if e.lid ≠ 0 then some (0x70, BitVec.ofNat 32 e.lid)
          else if w.grid.depth = 10 then some (0x71, 10) else none))
    ∧ TrapsAs (.abrt g kl a) (fun s w _ _ _ _ => if (s.task w.team.lseq).isNone then some (0xA1, 0) else none)
    ∧ TrapsAs (.kvx g wr d a b c) (fun _ _ _ x y z => if x.poison || y.pl || z.pl then none else if x.d.toNat % 4096 ≠ 0 then some (0xB2, x.lo) else none)
    ∧ TrapsAs (.bkpt g a) (fun s w e x _ _ => if e.lane.passing.contains 20 = false ∧ (s.dbgOf w.grid.ctx).rights = false then some (0xD0, x.lo) else none)
    ∧ TrapsAs (.ctrr g cm d a) (fun _ _ _ x _ _ => if cm ≠ .latch ∧ x.pl = false ∧ 12 < x.lo.toNat then some (0xD1, x.lo) else none)
    ∧ TrapsAs (.featq g d a) (fun _ _ _ x _ _ => if x.pl = false ∧ 7 < x.lo.toNat then some (0xD8, x.lo) else none)

/-- R54 and R56: the places of a word, in their order: the register budget, the feature, the poison of the guard, a false guard, an empty source with its
trap bit, registers to wait for. That every trap bit is looked at before any wait, the code by which a guard is named, and that an owed D waits in place 7,
are the model's readings (assumption logs 11, 13 and 111). -/
def Obligations.OrderOfPlaces : Prop := ∀ (s : State) (w : WordCtx) (i : Instr) (e : Ent) (gd : Guard) (p : Pred), i.guard = some gd →
  p = e.lane.pred gd.p.toNat →
  ((∃ u ∈ i.uses, ∃ n ∈ u.laneRegs, e.lane.regs.length ≤ n) → gate s w i e = .trap 3 0)
  ∧ ((∀ u ∈ i.uses, ∀ n ∈ u.laneRegs, n < e.lane.regs.length) → pointMissing w.team i = false →
    (∀ b, featureOf i = some b → bit s.sys.featAcc b = false → gate s w i e = .trap 4 (BitVec.ofNat 32 b))
    ∧ ((∀ b, featureOf i = some b → bit s.sys.featAcc b = true) →
      (p.poison = true → gate s w i e = .trap 5 (consumedInfo 0 (160 + gd.p.toNat) (b2w p.v)))
      ∧ (p.poison = false → p.v = gd.neg → gate s w i e = .off)
      ∧ (p.poison = false → p.v ≠ gd.neg →
        (∀ u, firstWith (fun v => v.tie && !(emptyRegs e.lane v).isEmpty) i.uses = some u →
          gate s w i e = .trap 6 (BitVec.ofNat 32 (posField u.pos * 2 ^ 8 + u.code.toNat)))
        ∧ ((∀ u ∈ i.uses, u.tie = true → emptyRegs e.lane u = []) →
          (i.uses.flatMap (fun u => emptyRegs e.lane u ++ owedRegs e.lane u) ≠ [] →
            gate s w i e = .block (i.uses.flatMap (fun u => emptyRegs e.lane u ++ owedRegs e.lane u)))
          ∧ (i.uses.flatMap (fun u => emptyRegs e.lane u ++ owedRegs e.lane u) = [] → gate s w i e = .go (readUse s w.team w.grid e.lid e.lane (useAt .A i.uses))
            (readUse s w.team w.grid e.lid e.lane (useAt .B i.uses)) (readUse s w.team w.grid e.lid e.lane (useAt .C i.uses)))))))

/-- R47, R48, R78 and R79: the values of the operand codes, as `gate` gives them to a form (OrderOfPlaces), and where a result goes. A word that puts a value
into a team scalar leaves the lanes' registers alone: each lane whose result is poisoned traps, naming its first poisoned source (of shfl, the A of the lane
that it reads; what it names where none of these is poisoned is the model's, assumption log 110); the value of the lane in the lowest slot whose result is not
poisoned waits for the end of the cycle, and is in the scalar afterwards, the last in order of schedulers. (`w.ents` stands in rising order of slots; every word
that computes D completes so, by `Puts`.) -/
def Obligations.ScalarWrite : Prop :=
  (∀ (s : State) (t : Team) (g : Grid) (lid : Nat) (l : Lane) (n : Nat) (v : Val) (wide : Bool) (u : OpUse),
    readUse s t g lid l none = {}
    ∧ (u.kind.isSource = true → readUse s t g lid l (some u) = if u.kind.wide then read64 s t g l u.code.toNat else read32 s t g lid l u.code.toNat)
    ∧ (n < 128 → read32 s t g lid l n = .w (l.reg n).v (l.reg n).poison)
    ∧ (n < 127 → read64 s t g l n = ⟨(l.reg n).v, (l.reg (n + 1)).v, (l.reg n).poison, (l.reg (n + 1)).poison⟩)
    ∧ (n < 32 → read32 s t g lid l (128 + n) = .w (nth 0 t.scal n) false)
    ∧ (n < 31 → read64 s t g l (128 + n) = ⟨nth 0 t.scal n, nth 0 t.scal (n + 1), false, false⟩)
    ∧ (n < 63 → read32 s t g lid l (160 + n) = .w (b2w (nth {} l.preds n).v) (nth {} l.preds n).poison) ∧ read32 s t g lid l 223 = .w 1 false
    ∧ (∀ x ∈ [(224, 0), (225, 1), (226, 2 ^ 32 - 1), (227, lid), (228, l.rlid), (229, l.role), (230, t.tlin % g.lrec.gdx), (231, t.tlin / g.lrec.gdx % g.lrec.gdy),
        (232, t.tlin / (g.lrec.gdx * g.lrec.gdy)), (233, t.tlin), (234, g.lrec.gdx), (235, g.lrec.gdy), (236, g.lrec.gdz), (237, 32 * nth 0 g.lrec.lanes32 l.role),
        (241, g.ctx), (242, g.lrec.part), (243, g.depth), (246, s.now), (247, s.now / 2 ^ 32), (248, g.lrec.params.toNat), (249, g.lrec.params.toNat / 2 ^ 32),
        (250, t.lseq), (251, s.carbonOf t.lseq), (252, t.padb), (253, s.cyc)], read32 s t g lid l x.1 = .w (BitVec.ofNat 32 x.2) false)
    ∧ (∀ core k, t.loc = .resident core k → ∀ x ∈ [(238, core), (239, core / 4), (240, core / 64)], read32 s t g lid l x.1 = .w (BitVec.ofNat 32 x.2) false)
    ∧ (∀ p, p = (if g.lrec.pm then g.lrec.postmark else 0) → read32 s t g lid l 244 = .w (BitVec.ofNat 32 p) false
      ∧ read32 s t g lid l 245 = .w (BitVec.ofNat 32 (p / 2 ^ 32)) false
      ∧ ∀ x ∈ [(224, 0), (244, p), (246, s.now), (248, g.lrec.params.toNat)], read64 s t g l x.1 = .dw (BitVec.ofNat 64 x.2) false)
    ∧ (n < 128 → l.writeD n false v = { l with regs := setAt l.regs n ⟨v.lo, v.pl, .full⟩ }
      ∧ l.writeD n true v = { l with regs := setAt (setAt l.regs n ⟨v.lo, v.pl, .full⟩) (n + 1) ⟨v.hi, v.ph, .full⟩ })
    ∧ (n < 63 → l.writeD (160 + n) wide v = { l with preds := setAt l.preds n ⟨v.lo.getLsbD 0, v.pl⟩ })
    ∧ (n < 32 → l.writeD (128 + n) wide v = l) ∧ l.writeD 223 wide v = l ∧ l.writeD 224 wide v = l)
  ∧ (∀ (s t : State) (w : WordCtx) (i : Instr) (d : Code) (wide : Bool) (f : List Exe → Ent → Val → Val → Val → Val) (u : OpUse),
    Inside s w → Clear s w i → destOf i = some u → u.code = d → u.kind.wide = wide → isScal d.toNat = true → t = afterWord s w i (putActs s w i d f) →
    (∀ e ∈ w.ents, ∀ a b c, gate s w i e = .go a b c →
      ((f (executing s w i) e a b c).poison = false → t.lane w.group.tid e.lid = some (advance w.group e.lane))
      ∧ ((f (executing s w i) e a b c).poison = true → t.lane w.group.tid e.lid = some e.lane
        ∧ ∃ r, (e, Act.trap r.1 r.2) ∈ putActs s w i d f ∧ (∀ q, consumed i.uses [(.A, match i with
            | .shfl _ _ m _ _ _ => ((shflSlot m e.slot b.lo.toNat).bind (exeAt (executing s w i))).elim a Exe.a
            | _ => a), (.B, b), (.C, c)] = some q → r = q)))
    ∧ (∀ pre e post a b c v, w.ents = pre ++ e :: post → gate s w i e = .go a b c → v = f (executing s w i) e a b c → v.poison = false →
      (∀ x ∈ pre, gate s w i x = .off ∨ ∃ a b c, gate s w i x = .go a b c ∧ (f (executing s w i) x a b c).poison = true) →
      ∃ m, t.team w.group.tid = some m ∧ m.scal = w.team.scal
        ∧ m.pendScal = w.team.pendScal ++ (w.sched, d.toNat - 128, v.lo) :: (if wide then [(w.sched, d.toNat - 127, v.hi)] else []))
    ∧ ((∀ e ∈ w.ents, ∀ a b c, gate s w i e = .go a b c → (f (executing s w i) e a b c).poison = true) →
      ∃ m, t.team w.group.tid = some m ∧ m.scal = w.team.scal ∧ m.pendScal = w.team.pendScal))
  ∧ (∀ (g : Guard) (sat u : Bool) (d : Code) (a b : Src) (s : State) (w : WordCtx), Inside s w → Clear s w (.add g sat u d a b) →
    exec (.add g sat u d a b) s = .next (afterTraps s w (.add g sat u d a b) (putActs s w (.add g sat u d a b) d
      (fun _ _ x y _ => .w (fit 32 sat u (ext u x.lo + ext u y.lo)) (x.pl || y.pl)))))
  ∧ (∀ (s : State) (tid n k j k' : Nat) (x y : Word) (m : Team), s.team tid = some m → s.sys.writes = [] → 0 < n →
    ∃ r, (tick s n).team tid = some r ∧ r.pendScal = [] ∧ (m.pendScal = [(k, j, x)] → r.scal = setAt m.scal j x)
      ∧ (m.pendScal = [(k, j, x), (k', j, y)] → k < k' → r.scal = setAt m.scal j y) ∧ (m.pendScal = [(k, j, x), (k', j, y)] → k' < k → r.scal = setAt m.scal j x))

/-- R36, R73 and the model's own agenda (assumption log 1): when the next thing to happen is that a scheduler issues, a step takes the word in the slot of the
group that R73 picks and is exec of the instruction that it decodes to. -/
def Obligations.StepRunsTheDecodedWord : Prop := ∀ (s t : State) (core k : Nat) (rest : List Choice) (g : Group) (w : WordCtx) (i : Instr),
  s.agenda = .issue core k :: rest → t = { s with agenda := rest } → Issues t core k g w →
  slotTrap g.hdr (nth 0 g.words g.slot) g.slot = none → decode (nth 0 g.words g.slot) = .ok i →
  step s = exec i (running t core k g i)

/-- R41, R42 and R55: a word that its clause may not hold, or that is no instruction, raises its trap for every lane of the group. -/
def Obligations.WordsThatAreNoInstruction : Prop := ∀ (s t : State) (core k : Nat) (rest : List Choice) (g : Group) (w : WordCtx),
  s.agenda = .issue core k :: rest → t = { s with agenda := rest } → Issues t core k g w → s.bus = none →
  (∀ code, slotTrap g.hdr (nth 0 g.words g.slot) g.slot = some code →
    step s = .next (trapAll (issuing t core k g) w code (fld (nth 0 g.words g.slot).toNat 4 4)))
  ∧ (∀ r, slotTrap g.hdr (nth 0 g.words g.slot) g.slot = none → decode (nth 0 g.words g.slot) = .error r →
    step s = .next (trapAll (issuing t core k g) w 3 (fld (nth 0 g.words g.slot).toNat 4 4)))

/-- The model's own agenda (assumption log 1): when the next thing to happen is a row of the opcode table that has no word, a step is exec of that row;
a word does not run in this way. -/
def Obligations.StepOfAnEvent : Prop := ∀ (s : State) (rest : List Choice) (i : Instr), s.agenda = .event i :: rest →
  (i.guard = none → step s = exec i { s with agenda := rest }) ∧ (i.guard.isSome = true → step s = .next { s with agenda := rest })

/-- R44 to R53: every word of the opcode table that is well formed decodes to itself from its encoding, with every operand and modifier. -/
def Obligations.DecodeOfEncode : Prop := ∀ i : Instr, i.guard.isSome = true → i.wf = true → decode (encode i) = .ok i

/-- R46 to R50 and R55: what decodes is a well-formed word of the opcode table, and its encoding is the word that was decoded: no bit of a word is
ignored. -/
def Obligations.DecodeIsSound : Prop := ∀ (w : DWord) (i : Instr), decode w = .ok i → i.guard.isSome = true ∧ i.wf = true ∧ encode i = w

/-- The worked words of the spec (R61 and the examples of chapters 2 and 3), each decoded to the instruction that it stands for; and R53 and R55: words of the
classes that do not exist, and of the reserved opcodes of the classes that do, are refused. -/
def Obligations.WorkedWordsAndReservedOpcodes : Prop :=
  decode 0x000000E1E3013F01 = .ok (.and ⟨false, 63⟩ 1 ⟨0xE3, false⟩ ⟨0xE1, false⟩)
  ∧ decode 0x000000E001A13F02 = .ok (.icmp ⟨false, 63⟩ false false .eq 161 ⟨1, false⟩ ⟨0xE0, false⟩)
  ∧ decode 0x0000000008FF0109 = .ok (.bra ⟨false, 1⟩ 255 8)
  ∧ decode 0x00000064E3023F07 = .ok (.addi ⟨false, 63⟩ 2 0xE3 100)
  ∧ decode 0x0000000000003F0B = .ok (.exit ⟨false, 63⟩)
  ∧ ∀ w : DWord,
    (13 ≤ w.toNat / 16 % 16 → decode w = .error .clazz)
    ∧ ((∃ r ∈ [(0x0C, 0x0F), (0x16, 0x1F), (0x2F, 0x2F), (0x35, 0x3F), (0x49, 0x4F), (0x5D, 0x5F), (0x68, 0x6F), (0x79, 0x7F), (0x85, 0x8F), (0x99, 0x9F),
        (0xB6, 0xBF), (0xC8, 0xCF)], r.1 ≤ w.toNat % 256 ∧ w.toNat % 256 ≤ r.2) → decode w = .error .opcode)

/-! ### The state at reset, and what every step keeps -/

/-- R72, R149, R254, R266, R408, R420, R452, R463, R464 and R466: what the package holds right after a reset. -/
def Obligations.ResetValues : Prop :=
  (∀ a, Mem.get State.reset.mem a = 0)
  ∧ (∀ core k p, nth 0 (State.reset.sched core k).credit p = 0)
  ∧ (∀ cl k, k < 64 → ((State.reset.cluster cl).bank k).mode = (if k < 48 then .pad else if k < 56 then .fifo else .cache)
      ∧ ((State.reset.cluster cl).bank k).sw = none)
  ∧ State.reset.disp.lseq = 1
  ∧ State.reset.disp.points.map DiePoint.cls = [1, 1]
  ∧ (∀ d ∈ State.reset.fab.dies, d.table = [] ∧ d.groups = [])
  ∧ (∀ d ∈ State.reset.ctrs, d.snap = List.replicate 13 0)
  ∧ State.reset.sys.owner = none ∧ State.reset.sys.bstate = 0 ∧ State.reset.sys.m = List.replicate 64 0
  ∧ State.reset.teams = [] ∧ State.reset.grids = [] ∧ State.reset.cmds = [] ∧ State.reset.ctxs = []

/-- The model's own invariants hold at reset: nothing of a step is left over, and memory is in its canonical form. -/
def Obligations.ResetIsSettled : Prop := Settled State.reset ∧ Mem.wf State.reset.mem = true

/-- R475: a step that goes on has touched no physical address without memory; the model stops otherwise (assumption log 7). -/
def Obligations.StepsTouchMemoryOnly : Prop := Kept (fun s => s.bus = none)

/-- The model's own invariant of memory: every step, of a word, of an event or of the clock, keeps the canonical form (addresses strictly rising, no byte listed
that reads as an unlisted one), so that equal memories are equal data. -/
def Obligations.MemoryStaysCanonical : Prop := Kept (fun s => Mem.wf s.mem = true)

/-! ### Rows of the opcode table that have no word -/

/-- R39, R40, R42, R70, R71, R101, R103, R152 and R278: forming a group of the lanes of a bin that stand at one header, forming a trap-entry group, and the ends of the
waits that come to an end by themselves, where the clause at the header is fetched whole and legal, and every lane meets its wait set. And how the lanes of a
group that continues enter the clause that comes next (`entered`, in Safety.lean): they trap at an illegal header, those that do not meet the wait set wait, and
those that come inside the clause go on there. -/
def Obligations.GroupsAndWaits : Prop := ∀ (s v : State) (core k : Nat) (hdr : DWord) (words : List DWord) (tid lid : Nat) (t : Team) (l : Lane),
  s.bus = none → v.bus = none → hdrBad hdr = false → s.team tid = some t → (s.dbgOf (s.ctxOf t)).slots = [] → l = nth {} t.lanes lid →
  (∀ (b : Bin) (x : Sched) (lids : List Nat) (h : Addr), b.tid = tid → s.anyCandidate core k = true → (s.sched core k).formed ≠ s.cyc + 1 →
    chooseBin s core k = some (b, x) → lids = sortBy id (b.lanes.map Prod.fst) → lids ≠ [] → lids.length ≤ 32 →
    (∀ n ∈ lids, (nth {} t.lanes n).h = h ∧ (nth {} t.lanes n).slot = none ∧ (nth {} t.lanes n).stepping = none) →
    fetchClause { s.modSched core k (fun _ => { x.unfile tid lids with formed := s.cyc + 1 }) with ids := s.ids + 1 } (s.tagsOf core t) h 0
      (firstSome (fun n => (nth {} t.lanes n).refused) lids) = (.ok hdr words, v) →
    (∀ n ∈ lids, v.waitSetHolds core tid n t (nth {} t.lanes n) (hdrWait hdr) = true) →
    exec (.groupFormation core k) s = .next (joinGroup v core k s.ids tid h hdr words 0 lids false))
  ∧ (∀ p : TrapPend, (s.sched core k).groups.length < 8 → (s.sched core k).formed ≠ s.cyc + 1 → trapWaiting s core k = some (tid, p) → p.lid = lid →
    l.slot = none → l.stepping = none →
    fetchClause { s.modSched core k (fun x => { x with formed := s.cyc + 1 }) with ids := s.ids + 1 } (s.tagsOf core t) l.h 0 l.refused = (.ok hdr words, v) →
    v.waitSetHolds core tid lid t l (hdrWait hdr) = true →
    exec (.trapEntry core k) s = .next ((joinGroup v core k s.ids tid l.h hdr words 0 [lid] true).modTeam tid (fun u => { u with
      traps := u.traps.map (fun q => if q.lid = lid then { q with waits := (nth {} u.lanes lid).wait.isSome } else q) })))
  ∧ (t.running.isSome = true → waitOver s tid lid t l = true → (∀ h slot, l.wait ≠ some (.fenceLd h slot)) → (∀ x d h slot, l.wait ≠ some (.outTray x d h slot)) →
    exec (.waitRelease tid lid) s = .next (fileFree ((s.modLane tid lid (fun m => { m with wait := none })).modTeam tid (fun u => { u with
      traps := u.traps.map (fun p => if p.lid = lid then { p with waits := false } else p) })) tid lid))
  ∧ (∀ h slot, t.running.isSome = true → l.wait = some (.fenceLd h slot) → l.loadsDone = true →
    exec (.waitRelease tid lid) s = .next (goOn s tid lid h slot))
  ∧ (∀ x d h slot g, t.running.isSome = true → l.wait = some (.outTray x d h slot) → s.disp.tray.length < 4096 → s.grid t.lseq = some g →
    exec (.waitRelease tid lid) s = .next (goOn ((trayAdd s g.ctx g.depth tid t.lseq x).modLane tid lid (fun m =>
      ({ m with refused := none } : Lane).writeD d false (.w (statusWord 0 6 s.disp.lseq) false))) tid lid h slot))
  ∧ (∀ sc h slot count, t.running.isSome = true → l.wait = some (.fence sc h slot count) → s.fenceHolds tid lid l sc = true →
    (sc = .fabric → l.ferr = none) → exec (.fencePass tid lid) s = .next (goOn s tid lid h slot))
  ∧ (∀ gid h j lids q u, lids ≠ [] → (∀ n ∈ lids, (nth {} t.lanes n).stepping = none) →
    fetchClause s (s.tagsOf core t) h (j.getD 0) (firstSome (fun n => (nth {} t.lanes n).refused) lids) = (.ok q words, u) →
    (∀ n, j = some n → enterClause s core k gid tid h j lids false = joinGroup u core k gid tid h q words n lids false)
    ∧ (j = none → hdrBad q = true → enterClause s core k gid tid h j lids false =
        lids.foldl (fun s n => raiseTrap s tid n ⟨h, causeWord 1 0 0 true false (hdrCount q), 0⟩) u)
    ∧ (j = none → hdrBad q = false → enterClause s core k gid tid h j lids false =
        joinGroup (waitLanes u tid (lids.filter (fun n => !u.waitSetHolds core tid n t (nth {} t.lanes n) (hdrWait q))) (.wset (hdrWait q)))
          core k gid tid h q words 0 (lids.filter (fun n => u.waitSetHolds core tid n t (nth {} t.lanes n) (hdrWait q))) false))

/-- R13, R15, R16, R19, R21, R25, R27, R32 and R33: the life of an engine command: accepted with a copy of its block once no earlier ldp of its lane is on its way,
stepped, stopped by a failure whose records are posted, resumed at the frontier, completed by the delivery of its status; nothing of this while its team is
suspended or once a fault of its context has struck. Which fills wait for others, and how a step is divided, follows assumption logs 45 and 92. -/
def Obligations.LifeOfACommand : Prop := ∀ (s t : State) (cid : Nat) (c : Cmd), s.cmd cid = some c → s.bus = none →
  (c.st = .queued → c.suspended = false → c.lost s = false → s.acceptTurn cid c = true → engineFull s c = false → s.ldpBefore cid c = false →
    ((∀ g d a b, c.instr ≠ .seal g d a b ∧ c.instr ≠ .shred g d a b) →
      exec (.commandAcceptance cid) s = .next (engineAccept { s.modCmd cid (fun _ => captured s c) with ids := s.ids + 1 } cid (captured s c)))
    ∧ (c.cls = 5 ∨ c.cls = 6 ∨ c.cls = 12 →
      exec (.commandAcceptance cid) s = .next { s.modCmd cid (fun _ => { c with st := .run, blk := cmdPad s c c.aoff 64, accepted := s.ids }) with ids := s.ids + 1 })
    ∧ (t = engineAccept { s.modCmd cid (fun _ => captured s c) with ids := s.ids + 1 } cid (captured s c) → t.bus = none → exec (.commandAcceptance cid) s = .next t))
  ∧ (s.mayStep cid c = true → t.bus = none →
    (engineStep s cid c = .ok () t → exec (.engineStep cid) s = .next t)
    ∧ (engineStep s cid c = .wait t → exec (.engineStep cid) s = .next t)
    ∧ (∀ cause addr n u, engineStep s cid c = .fail cause addr t → c.lost t = false →
      placeRecs t (dieOf c.tags.core) c.tags.ctx [engineRec t c cause addr, BitVec.ofNat 256 (leNat (c.blk.take 32)), BitVec.ofNat 256 (leNat (c.blk.drop 32))]
        = some (n, u) →
      exec (.engineStep cid) s = .next (u.modCmd cid (fun x => { x with st := .ended (failedStatus c.instr n) true }))))
  ∧ ((c.suspended = true ∧ ∀ u core k, s.team c.tid = some u → u.loc ≠ .resident core k)
      ∨ (c.suspended = false ∧ (c.lost s = true ∨ c.held = true ∨ c.page.isSome = true)) →
    exec (.engineStep cid) s = .next s)
  ∧ (c.st = .run → c.suspended = false → c.held = true → cmdFront s c = true →
    exec (.irrevocableStepResume cid) s = exec (.engineStep cid) (s.modCmd cid (fun c => { c with held := false }))
    ∧ (∀ g keepe d a, c.instr = .pshare g keepe false d a → c.page = none → c.edge = none → c.lost s = false → (s.ctx c.tags.ctx).ctl = true →
      (keepe = true → s.disp.ptable.ewma ≤ 65536) → exec (.irrevocableStepResume cid) s = .next (endCmd { s.modCmd cid (fun c => { c with held := false }) with
        disp := { s.disp with ptable := { ewma := if keepe then s.disp.ptable.ewma else 32768, pairen := false, pairtot := 0, smax := 0, smin := 0, target := 0,
                                          draft := 0, shares := [16, 16, 16, 16] } } } cid 0 0)))
  ∧ (∀ status failed, c.st = .ended status failed → (c.suspended = false ∨ ((∃ g o d a, c.instr = .smerge g o d a) ∧ ∀ u core k, s.team c.tid = some u → u.loc ≠ .resident core k)) → c.late = [] → c.lost s = false →
    s.cmds.any (fun x => fillsBefore x (cid, c)) = false →
    (∀ g d a b, c.instr ≠ .cpq g true d a b) → (∀ g d a, c.instr ≠ .decl g d a) →
    exec (.commandCompletion cid) s = .next { s.modLane c.tid c.lid (fun l => if l.exited then { l with wct := max l.wct c.wct }
      else ({ l with wct := max l.wct c.wct } : Lane).deliver c.d false cid (.w status failed)) with cmds := Tab.del cid s.cmds })

/-- R210 to R216: a publication is performed at the frontier, later than the last WCT of its pair, and gives its generation; the merge of a partial that a
slice held, or that is sent again, into a record on a page that is not versioned: what its words become, and the status. -/
def Obligations.PublicationsAndPartials : Prop := ∀ (s t : State) (cid : Nat) (c : Cmd), s.cmd cid = some c →
  (∀ (close : Bool) (p : Pair), pairForm c.instr = some close → s.bus = none → c.st = .run → c.suspended = false → c.lost s = false → c.page = none → c.step = 1 →
    (close = true ∨ pairFails s p = none) → (∀ e ∈ s.cmds, ¬ (e.1 ≠ cid ∧ e.2.st = .run ∧ (pairForm e.2.instr).isSome = true ∧ e.2.step = 1 ∧ e.2.b = c.b ∧ e.2.tags.ctx = c.tags.ctx
      ∧ nth 0 e.2.vals 0 < nth 0 c.vals 0)) →
    cmdFront s c = true → s.pair c.tags.ctx c.b.toNat = some p → p.live = true → p.wlast < s.now →
    ∃ w q, w = max s.now (s.leaseMaxFrames (rangeFrames s p.ctx p.front p.pages ++ rangeFrames s p.ctx p.back p.pages)) + 1
      ∧ q = { p with flip := (if close then p.flip else !p.flip), gen := (if close then p.gen else (p.gen + 1) % 2 ^ 22), live := !close, wlast := w,
                     old := if p.flip then some (p.front, p.back, p.pages) else none }
      ∧ exec (.publicationPerform cid) s = .next (fillStatus (s.setPair q) cid { c with wct := max c.wct w }
        (statusWord 0 4 (if close then 0 else (if q.flip then 2 ^ 22 else 0) + q.gen)) false))
  ∧ (∀ g o d a, c.instr = .smerge g o d a → c.st = .run → c.lost s = false → t.bus = none →
    (c.mgAt = 1 → mergeStep s cid c false = .ok () t → exec (.heldPartialMerge cid) s = .next t)
    ∧ (c.suspended = false → c.mgAt = 2 → c.mgSince + 64 ≤ s.cyc → mergeStep s cid c true = .ok () t → exec (.partialResend cid) s = .next t))
  ∧ (∀ g o d a n pa leaf part old x, c.instr = .smerge g o d a → c.st = .run → c.lost s = false → s.bus = none → s.stale c.tags = false → n = c.mgN → x = c.f 0 64 →
    1 ≤ n → n ≤ 1020 → fld x 0 56 % 16 = 0 → Touches s c .wr x (16 + 4 * n) pa leaf → cmdFront s c = true → part = c.data.map (BitVec.ofNat 8) →
    part.length = 16 + 4 * n → old = Mem.read s.mem pa (16 + 4 * n) → Mem.num s.mem (pa + 12) 2 = n →
    (o = false ∨ c.mgIdx = Mem.num s.mem (pa + 8) 4) → Mem.wf s.mem = true →
    ∀ e, ((e = .heldPartialMerge cid ∧ c.mgAt = 1) ∨ (e = .partialResend cid ∧ c.suspended = false ∧ c.mgAt = 2 ∧ c.mgSince + 64 ≤ s.cyc)) →
    ∃ t w, exec e s = .next t ∧ s.now < w ∧ t.cmd cid = some { finished c (Mem.num s.mem (pa + 8) 4 % 2 ^ 24) with wct := max c.wct w }
      ∧ t = { s with mem := t.mem, cmds := t.cmds }
      ∧ Mem.num t.mem (pa + 8) 4 = (Mem.num s.mem (pa + 8) 4 + 1) % 2 ^ 32 ∧ Mem.read t.mem (pa + 12) 4 = Mem.read s.mem (pa + 12) 4
      ∧ (∀ k, (k < pa ∨ pa + 16 + 4 * n ≤ k) → Mem.get t.mem k = Mem.get s.mem k)
      ∧ (∀ m mp mx, m = Mem.num s.mem pa 4 → mp = leNat (part.take 4) → mx = (fMinMax true false true (BitVec.ofNat 32 m) (BitVec.ofNat 32 mp)).toNat →
        (isNan32 (BitVec.ofNat 32 m) = true ∨ isNan32 (BitVec.ofNat 32 mp) = true → Mem.num t.mem pa 4 = 0x7FC00000 ∧ Mem.num t.mem (pa + 4) 4 = 0x7FC00000
          ∧ ∀ k, k < n → Mem.num t.mem (pa + 16 + 4 * k) 4 = 0x7FC00000)
        ∧ (isNan32 (BitVec.ofNat 32 m) = false → isNan32 (BitVec.ofNat 32 mp) = false → Mem.num t.mem pa 4 = mx
          ∧ Mem.num t.mem (pa + 4) 4 = mergeSum (mergeWeight m mx) (mergeWeight mp mx) (Mem.num s.mem (pa + 4) 4) (leNat ((part.drop 4).take 4)) % 2 ^ 32
          ∧ ∀ k, k < n → Mem.num t.mem (pa + 16 + 4 * k) 4
              = mergeSum (mergeWeight m mx) (mergeWeight mp mx) (Mem.num s.mem (pa + 16 + 4 * k) 4) (leNat ((part.drop (16 + 4 * k)).take 4)) % 2 ^ 32)))

/-- R21, R137, R141 to R146, R154 to R157 and R339: a value reaches its register; a load reads at its home slice, under its task's view, and its fill takes a
lease that the slice records; a write is performed, with the WCT that R154 gives it, and changes the bytes it stores to alone. -/
def Obligations.AccessesComplete : Prop := ∀ (s t : State) (fid : Nat) (f : Flight) (tm : Team), s.bus = none → s.hits = [] → Tab.find fid s.flights = some f →
  s.team f.tid = some tm → f.lid < tm.lanes.length →
  (∀ hi lo p, f.kind = .done hi lo p → exec (.lateDelivery fid) s = .next { s.modLane f.tid f.lid (fun l =>
      if l.exited = true ∨ 128 ≤ f.d then l else l.deliver f.d f.wide fid ⟨lo, hi, p, p && !f.clean⟩) with flights := Tab.del fid s.flights })
  ∧ (∀ sz v, ((∃ h, f.kind = .ld sz h) ∨ ∃ o, f.kind = .pld o sz) → f.stage = .got v → exec (.lateDelivery fid) s = .next { s.modLane f.tid f.lid (fun l =>
      if l.exited = true ∨ 128 ≤ f.d then l else l.deliver f.d f.wide fid (loadVal sz v.toNat)) with flights := Tab.del fid s.flights })
  ∧ (∀ sz h bytes, Reads s fid f (szBytes sz) → f.kind = .ld sz h → (h = .fresh ∨ s.l1Hit f.tags f.tid f.lid (eaVa f.ptr) = none) →
    leafVersioned f.leaf.toNat = false → bytes = Mem.read s.mem f.pa (szBytes sz) →
    (∃ u, readNow s fid = u ∧ u.bus = none ∧ u.mem = s.mem ∧ Tab.find fid u.flights = some { f with stage := .got (BitVec.ofNat 64 (leNat bytes)) }
      ∧ u = { s with flights := u.flights, teams := u.teams, cores := u.cores, clusters := u.clusters, leases := u.leases, ids := u.ids }
      ∧ (h ≠ .fresh → leafMode f.leaf.toNat = 0 → s.pairs = [] → ∃ c ∈ (u.core f.tags.core).l1, c.va = eaVa f.ptr / 128 ∧ c.pa = f.pa / 128 ∧ c.ctx = f.tags.ctx
          ∧ c.carbon = f.tags.carbon ∧ c.data = Mem.read s.mem (f.pa / 128 * 128) 128 ∧ s.now + f.lease ≤ c.exp ∧ c.exp ≤ Tab.get 0 (f.pa / 512) u.leases))
    ∧ (∀ l, s.lane f.tid f.lid = some l → l.exited = false → f.d < 128 → ∃ u m, exec (.lateDelivery fid) s = .next u ∧ u.mem = s.mem
        ∧ u.flights = Tab.del fid s.flights ∧ u.lane f.tid f.lid = some m ∧ m = { l.deliver f.d f.wide fid (loadVal sz (leNat bytes)) with seen := m.seen }
        ∧ (∀ q k, (q, k) ≠ (f.tid, f.lid) → u.lane q k = s.lane q k)))
  ∧ (∀ (lt : Nat × Task) (pa : Nat),
    ((∀ v ∈ s.seen lt (pa / 512), Mem.noted v.2.2.cells (pa % 512) = none) → s.viewByte (some lt) true pa = (Mem.get s.mem pa, none))
    ∧ (∀ v b, v ∈ s.seen lt (pa / 512) → Mem.noted v.2.2.cells (pa % 512) = some b →
      (∀ x ∈ s.seen lt (pa / 512), x ≠ v → Mem.noted x.2.2.cells (pa % 512) ≠ none → keyLt (x.1, x.2.1) (v.1, v.2.1) = true) →
      s.viewByte (some lt) true pa = (b, some v.2.1)))
  ∧ (∀ w v x, f.kind.isWrite = true → s.underWay f = true → s.stale f.tags = false → s.repoint f = .ok x → s.clear fid x = true → entryTagOk s x = true →
    performFlight s x = .ok (t, w, v) → t.bus = none → exec (.globalWritePerform fid) s = .next (match f.kind with
      | .rmw _ _ | .qpop => { raiseWct t f.tid f.lid w with
          flights := Tab.upd (fun x => { x with kind := .done v.hi v.lo false, stage := .ready }) fid t.flights }
      | _ => { raiseWct t f.tid f.lid w with flights := Tab.del fid t.flights }))
  ∧ (Performs s fid f → leafVersioned f.leaf.toNat = false →
    (∀ sz, f.kind = .st sz → f.pa % szBytes sz = 0 → Stored s f (szBytes sz) → ∃ u, exec (.globalWritePerform fid) s = .next u ∧ Wrote s u f (max s.now (s.leaseMax f.pa) + 1)
        [(f.pa, leBytes (szBytes sz) f.data.toNat)] ∧ u.flights = Tab.del fid s.flights)
    ∧ (∀ fn ty new, (f.kind = .rmw fn ty ∨ f.kind = .red fn ty) → f.pa % tyBytes ty = 0 → Stored s f (tyBytes ty) →
      new = leBytes (tyBytes ty) (atomicNew fn ty (Mem.num s.mem f.pa (tyBytes ty)) f.data.toNat) →
      ∃ u, exec (.globalWritePerform fid) s = .next u ∧ Wrote s u f (max s.now (s.leaseMax f.pa) + 1) [(f.pa, new)]
        ∧ (f.kind = .red fn ty → u.flights = Tab.del fid s.flights)
        ∧ (f.kind = .rmw fn ty → Tab.find fid u.flights = some { f with stage := .ready, kind := (if ty.is64 then
              FKind.done (BitVec.ofNat 32 (Mem.num s.mem f.pa 8 / 2 ^ 32)) (BitVec.ofNat 32 (Mem.num s.mem f.pa 8)) false
            else FKind.done 0 (BitVec.ofNat 32 (Mem.num s.mem f.pa 4)) false) }))
    ∧ (∀ hd n, f.pa % 4096 = 0 → Stored s f 4096 → hd = Mem.num s.mem f.pa 4 % 1008 → n = Mem.num s.mem (f.pa + 4) 4 →
      (f.kind = .qpush → n < 1008 → ∃ u w, exec (.globalWritePerform fid) s = .next u ∧ s.leaseMax f.pa < w ∧ s.leaseMax (f.pa + 64 + 4 * ((hd + n) % 1008)) < w ∧ s.now < w
        ∧ Wrote s u f w [(f.pa + 64 + 4 * ((hd + n) % 1008), leBytes 4 f.data.toNat), (f.pa + 4, leBytes 4 (n + 1))] ∧ u.flights = Tab.del fid s.flights)
      ∧ (f.kind = .qpush → 1008 ≤ n → ∃ u, exec (.globalWritePerform fid) s = .next u ∧ Wrote s u f (max s.now (s.leaseMax f.pa) + 1)
          [(f.pa + 8, leBytes 4 (Mem.num s.mem (f.pa + 8) 4 + 1))] ∧ u.flights = Tab.del fid s.flights)
      ∧ (f.kind = .qpop → 0 < n → ∃ u, exec (.globalWritePerform fid) s = .next u ∧ Wrote s u f (max s.now (s.leaseMax f.pa) + 1)
          [(f.pa, leBytes 4 ((hd + 1) % 1008)), (f.pa + 4, leBytes 4 (n - 1))]
          ∧ Tab.find fid u.flights = some { f with stage := .ready, kind := .done 0 (BitVec.ofNat 32 (Mem.num s.mem (f.pa + 64 + 4 * hd) 4)) false })
      ∧ (f.kind = .qpop → n = 0 → ∃ u, exec (.globalWritePerform fid) s = .next u ∧ Wrote s u f (max s.now (s.leaseMax f.pa) + 1) []
          ∧ Tab.find fid u.flights = some { f with stage := .ready, kind := .done 1 0 false })))
  ∧ (∀ sz l k v, Performs s fid f → leafVersioned f.leaf.toNat = true → f.kind = .st sz → f.pa % szBytes sz = 0 → Stored s f (szBytes sz) →
    s.liveTask f.tags = some (l, k) → struckBy s (some k.ctx) (some (l, k)) (f.pa / 512) = [] → s.versionOf k.ctx (f.pa / 512) (.task l) = some v →
    v.cells.Pairwise (fun a b => a.1 < b.1) → ∃ u x, exec (.globalWritePerform fid) s = .next u ∧ u.mem = s.mem ∧ u.versionOf k.ctx (f.pa / 512) (.task l) = some x
      ∧ (∀ j, j < szBytes sz → Mem.noted x.cells (f.pa % 512 + j) = some (nth 0 (leBytes (szBytes sz) f.data.toNat) j))
      ∧ (∀ o, (o < f.pa % 512 ∨ f.pa % 512 + szBytes sz ≤ o) → Mem.noted x.cells o = Mem.noted v.cells o))

/-- The other ends that no access waits for: leases, switches of banks, records (R150, R156, R187). -/
def Obligations.LeasesBanksAndRecords : Prop := ∀ (s : State), s.bus = none →
  (∀ core idx c, core < 128 → (s.core core).l1[idx]? = some c → c.exp ≤ s.now →
    exec (.leaseExpiry core idx) s = .next (s.modCore core (fun x => { x with l1 := x.l1.take idx ++ x.l1.drop (idx + 1) })))
  ∧ (∀ cl k since, ((s.cluster cl).bank k).sw = some since →
    ∃ t, exec (.bankSwitchComplete cl k) s = .next t ∧ (t.cluster cl).bank k = ⟨((s.cluster cl).bank k).mode, none⟩
      ∧ (∀ j, j ≠ k → (t.cluster cl).bank j = (s.cluster cl).bank j) ∧ t = { s with clusters := t.clusters })
  ∧ (∀ die p k u, firstWith (fun (q : Post) => q.die == die && !s.groupLost q && (placeRecs s die q.ctx q.recs).isSome) s.posts = some p →
    placeRecs { s with posts := s.posts.filter (fun q => q.qid != p.qid) } die p.ctx p.recs = some (k, u) → p.act = .none →
    exec (.deadLetterPost die) s = .next u)

/-- R228 to R231, R237, R242 and R244: a waiting act is served, a held courier write fills its register, spill mode begins and moves entries, and a deadlock
is a fault of its context. No watch slot is set. -/
def Obligations.ServiceOfActs : Prop := ∀ (s : State) (n : Nat) (a : PAct) (p q : Pigeon), s.bus = none → s.hits = [] → s.dbg = [] →
  (Tab.find n s.pacts = some a → s.pigeon a.scope a.owner a.num = some p →
    (∀ lo hi x, serveOf s n a p = .value q lo hi x → exec (.phActServed n) s = .next (serveValue (s.setPigeon q) n a lo hi x))
    ∧ (∀ c, serveOf s n a p = .grant q c → exec (.phActServed n) s = .next (serveValue (s.setPigeon q) n a (BitVec.ofNat 32 c) 0 false))
    ∧ (serveOf s n a p = .pass q → exec (.phActServed n) s = .next (servePass (s.setPigeon q) n a)))
  ∧ (∀ c, Tab.find n s.couriers = some c → s.isOpen c.tid c.lid c.reg = true →
    (∀ e ∈ s.couriers, ¬ (e.1 < n ∧ e.2.tid = c.tid ∧ e.2.lid = c.lid ∧ e.2.reg = c.reg)) →
    exec (.courierFill n) s = .next (match c.point with
      | some pt => arriveAt (({ s with couriers := Tab.del n s.couriers } : State).modLane c.tid c.lid (fun l => l.setReg c.reg c.v c.poison)) c.tid pt 1 false c.byTid c.byLid
      | none => ({ s with couriers := Tab.del n s.couriers } : State).modLane c.tid c.lid (fun l => l.setReg c.reg c.v c.poison)))
  ∧ (s.pigeon p.scope p.owner p.num = some p →
    (∀ e rest, s.waiting p PActKind.isPush = e :: rest → p.scope ≤ 1 → p.kind < 2 → p.spm = false → e.2.since + 4096 < s.cyc →
      exec (.spillModeEntry p.scope p.owner p.num) s = .next (s.setPigeon { p with spm := true }))
    ∧ (∀ x y rest, p.spm = true → p.spill = x :: y :: rest → 0 < p.room →
      exec (.spillMove p.scope p.owner p.num) s = .next (s.setPigeon { p with entries := p.entries ++ [x], spill := y :: rest }))
    ∧ (∀ x, p.spm = true → p.spill = [x] → 0 < p.room →
      exec (.spillMove p.scope p.owner p.num) s = .next (s.setPigeon { p with entries := p.entries ++ [x], spill := [], spm := false, chunks := 0 }))
    ∧ (p.spm = true → p.spill = [] → s.waiting p PActKind.isPush = [] →
      exec (.spillMove p.scope p.owner p.num) s = .next (s.setPigeon { p with spm := false, chunks := 0 })))
  ∧ (∀ ctx, 65536 ≤ (s.ctx ctx).stuck → stuckNow s ctx = true → (s.ctx ctx).st = .ready → (s.ctx ctx).fault = none →
    ∃ t k, exec (.deadlock ctx) s = .next t ∧ (t.ctx ctx).fault = some (4, k, s.now) ∧ t = { s with ctxs := t.ctxs, dlqs := t.dlqs })

/-- R329 to R332, R336, R337, R342, R347, R349 and R437: the events of tasks: a dependence ends, a commit, an entry is freed, a relaunch, a core's copy of the frontier, parked
lanes taken up, an abort for want of room. The bytes of a task are committed data from its commit on, and the fold frees its entry (assumption log 23). -/
def Obligations.EventsOfTasks : Prop := ∀ (s : State) (lseq ctx core : Nat) (k : Task), s.bus = none → s.task lseq = some k →
  (k.st = .held → k.deps.any s.holds = false →
    exec (.holdRelease lseq) s = .next ((s.modTask lseq (fun t => { t with st := .running })).modGrid lseq (fun g => { g with joined := s.now })))
  ∧ (∀ pm, s.frontier ctx = some (pm, lseq) → k.st = .finished → (s.ctx ctx).fault = none → (s.ctx ctx).commitCyc ≠ s.cyc + 1 →
    (k.acts = [] ∨ (commitTask s lseq k).bus = none) → exec (.taskCommit ctx) s = .next (commitTask s lseq k))
  ∧ (∀ pm v, s.frontier ctx = some (pm, lseq) → k.st = .finished → (s.ctx ctx).fault = none → (s.ctx ctx).commitCyc ≠ s.cyc + 1 → k.acts = [] →
    s.fab.wrote = [] → k.ctx = ctx → s.versions.filter (fun v => v.ctx == ctx && v.writer == .task lseq) = [v] → v.line / 128 < 2 ^ 48 → Mem.wf s.mem = true →
    v.cells.Pairwise (fun a b => a.1 < b.1) → ∃ t u, exec (.taskCommit ctx) s = .next t
      ∧ (∀ o b, Mem.noted v.cells o = some b → Mem.get t.mem (v.line * 512 + o) = b)
      ∧ (∀ a, (∀ o, a = v.line * 512 + o → Mem.noted v.cells o = none) → Mem.get t.mem a = Mem.get s.mem a)
      ∧ t.versions = s.versions.filter (fun v => !(v.ctx == ctx && v.writer == .task lseq)) ∧ t.task lseq = some u ∧ u.st = .committed ∧ s.now < u.cwct
      ∧ (v.cells ≠ [] → s.leaseMax (v.line * 512) < u.cwct) ∧ (∀ x, x ≠ lseq → ∀ q, t.task x = some q → Writer.task lseq ∉ q.edges))
  ∧ (k.st = .committed → exec (.versionFold lseq) s = .next { s with tasks := Tab.del lseq s.tasks })
  ∧ (k.st = .aborted → k.ends = true → exec (.taskRelaunch lseq) s = .next { s with tasks := Tab.del lseq s.tasks })
  ∧ (k.st = .aborted → k.ends = false → ∃ t u, exec (.taskRelaunch lseq) s = .next t ∧ t.task lseq = some u ∧ u.launch = k.launch + 1
      ∧ u.relaunch = (if k.uncounted then k.relaunch else k.relaunch + 1) ∧ u.holdm = !(k.guess && decide (u.relaunch < 8)) ∧ u.sig = [] ∧ u.edges = []
      ∧ u.sets = k.sets0 ∧ (u.st = .held ∨ u.st = .running) ∧ (u.st = .held ↔ u.holdm = true ∧ u.deps.any s.holds = true) ∧ (∀ g, s.grid lseq = some g → ∃ h, t.grid lseq = some h ∧ h.next = 0 ∧ h.ended = 0)
      ∧ t = { s with tasks := t.tasks, grids := t.grids })
  ∧ (∃ t, exec (.frontierUpdate core ctx) s = .next t ∧ t.frontCopy core ctx = s.frontier ctx
      ∧ (∀ c x, c ≠ core ∨ x ≠ ctx → t.frontCopy c x = s.frontCopy c x) ∧ t = { s with cores := t.cores })
  ∧ (∀ tid lid l, parkedLanes s lseq = [(tid, lid)] → s.lane tid lid = some l → l.exited = false → l.halted = none →
    (l.parked = some .act → exec (.parkTakeUp lseq) s = .next (fileFree (s.modLane tid lid (fun l => { l with parked := none })) tid lid))
    ∧ (∀ r, l.parked = some (.halt r) → exec (.parkTakeUp lseq) s = .next (haltLane (s.modLane tid lid (fun l => { l with parked := none })) tid lid r []))
    ∧ (∀ r, l.parked = some (.trap r) → exec (.parkTakeUp lseq) s =
        .next (deliverTrap (s.modLane tid lid (fun l => { l with parked := none })) tid lid { r with cause := r.cause ||| 0x4000 })))
  ∧ (∀ pm v, s.frontier ctx = some (pm, lseq) → s.waitsPlace lseq k = true →
    leastBy (fun (e : Nat × Task) => 2 ^ 112 - (e.2.postmark * 2 ^ 64 + e.1)) (s.tasks.filter (fun e => e.1 != lseq && e.2.ctx == ctx
      && e.2.st != .committed && e.2.st != .aborted && s.versions.any (fun v => v.ctx == ctx && v.spilled && v.writer == .task e.1))) = some v →
    (s.kvs = [] ∨ (abortTasks s [v.1] false).bus = none) →
    exec (.versionSpaceAbort ctx) s = .next ((abortTasks s [v.1] false).modTask v.1 (fun t => { t with uncounted := true })))

/-- R253, R254, R255 and R336: the dispatch engine takes the only record that it can take: the first of the out-tray, or the one at the head of a queue, which
becomes a grid under the next lseq, or is dropped and counted. The record has no configuration block and no declared sets. -/
def Obligations.TakingARecord : Prop := ∀ (s : State), s.bus = none → s.disp.lastTake ≠ s.cyc + 1 → s.grids.length < 4096 →
  (∀ r rest, s.disp.tray = r :: rest → (∀ x ∈ rest, x.lseq ≠ r.lseq) → s.ctxRuns r.ctx = true → (∀ k, k < 16 → s.sourceNext k = none) → (r.lrec.pm = true → s.tasks.length < 1024) →
    ∃ t, exec .recordTake s = .next t ∧ t.disp = { s.disp with tray := rest, lastSrc := 16, lastTake := s.cyc + 1 }
      ∧ t.grid r.lseq = some { ctx := r.ctx, lrec := r.lrec, depth := r.depth, posterTeam := r.posterTeam, posterGrid := r.posterGrid, held := r.held,
                               joined := s.now, config := r.config }
      ∧ (∀ l, l ≠ r.lseq → t.grid l = s.grid l ∧ t.task l = s.task l)
      ∧ (r.lrec.pm = false → t.tasks = s.tasks)
      ∧ (r.lrec.pm = true → ∃ u, t.task r.lseq = some u ∧ u.ctx = r.ctx ∧ u.postmark = r.lrec.postmark ∧ u.carbon = r.carbon ∧ u.sets = r.sets
          ∧ u.holdm = !(r.lrec.guess && decide (r.relaunch < 8)) ∧ (u.st = .held ∨ u.st = .running) ∧ (u.st = .held → u.holdm = true))
      ∧ t = { s with disp := t.disp, grids := t.grids, tasks := t.tasks })
  ∧ (∀ src q v, src < 16 → Tab.find src s.disp.queues = some q → (∀ k, k ≤ 16 → k ≠ src → s.sourceNext k = none) → q.en = true →
    q.head ≠ q.tail % 2 ^ q.logn → s.ctxRuns q.ctx = true → hasFrame (q.base.toNat + 128 * q.head) = true → hasFrame (q.base.toNat + 128 * q.head + 127) = true →
    v = Mem.num s.mem (q.base.toNat + 128 * q.head) 128 → (bit v 368 = true → s.tasks.length < 1024) →
    (∀ c, recCause v = some c → (parseRec v).config = 0 ∨ (parseRec v).config.toNat % 256 ≠ 0 → ∃ t, exec .recordTake s = .next t ∧ t.grids = s.grids ∧ t.disp.lseq = s.disp.lseq + 1
      ∧ Tab.find src t.disp.queues = some { q with head := (q.head + 1) % 2 ^ q.logn, drops := (q.drops + 1) % 2 ^ 32 }
      ∧ (∀ k, k ≠ src → Tab.find k t.disp.queues = Tab.find k s.disp.queues)
      ∧ t.dlqs = ((placeRecs s 0 q.ctx [recOf [(192, q.base.toNat + 128 * q.head), (40, c), (32, 6), (24, src), (16, q.ctx), (0, 0x40)]]).map
          (fun p => p.2.dlqs)).getD s.dlqs
      ∧ t = { s with disp := t.disp, dlqs := t.dlqs })
    ∧ (recCause v = none → (parseRec v).config = 0 → (parseRec v).sets = 0 → (parseRec v).pm = false → (parseRec v).carbon = 0 → (parseRec v).guess = false →
      ∃ t, exec .recordTake s = .next t ∧ t.disp.lseq = s.disp.lseq + 1
        ∧ t.grid s.disp.lseq = some { ctx := q.ctx, lrec := parseRec v, depth := 1, posterTeam := none, posterGrid := none, held := false, joined := s.now, config := [] }
        ∧ (∀ l, l ≠ s.disp.lseq → t.grid l = s.grid l)
        ∧ Tab.find src t.disp.queues = some { q with head := (q.head + 1) % 2 ^ q.logn } ∧ (∀ k, k ≠ src → Tab.find k t.disp.queues = Tab.find k s.disp.queues)
        ∧ t = { s with disp := t.disp, grids := t.grids }))

/-- The lanes of a team at its start (R21, R48, R67, R68, R77 and R262): by role and by index in the role, at ROLEPC, with every register and predicate 0, full
and without poison. -/
def Obligations.LanesAtTheStart : Prop := ∀ (s : State) (lseq tlin core : Nat) (g : Grid) (x : Placing),
  (freshTeam s lseq tlin g core x).lanes.length = 32 * (nth 0 g.lrec.lanes32 0 + nth 0 g.lrec.lanes32 1 + nth 0 g.lrec.lanes32 2 + nth 0 g.lrec.lanes32 3)
  ∧ (∀ n i, n < 4 → i < 32 * nth 0 g.lrec.lanes32 n →
      nth {} (freshTeam s lseq tlin g core x).lanes (32 * sumOf ((upFrom 0 n).map (fun m => nth 0 g.lrec.lanes32 m)) + i)
        = { role := n, rlid := i, h := BitVec.ofNat 56 (nth 0 g.lrec.rolePc n).toNat, regs := List.replicate (8 * nth 0 g.lrec.regs8 n) {}, preds := List.replicate 63 {} })
  ∧ (∀ k, nth 0 (freshTeam s lseq tlin g core x).scal k = 0) ∧ (freshTeam s lseq tlin g core x).pad = []

/-- R261, R262, R266 and R273: the first team of a partition's order starts, is noted as the one that no later team may pass, starts with the switch of its die's
operating point (100 microseconds after the last one, or where no resident team of the die is of the present class; else it does not begin), or resumes from its
image: with all that State holds of the team, of which the image's bytes are no part (assumption log 56). No team of the order is late but where the clause says
so. -/
def Obligations.StartsAndResumptions : Prop := ∀ (s : State) (p : Nat) (o : Ord) (rest : List Ord), s.bus = none → s.order p = o :: rest →
  Tab.find p s.disp.blocked = none → Tab.find p s.disp.chosen = none →
  (o.joined + 100000 ≤ s.now → exec (.startOrderBlock p) s = .next { s with disp := { s.disp with blocked := Tab.put p (o.lseq, o.tlin) s.disp.blocked } })
  ∧ (∀ g core x, o.saved = none → s.grid o.lseq = some g → (∀ q ∈ o :: rest, s.now < q.joined + 100000) → s.chooseCore p o.need false = some (core, x) →
    s.frontEnd (dieOf core) = true → ∃ t, exec (.teamStart p) s = .next t ∧ t.team s.ids = some (freshTeam s o.lseq o.tlin g core x)
      ∧ (∀ tid, tid ≠ s.ids → t.team tid = s.team tid) ∧ t.grid o.lseq = some { g with next := o.tlin + 1 } ∧ (∀ l, l ≠ o.lseq → t.grid l = s.grid l)
      ∧ t.pigeons = s.pigeons ++ teamHoles s.ids g.ctx (configHoles g.config) x.units
      ∧ t = { s with ids := s.ids + 1, teams := t.teams, grids := t.grids, pigeons := t.pigeons, disp := t.disp, cores := t.cores })
  ∧ (∀ g core x, o.saved = none → s.grid o.lseq = some g → o.need.lrec.opclass ≠ 0 → s.chooseCore p o.need false = none →
    s.chooseCore p o.need true = some (core, x) → (s.point (dieOf core)).sw = none → (s.point (dieOf core)).cls ≠ o.need.lrec.opclass →
    s.frontEnd (dieOf core) = true → core < 128 → s.disp.points.length = 2 →
    ((s.point (dieOf core)).since + 100000 ≤ s.now ∨ ∀ e ∈ s.teams, ∀ c k, e.2.place = some (c, k) → dieOf c = dieOf core →
      ∀ h, s.grid e.2.lseq = some h → h.lrec.opclass ≠ (s.point (dieOf core)).cls) →
    ∃ t, exec (.switchBegin p) s = .next t ∧ t.point (dieOf core) = { s.point (dieOf core) with sw := some (o.need.lrec.opclass, s.now) }
      ∧ t.team s.ids = some { freshTeam s o.lseq o.tlin g core x with heldPoint := true } ∧ (∀ tid, tid ≠ s.ids → t.team tid = s.team tid)
      ∧ t.grid o.lseq = some { g with next := o.tlin + 1 } ∧ t.cores = s.cores
      ∧ t = { s with ids := s.ids + 1, teams := t.teams, grids := t.grids, pigeons := t.pigeons, disp := t.disp })
  ∧ (∀ core x q e k h, s.chooseCore p o.need true = some (core, x) → s.now < (s.point (dieOf core)).since + 100000 → (q, e) ∈ s.teams → e.place = some (k, h) →
    dieOf k = dieOf core → (∃ g, s.grid e.lseq = some g ∧ g.lrec.opclass = (s.point (dieOf core)).cls) → exec (.switchBegin p) s = .next s)
  ∧ (∀ tid b g core x u n len num, o.saved = some tid → s.team tid = some b → s.grid b.lseq = some g → b.image = some (u, n, len, num) →
    imageGood s g.ctx u len = true → (∀ q ∈ o :: rest, s.now < q.joined + 100000) → s.chooseCore p o.need false = some (core, x) →
    s.frontEnd (dieOf core) = true → b.owed = [] → b.unhalt = none → (∀ f ∈ s.flights, f.2.tid ≠ tid) →
    ∃ t, exec (.teamResume p) s = .next t ∧ t.team tid = some { b with
          loc := .resident core x.slot, padAt := x.padAt, since := s.cyc, heldPoint := false
          image := none, acc := { b.acc with rowAt := x.rowAt, bAt := x.bAt }, lanes := b.lanes.map (Lane.moved t.ids) }
      ∧ (∀ q, q ≠ tid → t.team q = s.team q) ∧ (∀ c ∈ t.cmds, c.2.tid = tid → c.2.tags.core = core)
      ∧ t.flights = s.flights ∧ t.mem = s.mem ∧ t.grids = s.grids
      ∧ t = { s with ids := t.ids, teams := t.teams, cmds := t.cmds, pigeons := t.pigeons, disp := t.disp, cores := t.cores })

/-- R265, R266, R267, R270, R271, R272 and R274: the shares of the pair are computed again, a switch ends, a save begins and completes, a budget runs out. The
bytes of an image but its digest are free values (assumption log 56). -/
def Obligations.SharesPointsAndSaves : Prop := ∀ (s : State), s.bus = none →
  (s.disp.shareTick < s.now / 10000 → s.disp.ptable.pairen = true → s.disp.ptable.draft ≠ s.disp.ptable.target → s.disp.ptable.draft < 4 →
    s.disp.ptable.target < 4 → s.disp.ptable.shares.length = 4 → ∃ t d, exec .shareRecompute s = .next t
      ∧ d = max s.disp.ptable.smin (min s.disp.ptable.smax (s.disp.ptable.smin + ((s.disp.ptable.smax - s.disp.ptable.smin) * s.disp.ptable.ewma + 32768) / 65536))
      ∧ nth 0 t.disp.ptable.shares s.disp.ptable.draft = d ∧ nth 0 t.disp.ptable.shares s.disp.ptable.target = s.disp.ptable.pairtot - d
      ∧ (∀ k, k ≠ s.disp.ptable.draft → k ≠ s.disp.ptable.target → nth 0 t.disp.ptable.shares k = nth 0 s.disp.ptable.shares k)
      ∧ t = { s with disp := { s.disp with shareTick := s.now / 10000, ptable := { s.disp.ptable with shares := t.disp.ptable.shares } } })
  ∧ (∀ die k since, die < 2 → s.disp.points.length = 2 → (s.point die).sw = some (k, since) → Tab.find die s.disp.classReq = none →
    (∀ e ∈ s.teams, e.2.heldPoint = false) →
    ∃ t, exec (.switchComplete die) s = .next t ∧ t.point die = { cls := k, since := s.now, sw := none } ∧ t.point (1 - die) = s.point (1 - die)
      ∧ t = { s with disp := { s.disp with points := t.disp.points } })
  ∧ (∀ p tid t0 core k u n len, preemptChoice s p = some [tid] → s.team tid = some t0 → t0.loc = .resident core k → t0.returned = 0 →
    imagePlace s tid t0 = some (u, n, len) → (∀ c ∈ s.cmds, c.2.tid ≠ tid) → t0.batonMove = none →
    ∃ t, exec (.preemption p) s = .next t ∧ t.team tid = some { t0 with
          loc := .saving core k, image := some (u, n, len, s.ids), partner := none, holder := false
          traps := t0.traps.map (fun p => { p with waits := false }), lanes := t0.lanes.map Lane.stopWaiting, owed := (s.pacts.filter (fun e => e.2.tid == tid)).filter (fun e => !e.2.kind.atWord) }
      ∧ (∀ q, q ≠ tid → t.team q = (s.team q).map (fun x => if x.partner = some tid then { x with partner := none, holder := false, batonMove := none } else x)) ∧ t.pacts = s.pacts.filter (fun e => e.2.tid != tid)
      ∧ t = { s with ids := s.ids + 1, teams := t.teams, pacts := t.pacts, cores := t.cores })
  ∧ (∀ tid t0 core k u n len num, s.team tid = some t0 → t0.loc = .saving core k → t0.image = some (u, n, len, num) → t0.returned = 0 →
    (∀ f ∈ s.flights, f.2.tid = tid → f.2.savable = true) → (∀ c ∈ s.cmds, c.2.tid = tid → c.2.late = []) → hasFrame ((s.ctx (s.ctxOf t0)).saveBase + 65536 * u) = true →
    hasFrame ((s.ctx (s.ctxOf t0)).saveBase + 65536 * u + len - 1) = true → 64 ≤ len → Mem.wf s.mem = true →
    ∃ t u', exec (.saveComplete tid) s = .next t ∧ t.team tid = some u' ∧ u'.loc = .saved ∧ u'.lanes = t0.lanes ∧ u'.scal = t0.scal ∧ u'.pad = t0.pad
      ∧ u'.acc = t0.acc ∧ u'.trees = t0.trees ∧ u'.budBase = t0.budBase + (s.cyc - t0.since) ∧ u'.image = t0.image
      ∧ (∀ f ∈ t.flights, f.2.tid = tid → f.2.stage = .owed)
      ∧ (∀ a, a < (s.ctx (s.ctxOf t0)).saveBase + 65536 * u ∨ (s.ctx (s.ctxOf t0)).saveBase + 65536 * u + len ≤ a → Mem.get t.mem a = Mem.get s.mem a)
      ∧ leNat (Mem.read t.mem ((s.ctx (s.ctxOf t0)).saveBase + 65536 * u + (len - 64)) 64)
          = (shake256 (Mem.read t.mem ((s.ctx (s.ctxOf t0)).saveBase + 65536 * u) (len - 64))).toNat
      ∧ t.grids = s.grids ∧ t.ctxs = s.ctxs)
  ∧ (∀ tid t0 g core k, s.team tid = some t0 → s.grid t0.lseq = some g → t0.loc = .resident core k → g.lrec.budget ≠ 0 →
    g.lrec.budget ≤ t0.budBase + (s.cyc - t0.since) → t0.returned = 0 → t0.batonMove = none → (∀ l ∈ t0.lanes, l.stepping = none) →
    ∃ t, exec (.budgetOverrun tid) s = .next t ∧ t.team tid = some { t0 with
          returned := 1, traps := []
          lanes := t0.lanes.map (fun l => { l with exited := true, wait := none, parked := none }) }
      ∧ (∀ q, q ≠ tid → t.team q = s.team q) ∧ t.pacts = s.pacts.filter (fun e => e.2.tid != tid)
      ∧ t = { s with teams := t.teams, pacts := t.pacts, cores := t.cores })

/-- R263, R268, R269 and R331: a team ends, and its status entry is stored first where its grid has a budget and a signal; a grid retires, and its signal is
stored. -/
def Obligations.EndsOfTeamsAndGrids : Prop := ∀ (s : State) (tid lseq : Nat) (t0 : Team) (g : Grid), s.bus = none →
  (s.team tid = some t0 → s.grid t0.lseq = some g → (s.ctx g.ctx).fault = none → t0.loc ≠ .saved → t0.lanes.all Lane.exited = true → (∀ c ∈ s.cmds, c.2.tid ≠ tid) →
    s.task t0.lseq = none → Tab.sorted s.teams = true → (∀ l ∈ t0.lanes, l.stepping = none) → (∀ e ∈ s.teams, e.2.partner = none) → t0.batonMove = none →
    (g.lrec.budget = 0 ∨ g.lrec.sigAddr = 0 → ∃ t, exec (.teamEnd tid) s = .next t ∧ t.team tid = none ∧ (∀ q, q ≠ tid → t.team q = s.team q)
      ∧ t.grid t0.lseq = some { g with ended := g.ended + 1, returned := g.returned + (if t0.returned = 0 then 0 else 1) }
      ∧ (∀ l, l ≠ t0.lseq → t.grid l = s.grid l) ∧ t.mem = s.mem
      ∧ t.pigeons = s.pigeons.filter (fun p => !(p.scope == 0 && p.owner == tid)) ∧ t.couriers = s.couriers.filter (fun e => e.2.tid != tid)
      ∧ t = { s with teams := t.teams, grids := t.grids, pigeons := t.pigeons, couriers := t.couriers, pacts := t.pacts, cores := t.cores })
    ∧ (∀ ptr w v, g.lrec.budget ≠ 0 → g.lrec.sigAddr ≠ 0 →
      ptr = fld g.lrec.sigAddr.toNat 56 8 * 2 ^ 56 + (fld g.lrec.sigAddr.toNat 0 56 + 4 + 4 * t0.tlin) % 2 ^ 56 →
      gridStore s t0.lseq g ptr (statusEntry t0) = (.ok w, v) → v.bus = none → v.teams = s.teams → v.grids = s.grids →
      ∃ t, exec (.teamEnd tid) s = .next t ∧ t.team tid = none ∧ t.mem = v.mem
        ∧ t.grid t0.lseq = some { g with ended := g.ended + 1, returned := g.returned + (if t0.returned = 0 then 0 else 1), statWct := max g.statWct w }))
  ∧ (s.grid lseq = some g → (s.ctx g.ctx).fault = none → Tab.sorted s.grids = true → g.lrec.teams ≤ g.next → (∀ e ∈ s.teams, e.2.lseq ≠ lseq) → (∀ e ∈ s.grids, e.2.posterGrid ≠ some lseq) →
    (∀ r ∈ s.disp.tray, r.posterGrid ≠ some lseq) → s.task lseq = none → (∀ e ∈ s.fab.outs, e.2.owner ≠ .fold lseq) →
    (g.lrec.sigAddr = 0 → ∃ t, exec (.gridRetire lseq) s = .next t ∧ t.grid lseq = none ∧ (∀ l, l ≠ lseq → t.grid l = s.grid l)
      ∧ t = { s with grids := t.grids, cmds := t.cmds })
    ∧ (∀ w v, g.lrec.sigAddr ≠ 0 → g.lrec.budget = 0 → g.shredded = false → gridStore s lseq g g.lrec.sigAddr.toNat g.lrec.sigVal = (.ok w, v) → v.bus = none →
      v.grids = s.grids → v.cmds = s.cmds → ∃ t, exec (.gridRetire lseq) s = .next t ∧ t.grid lseq = none ∧ t.mem = v.mem
      ∧ (∀ cid c g' d a b, s.cmd cid = some c → c.instr = .cwait g' false d a b → c.st = .run → c.step = 1 → c.vals = [lseq] →
          t.cmd cid = some { c with wct := max c.wct (max w g.statWct), st := .ended (statusWord 0 6 (2 ^ 23 + g.returned % 2 ^ 23)) false })))

/-- R178 to R180, R185 and R188: the firmware serves one page at a time: it refuses one that no range backs, keeps one that is mapped, maps one whose nodes are
there in a free frame of its pool, whose bytes are 0 if nothing was saved of the page; it ends the eviction of a page that no access is open to, whose
contents it saves; and at the end what waited for the page goes on. Which free frame is taken is the model's choice (assumption log 94). -/
def Obligations.FrameServiceOfAPage : Prop := ∀ (s : State) (ctx page : Nat) (v : Svc), s.bus = none →
  (s.sys.stopped = false → s.svc ctx page = some v → v.served = none →
    (∀ x ∈ s.svcs, (x.ctx ≠ ctx ∨ x.page ≠ page) → x.victim = none ∧ x.served = none) →
    (v.victim = none →
      ((s.ctx ctx).attrOf page = none → exec (.frameService ctx page) s = .next { s with
          svcs := s.svcs.map (fun w => if w.ctx == ctx && w.page == page && w.served.isNone then { w with served := some false } else w) })
      ∧ (∀ attr at_, (s.ctx ctx).attrOf page = some attr → entryAt s ctx page = some at_ →
        (leafValid (Mem.num s.mem at_ 8) = true → exec (.frameService ctx page) s = .next { s with
          svcs := s.svcs.map (fun w => if w.ctx == ctx && w.page == page && w.served.isNone then { w with served := some true } else w) })
        ∧ (∀ f, leafValid (Mem.num s.mem at_ 8) = false → bothDies v.die (s.ctx ctx).freeFrame = some f → hasFrame at_ = true → hasFrame (at_ + 7) = true →
          Mem.wf s.mem = true → (at_ + 8 ≤ f * 65536 ∨ (f + 1) * 65536 ≤ at_) → f < 2 ^ 36 →
          ∃ t, exec (.frameService ctx page) s = .next t ∧ Mem.num t.mem at_ 8 = f * 65536 + 2 ^ 10 + attr * 2 + 1 ∧ f ∈ (t.ctx ctx).used
            ∧ ((∀ b ∈ s.backing, ¬ (b.ctx = ctx ∧ b.page = page)) → ∀ a, f * 65536 ≤ a → a < (f + 1) * 65536 → Mem.get t.mem a = 0)
            ∧ ((∀ b ∈ s.backing, ¬ (b.ctx = ctx ∧ b.page = page)) →
                ∀ a, (a < at_ ∨ at_ + 8 ≤ a) → (a < f * 65536 ∨ (f + 1) * 65536 ≤ a) → Mem.get t.mem a = Mem.get s.mem a))))
    ∧ (∀ x at_, v.victim = some x → (s.openTo ctx (fun p => p == x) = true → exec (.frameService ctx page) s = .next s)
      ∧ (s.openTo ctx (fun p => p == x) = false → entryAt s ctx x = some at_ → Mem.wf s.mem = true → ∃ t, exec (.frameService ctx page) s = .next t
        ∧ (∀ a, leafFrame (Mem.num s.mem at_ 8) * 65536 ≤ a → a < (leafFrame (Mem.num s.mem at_ 8) + 1) * 65536 → Mem.get t.mem a = 0)
        ∧ (∀ a, (a < leafFrame (Mem.num s.mem at_ 8) * 65536 ∨ (leafFrame (Mem.num s.mem at_ 8) + 1) * 65536 ≤ a) → Mem.get t.mem a = Mem.get s.mem a)
        ∧ (∃ b ∈ t.backing, b.ctx = ctx ∧ b.page = x ∧ ∀ k, k < 65536 → Mem.get b.cells k = Mem.get s.mem (leafFrame (Mem.num s.mem at_ 8) * 65536 + k))
        ∧ (∀ c, ∀ y ∈ (t.cluster c).tlb, y.big = false → ¬ (y.ctx = ctx ∧ y.page = x))
        ∧ (∀ c, ∀ y ∈ (t.core c).l1, ¬ (y.ctx = ctx ∧ y.va / 512 = x)) ∧ (∀ c, ∀ y ∈ (t.cluster c).cache, ¬ (y.ctx = ctx ∧ y.va / 512 = x))
        ∧ leafFrame (Mem.num s.mem at_ 8) ∉ (t.ctx ctx).used)))
  ∧ (∀ ok, firstWith (fun w => w.ctx == ctx && w.page == page && w.served.isSome) s.svcs = some v → v.served = some ok →
    (∀ f ∈ s.flights, ¬ (f.2.tags.ctx = ctx ∧ f.2.stage = .page page)) →
    (∀ e ∈ s.teams, s.ctxOf e.2 = ctx → ∀ l ∈ e.2.lanes, l.wait ≠ some (.page page) ∧ l.wait ≠ some (.fetch page)) →
    ∃ t, exec (.serviceEnd ctx page) s = .next t ∧ t.svcs = s.svcs.filter (fun w => !(w.ctx == ctx && w.page == page && w.served.isSome))
      ∧ t.cmds = s.cmds.map (fun e => if e.2.tags.ctx = ctx ∧ e.2.page = some page then
          (e.1, { e.2 with page := none, refused := if ok then none else some page }) else e)
      ∧ t = { s with svcs := t.svcs, cmds := t.cmds, grids := t.grids, disp := t.disp, fab := t.fab, dlqs := t.dlqs, posts := t.posts })
  ∧ (∀ ok tid t0 l, firstWith (fun w => w.ctx == ctx && w.page == page && w.served.isSome) s.svcs = some v → v.served = some ok →
    (∀ f ∈ s.flights, ¬ (f.2.tags.ctx = ctx ∧ f.2.stage = .page page)) → s.teams = [(tid, t0)] → s.ctxOf t0 = ctx → t0.lanes = [l] →
    (l.wait = some (.page page) ∨ l.wait = some (.fetch page)) →
    ∃ t, exec (.serviceEnd ctx page) s = .next t
      ∧ t.lane tid 0 = some { l with wait := none, refused := if ok then none else some page })

/-- R174, R451 to R456: masters attach, claim, offer and take the ownership; of claims of one cycle that of the lowest master counts; a message of a master
that may not write, or of a wrong shape, is answered and changes nothing else. -/
def Obligations.MastersAndOwnership : Prop := ∀ (s : State) (m nm : Nat), s.bus = none →
  (m < 4 → ∃ t, exec (.masterAttach m) s = .next t ∧ m ∈ t.sys.attached ∧ (∀ n, n ≠ m → (n ∈ t.sys.attached ↔ n ∈ s.sys.attached))
    ∧ t = { s with sys := { s.sys with attached := t.sys.attached } })
  ∧ (m ∈ s.sys.attached → (∀ e ∈ s.dbg, ¬ (e.2.rights = true ∧ e.2.holder = m)) → ∃ t, exec (.masterDetach m) s = .next t
    ∧ t.sys.owner = (if s.sys.owner = some m then none else s.sys.owner)
    ∧ t.sys.offer = (if s.sys.offer = some m ∨ s.sys.owner = some m then none else s.sys.offer)
    ∧ t.sys.attached = s.sys.attached.filter (· != m)
    ∧ t = { s with sys := { s.sys with attached := t.sys.attached, owner := t.sys.owner, offer := t.sys.offer } })
  ∧ (s.hears m = true →
    (s.sys.owner = none → exec (.claim m) s = .next (reply { s with sys := { s.sys with owner := some m, claimed := some (s.cyc, s.sys.tag) } } m 0 []))
    ∧ (s.sys.owner ≠ none → (∀ o c tag, s.sys.owner = some o → s.sys.claimed = some (c, tag) → c = s.cyc → o ≤ m) → exec (.claim m) s = .next (reply s m 1 []))
    ∧ (∀ o tag, s.sys.owner = some o → s.sys.claimed = some (s.cyc, tag) → m < o → s.answers = [(o, ctlMessage 0x81 0 tag [])] →
        exec (.claim m) s = .next { s with
          sys := { s.sys with owner := some m, claimed := some (s.cyc, s.sys.tag) }
          answers := [(o, ctlMessage 0x81 1 tag []), (m, ctlMessage 0x81 0 s.sys.tag [])] })
    ∧ (s.sys.owner ≠ some m → exec (.handover m nm) s = .next (reply s m 1 []))
    ∧ (s.sys.owner = some m → nm ∈ s.sys.attached → nm ≠ m → exec (.handover m nm) s = .next (reply { s with sys := { s.sys with offer := some nm } } m 0 []))
    ∧ (s.sys.owner = some m → (nm ∉ s.sys.attached ∨ nm = m) → exec (.handover m nm) s = .next (reply s m 2 []))
    ∧ (s.sys.offer = some m → exec (.take m) s = .next (reply { s with sys := { s.sys with owner := some m, offer := none } } m 0 []))
    ∧ (s.sys.offer ≠ some m → exec (.take m) s = .next (reply s m 1 []))
    ∧ (∀ addr len, addr % 8 = 0 → len % 8 = 0 → 8 ≤ len → len ≤ 256 → addr + len ≤ 0x3000 →
        exec (.read m 0 addr len) s = .next (reply s m 0 ((upFrom 0 (len / 8)).flatMap (fun k => leBytes 8 (regWord s (addr + 8 * k))))))
    ∧ (∀ addr len, 0 < len → addr % 4096 + len ≤ 4096 → hasMem addr = true → hasMem (addr + len - 1) = true →
        exec (.read m 1 addr len) s = .next (reply s m 0 (Mem.read s.mem addr len)))
    ∧ (∀ addr bytes, s.sys.owner = some m → bytes ≠ [] → addr % 4096 + bytes.length ≤ 4096 → hasMem addr = true → hasMem (addr + bytes.length - 1) = true →
        s.tasks = [] → ∃ t w, exec (.write m addr bytes) s = .next t ∧ t.mem = Mem.write s.mem addr bytes ∧ s.now < w ∧ w ≤ Tab.get 0 m t.sys.memWct
          ∧ t = reply { s with mem := t.mem, sys := { s.sys with memWct := t.sys.memWct } } m 0 [])
    ∧ (∀ addr bytes, s.sys.owner ≠ some m → exec (.write m addr bytes) s = .next (reply s m 1 []))
    ∧ (∀ space addr len, 1 < space → exec (.read m space addr len) s = .next (reply s m 2 [])))

/-- R174, R252, R253, R256, R266, R281, R444, R446, R454, R456 to R458, R462, R463 and R465: register writes of the owner, each word alone, after its memory writes
have passed their WCT; a word that may not be written is answered RANGE before anything else. The events SHOOTDOWN and BOOTGO are whole; as messages they begin
what ends later (assumption logs 66 and 97). -/
def Obligations.RegisterWritesOfTheOwner : Prop := ∀ (s : State) (m : Nat), s.bus = none → s.hears m = true → s.sys.owner = some m → Tab.get 0 m s.sys.memWct < s.now →
  (∀ v : DWord, exec (.registerWrite m 0x10 [v]) s = .next (reply { s with sys := { s.sys with ctxtab := fld v.toNat 13 39 * 2 ^ 13 } } m 0 []))
  ∧ (∀ v : DWord, exec (.registerWrite m 0x18 [v]) s = .next (reply { s with sys := { s.sys with epidA := fld v.toNat 0 10, epidB := fld v.toNat 16 10 } } m 0 []))
  ∧ (∀ q v, q < 16 → 4 ≤ fld v.toNat 0 4 → fld v.toNat 0 4 ≤ 12 →
    ((s.queue q).en = true → exec (.sqctlWrite m q v) s = .next (reply (s.setQueue q { s.queue q with en := bit v.toNat 31 }) m 0 []))
    ∧ ((s.queue q).en = false → bit v.toNat 31 = true → exec (.sqctlWrite m q v) s = .next (reply (s.setQueue q { s.queue q with
          ctx := fld v.toNat 16 6, logn := fld v.toNat 0 4, en := true, head := 0, tail := 0, drops := 0 }) m 0 []))
    ∧ ((s.queue q).en = false → bit v.toNat 31 = false → exec (.sqctlWrite m q v) s = .next (reply (s.setQueue q { s.queue q with
          ctx := fld v.toNat 16 6, logn := fld v.toNat 0 4 }) m 0 [])))
  ∧ (∀ q v, q < 16 → (fld v.toNat 0 4 < 4 ∨ 12 < fld v.toNat 0 4) → exec (.sqctlWrite m q v) s = .next (reply s m 2 []))
  ∧ (∀ q v, q < 16 → exec (.sqtailDoorbell m q v) s = .next (reply (s.setQueue q { s.queue q with tail := fld v.toNat 0 12 }) m 0 []))
  ∧ (∀ a b : DWord, ((parseTable (a.toNat + b.toNat * 2 ^ 64)).valid = true → exec (.partitionTableWrite m 0x100 [a, b]) s =
        .next (reply { s with disp := { s.disp with ptable := parseTable (a.toNat + b.toNat * 2 ^ 64) } } m 0 []))
    ∧ ((parseTable (a.toNat + b.toNat * 2 ^ 64)).valid = false → exec (.partitionTableWrite m 0x100 [a, b]) s =
        .next (reply (logEvent s 3 0 0 0 0 s.now) m 4 [])))
  ∧ (∀ v : DWord, (s.sys.featDone = false → s.sys.bstate = 1 → (∀ c ∈ s.ctxs, c.2.st = .free) →
        exec (.feataccWrite m 0x80 [v]) s = .next (reply { s with sys := { s.sys with featDone := true, featAcc := v.toNat % 8 } } m 0 []))
    ∧ (s.sys.featDone = true ∨ s.sys.bstate ≠ 1 → exec (.feataccWrite m 0x80 [v]) s = .next (reply s m 3 [])))
  ∧ (∀ v : DWord, ∃ t : State, exec (.classWrite m v) s = .next (reply { s with disp := t.disp } m 0 [])
    ∧ (∀ die k, die < 2 → s.disp.points.length = 2 → k = fld v.toNat (4 * die) 3 →
        ((s.point die).sw = none → t.point die = if k = 0 ∨ k = (s.point die).cls then s.point die else { s.point die with sw := some (k, s.now) })
        ∧ ((s.point die).sw ≠ none → t.point die = s.point die ∧ (k ≠ 0 → k ≠ (s.point die).cls → (die, k) ∈ t.disp.classReq))))
  ∧ (∀ v : DWord, 7 ≤ fld v.toNat 20 5 → fld v.toNat 20 5 ≤ 20 →
    (s.trace.en = true → exec (.pbctlWrite m v) s = .next (reply { s with trace := { s.trace with en := bit v.toNat 31 } } m 0 []))
    ∧ (s.trace.en = false → bit v.toNat 31 = true → exec (.pbctlWrite m v) s = .next (reply { s with trace := { s.trace with
          logn := fld v.toNat 20 5, kinds := fld v.toNat 1 6 * 2, en := true, put := 0, get := 0, drops := 0, delay := 0 } } m 0 [])))
  ∧ (∀ v : DWord, exec (.pbgetWrite m v) s = .next (reply { s with trace := { s.trace with get := fld v.toNat 0 20 } } m 0 []))
  ∧ (∀ v : DWord, s.sys.bstate = 0 → s.sys.bootRun = none →
    (bit v.toNat 0 = false → exec (.bootgo m v) s = .next (reply s m 0 []))
    ∧ (bit v.toNat 0 = true → exec (.registerWrite m 0xC0 [v]) s = .next (reply { s with sys := { s.sys with bootRun := some 0 } } m 0 []))
    ∧ (bit v.toNat 0 = true →
      ∃ t : State, exec (.bootgo m v) s = .next (reply { s with sys := { s.sys with bstate := t.sys.bstate, m := t.sys.m } } m 0 [])
        ∧ (imageChecks s 0 = true → imageChecks s 1 = true → t.sys.bstate = 1 ∧ t.sys.m = (measure (measure s 0) 1).sys.m)
        ∧ (imageChecks s 0 = true → imageChecks s 1 = false → t.sys.bstate = 2 ∧ t.sys.m = (measure s 0).sys.m)
        ∧ (imageChecks s 0 = false → t.sys.bstate = 2 ∧ t.sys.m = s.sys.m)))
  ∧ (∀ v : DWord, (s.sys.bstate ≠ 0 ∨ s.sys.bootRun ≠ none) → exec (.registerWrite m 0xC0 [v]) s = .next (reply s m 3 []))
  ∧ (∀ v : DWord, s.sys.bstate ≠ 0 → s.sys.bootRun = none → exec (.bootgo m v) s = .next (reply s m 3 []))
  ∧ (∀ v : DWord, bit v.toNat 31 = true → s.sys.shootGo = none → s.openOn (fld v.toNat 16 6) s.sys.shootVa (fld v.toNat 0 13) = true → exec (.shootdown m v) s = .next s)
  ∧ (∀ v : DWord, bit v.toNat 31 = true → s.sys.shootGo ≠ none → exec (.shootdown m v) s = .next (reply s m 3 []))
  ∧ (∀ v : DWord, bit v.toNat 31 = true → s.sys.shootGo = none → 1 ≤ fld v.toNat 0 13 → fld v.toNat 0 13 ≤ 4096 →
    exec (.registerWrite m 0x48 [v]) s = .next (reply { s with sys := { s.sys with
      shootCtx := fld v.toNat 16 6, shootPages := fld v.toNat 0 13, shootGo := some (fld v.toNat 16 6, s.sys.shootVa, fld v.toNat 0 13) } } m 0 []))
  ∧ (∀ v : DWord, s.openOn (fld v.toNat 16 6) s.sys.shootVa (fld v.toNat 0 13) = false → s.sys.shootGo = none → 1 ≤ fld v.toNat 0 13 → fld v.toNat 0 13 ≤ 4096 →
    bit v.toNat 31 = true →
    ∃ t, exec (.shootdown m v) s = .next (reply t m 0 [])
      ∧ (∀ c, ∀ x ∈ (t.core c).l1, ¬ (x.ctx = fld v.toNat 16 6 ∧ s.sys.shootVa ≤ x.va / 512 ∧ x.va / 512 < s.sys.shootVa + fld v.toNat 0 13))
      ∧ (∀ c, ∀ x ∈ (t.cluster c).tlb, x.big = false → ¬ (x.ctx = fld v.toNat 16 6 ∧ s.sys.shootVa ≤ x.page ∧ x.page < s.sys.shootVa + fld v.toNat 0 13))
      ∧ t = { s with cores := t.cores, clusters := t.clusters, sys := { s.sys with shootCtx := fld v.toNat 16 6, shootPages := fld v.toNat 0 13 } })
  ∧ (∀ off v, off % 8 = 0 → off + 8 ≤ 0x3000 → writable off = false → exec (.registerWrite m off [v]) s = .next (reply s m 2 []))

/-- R458 to R461, R456 and R284: operations on contexts, and the teardown after a context fault. What a destruction removes
beside the context's objects follows assumption log 67. -/
def Obligations.ContextsOfTheOwner : Prop := ∀ (s : State) (m ctx : Nat), s.bus = none → s.hears m = true → s.sys.owner = some m →
  Tab.get 0 m s.sys.memWct < s.now → ctx < 64 →
  (s.sys.bstate ≠ 1 ∨ s.sys.op ≠ none → ∀ e ∈ [Instr.create m ctx, .kill m ctx, .restart m ctx], exec e s = .next (reply s m 3 []))
  ∧ ((s.sys.bstate ≠ 1 ∨ (s.sys.op ≠ none ∧ s.sys.op ≠ some (ctx, false))) → exec (.destroy m ctx) s = .next (reply s m 3 []))
  ∧ (s.sys.bstate = 1 → s.sys.op = some (ctx, false) →
      exec (.destroy m ctx) s = .next (reply { s with sys := { s.sys with opCtx := ctx, op := some (ctx, true) } } m 0 []))
  ∧ (s.sys.bstate = 1 → s.sys.op = none →
    ((s.ctx ctx).st ≠ .free → exec (.create m ctx) s = .next (reply s m 2 []))
    ∧ ((s.ctx ctx).st = .free → (touchContext { s with sys := { s.sys with opCtx := ctx } } ctx).bus = none →
      ∃ t, exec (.create m ctx) s = .next (reply t m 0 []) ∧ (t.ctx ctx).st = .ready ∧ (t.ctx ctx).desc = s.descOf ctx ∧ (t.ctx ctx).fault = none
        ∧ (∀ c, c ≠ ctx → t.ctx c = s.ctx c) ∧ t = { s with ctxs := t.ctxs, dbg := t.dbg, sys := { s.sys with opCtx := ctx } })
    ∧ ((s.ctx ctx).st ≠ .faulted → exec (.restart m ctx) s = .next (reply s m 2 []))
    ∧ ((s.ctx ctx).st = .faulted → (touchContext { s with sys := { s.sys with opCtx := ctx } } ctx).bus = none →
      ∃ t, exec (.restart m ctx) s = .next (reply t m 0 []) ∧ (t.ctx ctx).st = .ready ∧ (t.ctx ctx).desc = s.descOf ctx
        ∧ (∀ c, c ≠ ctx → t.ctx c = s.ctx c) ∧ t = { s with ctxs := t.ctxs, sys := { s.sys with opCtx := ctx } })
    ∧ ((s.ctx ctx).st ≠ .ready → exec (.kill m ctx) s = .next (reply s m 2 []))
    ∧ ((s.ctx ctx).st = .ready → (s.ctx ctx).fault = none → ∃ t, exec (.kill m ctx) s = .next (reply t m 0 []) ∧ (t.ctx ctx).fault = some (6, 0, s.now)
        ∧ t.sys.op = some (ctx, false) ∧ (∀ c, c ≠ ctx → t.ctx c = s.ctx c)
        ∧ t = { s with ctxs := t.ctxs, sys := { s.sys with opCtx := ctx, op := some (ctx, false) } })
    ∧ ((s.ctx ctx).fault = none → Tab.sorted s.ctxs = true → (∀ v ∈ s.svcs, v.ctx = ctx → v.victim = none) → ∃ t, exec (.destroy m ctx) s = .next (reply t m 0 []) ∧ (t.ctx ctx).st = .free
        ∧ (∀ c, c ≠ ctx → t.ctx c = s.ctx c) ∧ (∀ g ∈ t.grids, g.2.ctx ≠ ctx) ∧ (∀ p ∈ t.pigeons, p.ctx ≠ ctx) ∧ (∀ p ∈ t.pairs, p.ctx ≠ ctx)
        ∧ (∀ v ∈ t.versions, v.ctx ≠ ctx) ∧ (∀ k ∈ t.tasks, k.2.ctx ≠ ctx) ∧ (∀ q, (t.queue q).ctx = ctx → (t.queue q).en = false)
        ∧ (∀ c, ∀ x ∈ (t.cluster c).tlb, x.ctx ≠ ctx) ∧ t.mem = s.mem))
  ∧ (∀ kind detail at_, (s.ctx ctx).fault = some (kind, detail, at_) → s.sys.op = none → (∀ v ∈ s.svcs, v.ctx = ctx → v.victim = none) → ∃ t, exec (.contextFault ctx) s = .next t
    ∧ (t.ctx ctx).st = .faulted ∧ (t.ctx ctx).fault = none ∧ (∀ c, c ≠ ctx → t.ctx c = s.ctx c) ∧ (∀ g ∈ t.grids, g.2.ctx ≠ ctx) ∧ (∀ p ∈ t.pigeons, p.ctx ≠ ctx)
    ∧ (∀ v ∈ t.versions, v.ctx ≠ ctx) ∧ (∀ k ∈ t.tasks, k.2.ctx ≠ ctx) ∧ (∀ k ∈ t.kvs, k.ctx ≠ ctx) ∧ t.mem = s.mem ∧ t.sys.seq = s.sys.seq + 1
    ∧ (∃ e, t.sys.log.getLast? = some e ∧ fld e.toNat 0 8 = 1 ∧ fld e.toNat 8 8 = ctx ∧ fld e.toNat 16 8 = kind % 2 ^ 8))
  ∧ (∀ (v : DWord) l g, bit v.toNat 31 = true → s.preqBusy = false → s.liveHandle (fld v.toNat 24 6) (fld v.toNat 0 24) = some l → s.grid l = some g →
    (∀ e ∈ s.teams, e.2.lseq ≠ l) →
    (∃ t, exec (.preqPreempt m v) s = .next (reply t m 0 []) ∧ t.grid l = some { g with held := true } ∧ (∀ k, k ≠ l → t.grid k = s.grid k)
      ∧ t = { s with grids := t.grids, disp := t.disp, sys := t.sys } ∧ t.sys.preqTids = [])
    ∧ (∃ t, exec (.preqResume m v) s = .next (reply t m 0 []) ∧ t.grid l = some { g with held := false, joined := s.now } ∧ (∀ k, k ≠ l → t.grid k = s.grid k)
      ∧ t = { s with grids := t.grids, disp := t.disp, sys := t.sys }))

/-- R407, R409, R415, R418, R419 and R425: requests and responses of the fabric, its routes, and the notices about remote versions. What
becomes of late answers, of unsupported requests and of the WCT of a fold follows assumption logs 85, 88 and 91. -/
def Obligations.FabricEvents : Prop := ∀ (s : State), s.bus = none →
  (∀ n o fid f bytes w, Tab.find n s.fab.outs = some o → o.owner = .lane fid → Tab.find fid s.flights = some f → s.now ≤ o.sent + 20000 → s.ownDie o.die o.epid = none →
    (∀ x ∈ s.flights, x.2.tid = f.tid → ∀ c, x.2.stage ≠ .fail c) →
    (∀ sz, f.kind = .fabSt sz → exec (.fabricResponse n (.done bytes w)) s = .next { s.modLane f.tid f.lid (fun l => { l with fwct := max l.fwct w }) with
        flights := Tab.del fid s.flights, fab := { s.fab with outs := Tab.del n s.fab.outs } })
    ∧ (∀ sz, f.kind = .fabLd sz → exec (.fabricResponse n (.done bytes w)) s = .next { s with
        flights := Tab.upd (fun x => { x with stage := .got (BitVec.ofNat 64 (leNat bytes)) }) fid s.flights, fab := { s.fab with outs := Tab.del n s.fab.outs } }))
  ∧ (∀ n o lseq, Tab.find n s.fab.outs = some o → o.owner = .fold lseq →
    exec (.fabricResponse n .foldAck) s = .next { s with fab := { s.fab with outs := Tab.del n s.fab.outs } })
  ∧ (∀ die q, die < 2 → Tab.find s.ids s.fab.kept = none → Tab.find s.ids s.fab.begun = none →
    (reqSupported q = false → exec (.ingressRequest die q) s = .next { s with fab := { s.fab with replies := s.fab.replies ++ [(die, q.src, .error)] } })
    ∧ (∀ c, reqSupported q = true → ingressEntry s die q = .error c →
        exec (.ingressRequest die q) s = .next { s with fab := { s.fab with replies := s.fab.replies ++ [(die, q.src, .refused c)] } })
    ∧ (∀ e pa leaf big, reqSupported q = true → ingressEntry s die q = .ok e → s.window e.ctx (e.base + q.off.toNat) = none → q.tag = none →
        (e.base + q.off.toNat) % 4096 + fabSize q.kind ≤ 4096 → s.svc e.ctx (s.mapVa e.ctx (e.base + q.off.toNat) / 65536) = none →
        (∀ n, q.kind = .read n → xlWalk s e.ctx (e.base + q.off.toNat) .rd n = (.ok pa leaf big, s) → hasFrame pa = true → hasFrame (pa + n - 1) = true →
          exec (.ingressRequest die q) s = .next { s with fab := { s.fab with replies := s.fab.replies ++ [(die, q.src, .done (Mem.read s.mem pa n) 0)] } })
        ∧ (∀ bytes, q.kind = .write bytes → xlWalk s e.ctx (e.base + q.off.toNat) .wr bytes.length = (.ok pa leaf big, s) → (leafVersioned leaf = false ∨ s.tasks = []) → hasFrame pa = true →
          hasFrame (pa + bytes.length - 1) = true → Mem.wf s.mem = true →
          ∃ t w, exec (.ingressRequest die q) s = .next t ∧ Mem.read t.mem pa bytes.length = bytes
            ∧ (∀ a, (a < pa ∨ pa + bytes.length ≤ a) → Mem.get t.mem a = Mem.get s.mem a) ∧ s.now < w
            ∧ t.fab.replies = s.fab.replies ++ [(die, q.src, .done [] w)]))
    ∧ (∀ e, reqSupported q = true → ingressEntry s die q = .ok e → s.window e.ctx (e.base + q.off.toNat) = none → (e.base + q.off.toNat) % 4096 + fabSize q.kind ≤ 4096 →
        s.svc e.ctx (s.mapVa e.ctx (e.base + q.off.toNat) / 65536) ≠ none →
        ∃ t, exec (.ingressRequest die q) s = .next t ∧ Tab.find s.ids t.fab.kept = some (die, e, q) ∧ t.fab.replies = s.fab.replies ∧ t.mem = s.mem
          ∧ (e.ctx, (e.base + q.off.toNat) / 65536) ∈ t.fab.pages))
  ∧ (∀ n o fid f, Tab.find n s.fab.outs = some o → o.owner = .lane fid → Tab.find fid s.flights = some f → o.sent + 20000 ≤ s.now → (s.fab.outs.map Prod.fst).Nodup →
    exec (.requestAbsent n) s = .next (postFabric (setStage { s with fab := { s.fab with outs := s.fab.outs.filter (fun x => x.1 != n) } } fid (.fail 0x35)) f.tid f.tags.core))
  ∧ (∀ n o cid k m part c g d a, Tab.find n s.fab.outs = some o → o.owner = .cmd cid k m part → s.cmd cid = some c → c.instr = .fstm g d a → o.sent + 20000 ≤ s.now →
    (∀ x ∈ s.fab.outs, (x.2.stepOf cid).isSome = true → x = (n, o)) → (s.fab.outs.map Prod.fst).Nodup →
    ∃ t, exec (.requestAbsent n) s = .next t ∧ t.cmd cid = some { c with vals := setAt c.vals 1 (nth 0 c.vals 1 ||| 2 ^ m) }
      ∧ t.fab.outs = s.fab.outs.filter (fun x => x.1 != n) ∧ t = { s with cmds := t.cmds, fab := { s.fab with outs := t.fab.outs } })
  ∧ (∀ die epid kln, die < 2 → epid < 1024 → s.fab.dies.length = 2 →
    (exec (.peerRouteChange die epid true kln) s = .next (s.modFabDie die (fun x => { x with peers := Tab.put epid (true, kln) x.peers })))
    ∧ ((∀ x ∈ s.fab.outs, ¬ (x.2.die = die ∧ x.2.epid = epid)) → exec (.peerRouteChange die epid false true) s =
        .next (s.modFabDie die (fun x => { x with peers := Tab.put epid (false, true) x.peers })))
    ∧ ((∀ x ∈ s.fab.outs, ¬ (x.2.die = die ∧ x.2.epid = epid)) → exec (.peerRouteChange die epid false false) s =
        .next (s.modFabDie die (fun x => { x with peers := Tab.del epid x.peers }))))
  ∧ (∀ die key v, die < 2 → Mem.wf s.mem = true → v.line / 128 < 2 ^ 48 → s.versions.filter (fun x => x.writer == .remote die key.src key.ctx key.lseq) = [v] →
    v.cells.Pairwise (fun a b => a.1 < b.1) → ∃ t, exec (.foldNotice die key) s = .next t
      ∧ (∀ o b, Mem.noted v.cells o = some b → Mem.get t.mem (v.line * 512 + o) = b)
      ∧ (∀ a, (∀ o, a = v.line * 512 + o → Mem.noted v.cells o = none) → Mem.get t.mem a = Mem.get s.mem a)
      ∧ t.versions = s.versions.filter (fun x => !(x.writer == .remote die key.src key.ctx key.lseq))
      ∧ t.fab.replies = s.fab.replies ++ [(die, key.src, .foldAck)]
      ∧ (∀ c, (s.ctx v.ctx).st ≠ .free → c = v.ctx → s.now < (t.ctx c).cwct) ∧ t = { s with mem := t.mem, versions := t.versions, fab := t.fab, ctxs := t.ctxs })
  ∧ (∀ die key, ∃ t, exec (.discardNotice die key) s = .next t ∧ t.versions = s.versions.filter (fun x => !(x.writer == .remote die key.src key.ctx key.lseq))
      ∧ (∀ r ∈ t.fab.remotes, ¬ (r.die = die ∧ r.src = key.src ∧ r.ctx = key.ctx ∧ r.lseq = key.lseq))
      ∧ t.fab.kept = s.fab.kept.filter (fun k => !(k.2.1 == die && reqOf k.2.2.2 key.src key.ctx key.lseq))
      ∧ t = { s with
          versions := t.versions
          fab := { s.fab with remotes := t.fab.remotes, kept := t.fab.kept, begun := t.fab.begun, keptOuts := t.fab.keptOuts } })
  ∧ (∀ die key carbon, ∃ t, exec (.retagNotice die key carbon) s = .next t
      ∧ (∀ r ∈ t.fab.remotes, r.die = die → r.src = key.src → r.ctx = key.ctx → r.lseq = key.lseq → r.carbon = carbon)
      ∧ t.fab.remotes.length = s.fab.remotes.length
      ∧ (∀ k ∈ t.fab.kept, k.2.1 = die → reqOf k.2.2.2 key.src key.ctx key.lseq = true → ∀ g, k.2.2.2.tag = some g → g.carbon = carbon)
      ∧ t.fab.kept.length = s.fab.kept.length ∧ t.fab.outs.length = s.fab.outs.length
      ∧ t = { s with fab := { s.fab with remotes := t.fab.remotes, kept := t.fab.kept, outs := t.fab.outs } })

/-- R426 to R433, R444, R446 and R448 to R450: debug requests to one lane, from the holder of the rights and from another master; the postbag's write; the clearing of the
counters. The records and answers follow assumption log 62. -/
def Obligations.DebugRequests : Prop := ∀ (s : State) (m : Nat) (q : DbgReq) (blk : BitVec 512), s.bus = none → s.hears m = true →
  (s.mayDebug m q = false → ∀ e ∈ [Instr.halt m q, .resume m q, .step m q, .debugRead m q, .debugWrite m q, .readpc m q, .wset m q blk, .query m q],
    exec e s = .next (debugAnswer s m 1 []))
  ∧ (s.mayDebug m q = true → reqTeam s q = none → ∀ e ∈ [Instr.halt m q, .resume m q, .step m q, .debugRead m q, .debugWrite m q, .readpc m q],
    exec e s = .next (debugAnswer s m 2 []))
  ∧ (∀ tid t0 l, s.mayDebug m q = true → q.all = false → reqTeam s q = some tid → s.team tid = some t0 → t0.loc ≠ .saved → q.lane.toNat < t0.lanes.length →
    l = nth {} t0.lanes q.lane.toNat → l.exited = false → l.stepping = none → t0.batonMove = none →
    (l.halted = none → ∃ t, exec (.halt m q) s = .next t ∧ t.lane tid q.lane.toNat = some { l with halted := some 0 }
      ∧ (∀ k, k ≠ q.lane.toNat → t.lane tid k = s.lane tid k) ∧ (∀ k, k ≠ tid → t.team k = s.team k)
      ∧ t.answers = (debugAnswer s m 0 [(170, 0)]).answers ∧ t = { s with teams := t.teams, cores := t.cores, trace := t.trace, answers := t.answers })
    ∧ (∀ r, l.halted = some r → ∃ t, exec (.resume m q) s = .next t ∧ t.lane tid q.lane.toNat = some { l with halted := none, stepping := none }
      ∧ (∀ k, k ≠ q.lane.toNat → t.lane tid k = s.lane tid k) ∧ (∀ k, k ≠ tid → t.team k = s.team k)
      ∧ t.answers = (debugAnswer s m 0 [(170, 0)]).answers ∧ t = { s with teams := t.teams, cores := t.cores, trace := t.trace, answers := t.answers })
    ∧ (l.halted = none → exec (.resume m q) s = .next (debugAnswer s m 3 [(170, 0)]) ∧ exec (.step m q) s = .next (debugAnswer s m 3 [(170, 0)])
        ∧ exec (.debugWrite m q) s = .next (debugAnswer s m 3 [(170, 0)]))
    ∧ (∀ r, l.halted = some r → ∃ t, exec (.step m q) s = .next t
      ∧ t.lane tid q.lane.toNat = some { l with halted := none, stepping := some m, stepTag := s.sys.tag }
      ∧ (∀ k, k ≠ q.lane.toNat → t.lane tid k = s.lane tid k) ∧ t = { s with teams := t.teams, cores := t.cores })
    ∧ (q.reg.toNat < l.regs.length → q.reg.toNat < 128 → exec (.debugRead m q) s = .next (debugAnswer s m 0
        [(192, (l.reg q.reg.toNat).v.toNat), (182, rstate (l.reg q.reg.toNat).st), (181, b2n (l.reg q.reg.toNat).poison), (170, 0)]))
    ∧ (∀ r, l.halted = some r → q.reg.toNat < 128 → q.reg.toNat < l.regs.length → (l.reg q.reg.toNat).st.isPend = false →
      ∃ t, exec (.debugWrite m q) s = .next t ∧ t.lane tid q.lane.toNat = some (l.setReg q.reg.toNat (q.value.extractLsb' 0 32) q.poison)
        ∧ (∀ k, k ≠ q.lane.toNat → t.lane tid k = s.lane tid k) ∧ t.answers = (debugAnswer s m 0 [(170, 0)]).answers
        ∧ t = { s with teams := t.teams, answers := t.answers })
    ∧ (∀ r, l.halted = some r → q.reg.toNat < 128 → q.reg.toNat < l.regs.length → (l.reg q.reg.toNat).st.isPend = true →
      exec (.debugWrite m q) s = .next { s with sys := { s.sys with writes := s.sys.writes ++ [(m, s.sys.tag, q)] } })
    ∧ exec (.readpc m q) s = .next (debugAnswer s m 0 [(192, l.h.toNat), (176, l.slot.getD 0), (173, l.halted.getD 7), (172, b2n l.inTrap), (171, b2n l.slot.isNone),
        (170, 0)]))
  ∧ (∀ tid t0 l, s.mayDebug m q = true → q.all = false → reqTeam s q = some tid → s.team tid = some t0 → t0.loc = .saved → q.lane.toNat < t0.lanes.length →
    l = nth {} t0.lanes q.lane.toNat → l.exited = false →
    exec (.readpc m q) s = .next (debugAnswer s m 0 [(192, l.h.toNat), (176, l.slot.getD 0), (173, l.halted.getD 7), (172, b2n l.inTrap), (171, b2n l.slot.isNone), (170, 1)])
    ∧ (l.halted = none → exec (.resume m q) s = .next (debugAnswer s m 3 [(170, 1)])))
  ∧ (s.mayDebug m q = true → q.wslot.toNat ≤ 19 → slotReserved blk.toNat = true → slotGood q.wslot.toNat blk.toNat = true →
    ∃ t, exec (.wset m q blk) s = .next t ∧ t.answers = (debugAnswer s m 0 []).answers ∧ t = { s with dbg := t.dbg, answers := t.answers }
      ∧ (bit blk.toNat 63 = true → Tab.find q.wslot.toNat (t.dbgOf q.ctx.toNat).slots = some (BitVec.ofNat 192 blk.toNat)))
  ∧ (s.mayDebug m q = true → exec (.query m q) s = .next (debugAnswer s m 0
      [(192, b2n (s.dbgOf q.ctx.toNat).laneset * 8 + b2n (s.dbgOf q.ctx.toNat).rights * 4 + (s.dbgOf q.ctx.toNat).holder)]))
  ∧ (s.sys.owner ≠ some m → exec (.grant m q) s = .next (debugAnswer s m 1 []) ∧ (s.mayDebug m q = false → exec (.revoke m q) s = .next (debugAnswer s m 1 [])))
  ∧ (s.sys.owner = some m → ∃ t, exec (.grant m q) s = .next t ∧ t.answers = (debugAnswer s m 0 []).answers ∧ t = { s with dbg := t.dbg, answers := t.answers }
      ∧ t.dbgOf q.ctx.toNat = { s.dbgOf q.ctx.toNat with rights := true, holder := fld q.value.toNat 0 2, laneset := bit q.value.toNat 2 }
      ∧ (∀ c, c ≠ q.ctx.toNat → t.dbgOf c = s.dbgOf c))
  ∧ (s.sys.owner = some m ∨ s.mayDebug m q = true → Tab.sorted s.dbg = true → (∀ e ∈ s.teams, s.ctxOf e.2 ≠ q.ctx.toNat) →
    ∃ t, exec (.revoke m q) s = .next t ∧ t.dbgOf q.ctx.toNat = {} ∧ (∀ c, c ≠ q.ctx.toNat → t.dbgOf c = s.dbgOf c)
      ∧ t = { s with dbg := t.dbg, trace := t.trace, sys := t.sys, answers := t.answers })
  ∧ (∀ r rest, s.trace.held = r :: rest → s.trace.en = true →
    ((s.trace.put + 1) % 2 ^ s.trace.logn = s.trace.get →
      exec .postbagWrite s = .next { s with trace := { s.trace with held := rest, heldAt := s.trace.heldAt.tail, drops := (s.trace.drops + 1) % 2 ^ 32 } })
    ∧ ((s.trace.put + 1) % 2 ^ s.trace.logn ≠ s.trace.get → hasFrame (s.trace.base + 32 * s.trace.put) = true →
      hasFrame (s.trace.base + 32 * s.trace.put + 31) = true → exec .postbagWrite s = .next { s with
        mem := Mem.write s.mem (s.trace.base + 32 * s.trace.put) (leBytes 32 r.toNat)
        trace := { s.trace with held := rest, heldAt := s.trace.heldAt.tail, put := (s.trace.put + 1) % 2 ^ s.trace.logn } }))
  ∧ (∀ die, s.sys.owner = some m → die < 2 → s.ctrs.length = 2 → ∃ t, exec (.counterClear m die) s = .next t
      ∧ nth {} t.ctrs die = { live := [0, 0, 0, 0, 0, 0, 0, 0, 0], since := s.cyc, snap := [0, 0, 0, 0, 0, 0, 0, 0, 0, 0, 0, 0, 0] }
      ∧ nth {} t.ctrs (1 - die) = nth {} s.ctrs (1 - die) ∧ t = { s with ctrs := t.ctrs, tasks := t.tasks })

/-- R463, R464, R466, R467, R469, R470, R471 and R474: identity, attestation, the reset that a master asks for, temperatures, and soft errors. Where
temperatures come from, and how an error's place is named, are the model's (assumption logs 10 and 70). -/
def Obligations.ControllerEvents : Prop := ∀ (s : State) (m : Nat) (nonce : BitVec 256), s.bus = none →
  (s.hears m = true →
    (s.sys.bstate = 0 → exec (.idkey m) s = .next (reply s m 3 []) ∧ exec (.attest m nonce) s = .next (reply s m 3 []))
    ∧ (s.sys.bstate ≠ 0 → exec (.idkey m) s = .next (reply s m 0 (leBytes 1952 Config.identityKey.toNat ++ Config.certificate))
      ∧ exec (.attest m nonce) s = .next (reply s m 0 (attested s nonce ++ leBytes 3309 (Config.signature (attested s nonce)).toNat))))
  ∧ (m ∈ s.sys.attached → s.sys.resetBy = none → (∀ w ∈ s.sys.writes, w.1 ≠ m) →
    (s.sys.owner = some m ∨ s.sys.owner = none ∨ s.sys.bstate = 2 ∨ s.sys.stopped = true → ∃ t, exec (.reset m) s = .next t ∧ t.now = s.now ∧ t.cyc = 0 ∧ t.mem = []
      ∧ t.tags = [] ∧ t.teams = [] ∧ t.grids = [] ∧ t.tasks = [] ∧ t.ctxs = [] ∧ t.cores = [] ∧ t.clusters = [] ∧ t.flights = [] ∧ t.cmds = [] ∧ t.pigeons = []
      ∧ t.pairs = [] ∧ t.disp = { points := [{ since := s.now }, { since := s.now }], shareTick := s.now / 10000 } ∧ t.trace = {} ∧ t.sys = { attached := s.sys.attached, window := s.now / 1000000 } ∧ t.answers = (reply s m 0 []).answers)
    ∧ (s.sys.owner ≠ some m → s.sys.owner ≠ none → s.sys.bstate ≠ 2 → s.sys.stopped = false → exec (.reset m) s = .next (reply s m 1 [])))
  ∧ (∀ die temp, die < 2 → s.sys.temps.length = 2 → nth 0 s.sys.temps die < temp →
    (temp < 105 → ∃ t, exec (.thermal die temp) s = .next t ∧ nth 0 t.sys.temps die = temp ∧ nth 0 t.sys.temps (1 - die) = nth 0 s.sys.temps (1 - die)
      ∧ t = { s with sys := { s.sys with temps := t.sys.temps } })
    ∧ (nth 0 s.sys.temps die < 105 → 105 ≤ temp → temp < 115 → ∃ t e, exec (.thermal die temp) s = .next t ∧ nth 0 t.sys.temps die = temp
      ∧ t.sys.log.getLast? = some e ∧ fld e.toNat 0 8 = 4 ∧ t.sys.seq = s.sys.seq + 1 ∧ t.sys.stopped = s.sys.stopped ∧ t = { s with sys := t.sys, answers := t.answers })
    ∧ (115 ≤ temp → s.sys.stopped = false → ∃ t, exec (.thermal die temp) s = .next t ∧ t.sys.stopped = true
      ∧ (∀ c, (s.ctx c).st = .ready → (s.ctx c).fault = none → Tab.sorted s.ctxs = true → (t.ctx c).fault = some (5, 0, s.now))))
  ∧ (∀ die temp, die < 2 → s.sys.temps.length = 2 → temp < nth 0 s.sys.temps die → ∃ t, exec (.temperatureFall die temp) s = .next t ∧ nth 0 t.sys.temps die = temp
      ∧ nth 0 t.sys.temps (1 - die) = nth 0 s.sys.temps (1 - die) ∧ t = { s with sys := { s.sys with temps := t.sys.temps } })
  ∧ (∀ code loc, code ∈ [1, 2, 3, 4, 5] → ∃ t, exec (.softError code loc true) s = .next t ∧ t = { s with sys := { s.sys with errs := t.sys.errs } })
  ∧ (∀ loc t0 core k, s.team loc = some t0 → t0.loc = .resident core k → core < 128 → s.sys.errs.length = 2 → (s.ctx (s.ctxOf t0)).st = .ready →
    (s.ctx (s.ctxOf t0)).fault = none → ∀ code ∈ [1, 4, 7], ∃ t, exec (.softError code loc false) s = .next t
      ∧ (t.ctx (s.ctxOf t0)).fault = some (5, code, s.now) ∧ (nth {} t.sys.errs (dieOf core)).uncorr = ((nth {} s.sys.errs (dieOf core)).uncorr + 1) % 2 ^ 32
      ∧ (∀ c, c ≠ s.ctxOf t0 → t.ctx c = s.ctx c) ∧ t = { s with ctxs := t.ctxs, sys := { s.sys with errs := t.sys.errs } })
  ∧ (∀ core idx, core < 128 → ∃ t, exec (.softError 6 (core + 128 * idx) true) s = .next t
      ∧ (t.core core).l1 = (s.core core).l1.take idx ++ (s.core core).l1.drop (idx + 1) ∧ (∀ c, c ≠ core → t.core c = s.core c)
      ∧ t = { s with cores := t.cores, sys := { s.sys with errs := t.sys.errs } })

/-- R239, R240, R256, R280 to R282, R285, R368, R408, R420, R442, R473 and R474: the only step of some commands, from a block that passes the command's checks and at the
frontier where the step is irrevocable: what changes, and the status that the command ends with. When a declared
range takes effect, and the checks of a watch block, follow assumption logs 60 and 63. -/
def Obligations.StepsOfCommands : Prop := ∀ (s : State) (cid : Nat) (c : Cmd) (g : Guard) (d a b : Code), Steps s cid c → c.step = 0 →
  (c.instr = .pquery g d a → c.f 32 480 = 0 → c.f 0 5 = 0 → padIn (cmdPadb s c) (c.f 0 32) 32 = true →
    exec (.engineStep cid) s = .next (endCmd (padWrite s c.tid none (c.f 0 32) (leBytes 32 (pqueryRec s c.tid))) cid 0 0))
  ∧ (c.instr = .opclass g d a b → (c.b = 0 ∨ c.b.toNat = (s.point (dieOf c.tags.core)).cls) →
    exec (.engineStep cid) s = .next (s.modCmd cid (fun c => { c with st := .ended (statusWord 0 c.cls (s.point (dieOf c.tags.core)).cls) false })))
  ∧ (c.instr = .opclass g d a b → c.b ≠ 0 → c.b.toNat ≤ 7 → c.b.toNat ≠ (s.point (dieOf c.tags.core)).cls → (s.point (dieOf c.tags.core)).sw = none →
    s.disp.points.length = 2 → c.tags.core < 128 →
    ∃ t, exec (.engineStep cid) s = .next t ∧ t.point (dieOf c.tags.core) = { s.point (dieOf c.tags.core) with sw := some (c.b.toNat, s.now) }
      ∧ t.point (1 - dieOf c.tags.core) = s.point (1 - dieOf c.tags.core) ∧ t.cmd cid = some { stepped c with step := 1 }
      ∧ t = { s with disp := { s.disp with points := t.disp.points }, cmds := t.cmds })
  ∧ (∀ keepe, c.instr = .pshare g keepe false d a → cmdFront s c = true → (s.ctx c.tags.ctx).ctl = true → (keepe = true → s.disp.ptable.ewma ≤ 65536) →
    exec (.engineStep cid) s = .next (endCmd { s with
      disp := { s.disp with ptable := { ewma := if keepe then s.disp.ptable.ewma else 32768, pairen := false, pairtot := 0, smax := 0, smin := 0, target := 0, draft := 0, shares := [16, 16, 16, 16] } } } cid 0 0))
  ∧ (c.instr = .cwait g false d a b → c.b.toNat < 2 ^ 24 → s.liveHandle c.tags.ctx c.b.toNat = none → exec (.engineStep cid) s = .next (endCmd s cid 0 0))
  ∧ (c.instr = .phcfgCreate g d a b → fld c.b.toNat 30 2 = 0 → fld c.b.toNat 12 18 = 0 → hNum c.b < 16 → cmdHole s c = none → c.f 40 472 = 0 → c.f 32 8 ≤ 2 →
    1 ≤ c.f 0 32 → c.f 0 32 ≤ 4096 → ∀ us, holeBacking s (clusterOf c.tags.core) (c.f 32 8) (c.f 0 32) = some us →
    exec (.engineStep cid) s = .next (endCmd { s with
      pigeons := s.pigeons ++ [{ scope := 0, owner := c.tid, num := hNum c.b, ctx := c.tags.ctx, kind := c.f 32 8, depth := c.f 0 32, units := us }] } cid 0 0))
  ∧ (∀ t k, c.instr = .decl g d a → s.task (cmdLseq s c) = some t → c.f 56 8 = 0 → c.f 97 415 = 0 → 512 ≤ c.f 64 32 → c.f 64 32 % 512 = 0 → c.f 0 56 % 512 = 0 →
    c.f 0 56 + c.f 64 32 ≤ 2 ^ 56 → lowest (fun k => !s.setUsed (cmdLseq s c) t k) (4 * c.f 96 1) 4 = some k →
    exec (.engineStep cid) s = .next (s.modCmd cid (fun c => { c with vals := [k], st := .ended (statusWord 0 c.cls k) false })))
  ∧ (c.instr = .wpset g d a b → slotReserved (c.f 0 512) = true → (s.dbgOf c.tags.ctx).rights = true → (s.dbgOf c.tags.ctx).laneset = true → c.b.toNat ≤ 19 →
    slotGood c.b.toNat (c.f 0 512) = true → cmdFront s c = true → exec (.engineStep cid) s = .next (endCmd (setSlot s c.tags.ctx c.b.toNat (c.f 0 512)) cid 0 c.b.toNat))
  ∧ (c.instr = .errq g d a → c.f 32 480 = 0 → c.f 0 32 % 32 = 0 → padIn (cmdPadb s c) (c.f 0 32) 32 = true → ∃ r n, exec (.engineStep cid) s =
      .next (endCmd (padWrite s c.tid none (c.f 0 32) (leBytes 32 r)) cid 0 n)
      ∧ n = min 0xFFFFFF ((nth {} s.sys.errs (dieOf c.tags.core)).hbm + (nth {} s.sys.errs (dieOf c.tags.core)).l2 + (nth {} s.sys.errs (dieOf c.tags.core)).tile
          + (nth {} s.sys.errs (dieOf c.tags.core)).core)
      ∧ ((∀ x ∈ s.sys.errs, x.refill < 2 ^ 32 ∧ x.core < 2 ^ 32 ∧ x.uncorr < 2 ^ 32 ∧ x.tile < 2 ^ 32 ∧ x.l2 < 2 ^ 32 ∧ x.hbm < 2 ^ 32) →
          fld r 0 32 = (nth {} s.sys.errs (dieOf c.tags.core)).refill ∧ fld r 160 32 = (nth {} s.sys.errs (dieOf c.tags.core)).uncorr))
  ∧ (c.instr = .idq g d a → c.f 32 480 = 0 → c.f 0 32 % 64 = 0 → padIn (cmdPadb s c) (c.f 0 32) 64 = true → ∃ r, exec (.engineStep cid) s =
      .next (endCmd (padWrite s c.tid none (c.f 0 32) (leBytes 64 r)) cid 0 0) ∧ (s.sys.featAcc < 2 ^ 256 → fld r 0 256 = s.sys.featAcc))
  ∧ (c.instr = .fexpGrant g d a b → cmdFront s c = true → c.f 56 8 = 0 → c.f 77 3 = 0 → c.f 94 2 = 0 → c.f 110 402 = 0 → c.b.toNat ≤ 4095 → 1 ≤ c.f 64 13 → c.f 64 13 ≤ 4096 →
    c.f 0 56 % 65536 = 0 → c.f 0 56 + 65536 * c.f 64 13 ≤ 2 ^ 56 → Tab.find c.b.toNat (s.fabDie (dieOf c.tags.core)).table = none → s.fab.dies.length = 2 → c.tags.core < 128 →
    ∃ t, exec (.engineStep cid) s = .next t ∧ Tab.find c.b.toNat (t.fabDie (dieOf c.tags.core)).table = some ⟨c.f 0 56, c.f 80 14, c.f 64 13, c.f 96 10, c.f 106 1 == 1,
        c.tags.ctx, c.f 107 1 == 1, c.f 108 1 == 1, c.f 109 1 == 1⟩
      ∧ t.cmd cid = some { c with st := .ended (statusWord 0 c.cls (s.epid (dieOf c.tags.core))) false }
      ∧ t = { s with fab := { s.fab with dies := t.fab.dies }, cmds := t.cmds })
  ∧ (∀ e, c.instr = .fexpRevoke g d a b → cmdFront s c = true → c.b.toNat ≤ 4095 → Tab.find c.b.toNat (s.fabDie (dieOf c.tags.core)).table = some e →
    e.ctx = c.tags.ctx → (∀ r ∈ s.fab.remotes, ¬ (r.die = dieOf c.tags.core ∧ c.b.toNat ∈ r.entries)) →
    (∀ k ∈ s.fab.kept, ¬ (k.2.1 = dieOf c.tags.core ∧ k.2.2.2.entry.toNat = c.b.toNat)) →
    exec (.engineStep cid) s = .next (endCmd (s.modFabDie (dieOf c.tags.core) (fun x => { x with table := Tab.del c.b.toNat x.table })) cid 0 0))
end

