-- ==== Sys2Proof/Laws/Memory.lean ====
section
/-! SUPPORT. Laws/Memory.lean: what the machine's operations make of memory: each keeps the canonical form; and byte strings as numbers. -/

namespace Sys2Proof.Machine

open Sys2Proof

/-- Reads of bytes outside those written. -/
theorem mem_read_write_other (m : List Host.Cell) (a c n : Nat) (bs : List Byte) (h : c + n ≤ a ∨ a + bs.length ≤ c) :
    Mem.read (Mem.write m a bs) c n = Mem.read m c n := by
  induction n generalizing c with
  | zero => rfl
  | succ n ih => rw [Mem.read, Mem.read, mem_get_write_other m a c bs (by omega), ih (c + 1) (by omega)]

/-- `n` bytes are `n`. -/
theorem leBytes_length (n v : Nat) : (leBytes n v).length = n := by
  induction n generalizing v with
  | zero => rfl
  | succ n ih => simp [leBytes, ih]

/-- The bytes of a value give the value, modulo their number. -/
theorem leNat_leBytes (n v : Nat) : leNat (leBytes n v) = v % 256 ^ n := by
  induction n generalizing v with
  | zero => simp [leBytes, leNat, Nat.mod_one]
  | succ n ih =>
    rw [leBytes, leNat, ih, Nat.pow_succ', BitVec.toNat_ofNat]
    exact (Nat.mod_mul).symm

/-- Memory lists nothing at reset. -/
theorem reset_mem_wf : Mem.wf State.reset.mem = true := rfl

/-- A touch changes no byte. -/
theorem touch_mem (s : State) (pa n : Nat) : (touch s pa n).mem = s.mem := by
  unfold touch
  split <;> rfl

/-- The clearing of frames. -/
theorem clearFrames_wf (s : State) (f n : Nat) (h : Mem.wf s.mem = true) : Mem.wf (clearFrames s f n).mem = true := mem_wfFrom_filter 0 _ _ h

/-- The writing of a leaf (R178). -/
theorem putLeaf_wf (s : State) (at_ v : Nat) (h : Mem.wf s.mem = true) : Mem.wf (putLeaf s at_ v).mem = true := mem_wf_write _ _ _ h

/-- The saved contents of a page (R178 step 4). -/
theorem refill_wf (s : State) (ctx page f : Nat) (h : Mem.wf s.mem = true) : Mem.wf (refill s ctx page f).mem = true := by
  unfold refill
  split
  · exact h
  · exact mem_wf_sets _ _ _ h

/-- The bytes of a version that joins the committed data (R331). -/
theorem foldVersion_wf (s : State) (v : Version) (h : Mem.wf s.mem = true) : Mem.wf (foldVersion s v).mem = true := by
  unfold foldVersion
  dsimp only
  split
  · exact mem_wf_sets _ _ _ h
  · exact h

/-- A fold of steps that each keep the canonical form keeps it. -/
theorem foldl_wf {β : Type} (f : State → β → State) (hf : ∀ s y u, f s y = u → Mem.wf s.mem = true → Mem.wf u.mem = true) (l : List β) (s : State)
    (h : Mem.wf s.mem = true) : Mem.wf (l.foldl f s).mem = true := by
  induction l generalizing s with
  | nil => exact h
  | cons y t ih => exact ih (f s y) (hf s y _ rfl h)

/-- Steps that each leave memory alone, in a fold. -/
theorem foldl_mem {β : Type} (f : State → β → State) (hf : ∀ s y, (f s y).mem = s.mem) (l : List β) (s : State) : (l.foldl f s).mem = s.mem := by
  induction l generalizing s with
  | nil => rfl
  | cons y t ih => rw [List.foldl_cons, ih, hf]

/-- A fold of remote versions (R419). -/
theorem foldRemote_wf (s : State) (die src ctx lseq : Nat) (h : Mem.wf s.mem = true) : Mem.wf (foldRemote s die src ctx lseq).mem = true := by
  have aux : ∀ vs : List Version, Mem.wf (vs.foldl foldVersion s).mem = true := fun vs =>
    foldl_wf foldVersion (fun s v u hu hs => by rw [← hu]; exact foldVersion_wf s v hs) vs s h
  exact aux _

/-- An image (R271). -/
theorem writeImage_wf (s : State) (ctx unit bytes num : Nat) (h : Mem.wf s.mem = true) : Mem.wf (writeImage s ctx unit bytes num).mem = true :=
  mem_wf_write _ _ _ (by rw [touch_mem]; exact h)

/-- The postbag's write (R446). -/
theorem bagWrite_wf (s : State) (h : Mem.wf s.mem = true) : Mem.wf (bagWrite s).mem = true := by
  cases hh : s.trace.held with
  | nil => rw [bagWrite, hh]; exact h
  | cons r rest =>
    rw [bagWrite, hh]
    by_cases h1 : (!s.trace.en) = true
    · simp only [h1, if_true]; exact h
    · by_cases h2 : (s.trace.put + 1) % 2 ^ s.trace.logn = s.trace.get
      · simp only [h1, h2, if_true]; exact h
      · simp only [h1, h2, if_false]
        generalize leBytes 32 r.toNat = bytes
        exact mem_wf_write _ _ bytes h

/-- What the sequence engine writes into headers and descriptors (R389). -/
theorem rawByte_wf (s : State) (ctx va : Nat) (f : Byte → Byte) (h : Mem.wf s.mem = true) : Mem.wf (rawByte s ctx va f).mem = true := by
  unfold rawByte
  split
  · exact mem_wf_set _ _ _ h
  · exact h

theorem rawAdd_wf (s : State) (ctx va : Nat) (n : Int) (h : Mem.wf s.mem = true) : Mem.wf (rawAdd s ctx va n).mem = true := by
  unfold rawAdd
  split
  · exact mem_wf_write _ _ _ h
  · exact h

/-! ### Teardowns and writes (R347, R356, R476) -/

theorem kvGive_wf (s : State) (ctx pool desc b : Nat) (h : Mem.wf s.mem = true) : Mem.wf (kvGive s ctx pool desc b).mem = true := by
  unfold kvGive rawAlloc
  exact rawAdd_wf _ _ _ _ (rawByte_wf s _ _ _ h)

theorem kvFreeing_wf (s : State) (p : KvRec → Bool) (h : Mem.wf s.mem = true) : Mem.wf (kvFreeing s p).mem = true := by
  unfold kvFreeing
  dsimp only
  apply foldl_wf _ _ _ _ h
  intro s r u hu hs
  have e : kvGive s r.ctx r.pool r.desc r.store = u := hu
  rw [← e]
  exact kvGive_wf s _ _ _ _ hs

theorem discardFab_mem (s : State) (ctx lseq : Nat) : (discardFab s ctx lseq).mem = s.mem := by
  unfold discardFab
  split
  · rfl
  · exact foldl_mem _ (fun s w => by split <;> rfl) _ s

theorem debugAnswer_mem (s : State) (m status : Nat) (fs : List (Nat × Nat)) : (debugAnswer s m status fs).mem = s.mem := rfl

theorem batonCheck_mem (s : State) (tid : Nat) : (batonCheck s tid).mem = s.mem := by
  unfold batonCheck
  repeat' split
  all_goals rfl

theorem unplace_mem (s : State) (tid : Nat) (lids : List Nat) : (unplace s tid lids).mem = s.mem := by
  unfold unplace
  split
  · rfl
  split
  · rfl
  · exact batonCheck_mem _ _

theorem stepAnswer_mem (s : State) (l : Lane) (status : Nat) : (stepAnswer s l status).mem = s.mem := by
  unfold stepAnswer
  split <;> rfl

theorem killTeam_mem (s : State) (tid : Nat) : (killTeam s tid).mem = s.mem := by
  unfold killTeam dropTeam
  dsimp only
  split
  · rw [foldl_mem]
    · exact unplace_mem s tid _
    · exact fun s l => stepAnswer_mem s l 2
  · rfl

theorem discardSlots_mem (s : State) (lseq : Nat) : (discardSlots s lseq).mem = s.mem := by
  unfold discardSlots
  split <;> rfl

theorem abortOne_wf (s : State) (lseq : Nat) (ends : Bool) (h : Mem.wf s.mem = true) : Mem.wf (abortOne s lseq ends).1.mem = true := by
  unfold abortOne
  split
  · exact h
  · split
    · exact h
    · split
      · exact h
      · dsimp only
        rw [discardFab_mem]
        unfold kvAbort
        have k : ∀ (l : List Nat), (l.foldl killTeam (discardSlots s lseq)).mem = s.mem := fun l => by
          rw [foldl_mem killTeam killTeam_mem, discardSlots_mem]
        split
        · simpa [State.modGrid, State.modTask, k] using h
        · exact kvFreeing_wf _ _ (by simpa [State.modGrid, State.modTask, k] using h)

theorem shredOne_wf (s : State) (ctx num : Nat) (h : Mem.wf s.mem = true) : Mem.wf (shredOne s ctx num).1.mem = true := by
  unfold shredOne
  split
  · exact h
  · dsimp only
    unfold kvShred
    split
    · exact h
    · exact kvFreeing_wf _ _ h

/-- Aborts and shreds, with all that they lead to, keep the canonical form. -/
theorem tear_wf (n : Nat) (w : List Tear) (s : State) (h : Mem.wf s.mem = true) : Mem.wf (tear s n w).mem = true := by
  induction n generalizing w s with
  | zero => unfold tear; exact h
  | succ n ih =>
    match w with
    | [] => exact h
    | .abort l e :: t => exact ih _ _ (abortOne_wf s l e h)
    | .shred c k :: t => exact ih _ _ (shredOne_wf s c k h)

theorem abortTasks_wf (s : State) (ls : List Nat) (ends : Bool) (h : Mem.wf s.mem = true) : Mem.wf (abortTasks s ls ends).mem = true :=
  tear_wf _ _ s h

/-- A write that is performed keeps the canonical form. -/
theorem writeLine_wf (s : State) (tg : Tags) (versioned : Bool) (pa : Nat) (bytes : List Byte) (h : Mem.wf s.mem = true) (r : State × Nat)
    (hr : writeLine s tg versioned pa bytes = some r) : Mem.wf r.1.mem = true := by
  have h0 : Mem.wf (touch s pa bytes.length).mem = true := by rw [touch_mem]; exact h
  unfold writeLine at hr
  dsimp only at hr
  repeat' split at hr
  all_goals first
    | (cases hr; exact h0)
    | (cases hr; exact mem_wf_write _ _ _ (by first | exact h0 | exact abortTasks_wf _ _ _ h0))
    | (cases hr; exact abortTasks_wf _ _ _ h0)
    | cases hr
    | skip
  rw [Option.map_eq_some_iff] at hr
  obtain ⟨u, hu, rfl⟩ := hr
  have hm : Mem.wf u.mem = true := by
    unfold noteVersion at hu
    dsimp only at hu
    repeat' split at hu
    all_goals first | (cases hu; exact abortTasks_wf _ _ _ h0) | cases hu
  exact hm

theorem writeSpan_wf (n : Nat) (s : State) (tg : Tags) (versioned : Bool) (pa : Nat) (bytes : List Byte) (w : Nat) (h : Mem.wf s.mem = true) (r : State × Nat)
    (hr : writeSpan s tg versioned pa bytes w n = some r) : Mem.wf r.1.mem = true := by
  induction n generalizing s pa bytes w with
  | zero => cases hr; exact h
  | succ n ih =>
    unfold writeSpan at hr
    split at hr
    · cases hr; exact h
    · dsimp only at hr
      split at hr
      · cases hr
      · rename_i x hx
        exact ih _ _ _ _ (writeLine_wf s _ _ _ _ h _ hx) hr

theorem writeAt_wf (s : State) (tg : Tags) (leaf pa : Nat) (bytes : List Byte) (h : Mem.wf s.mem = true) (r : State × Nat)
    (hr : writeAt s tg leaf pa bytes = some r) : Mem.wf r.1.mem = true := writeSpan_wf _ s _ _ _ _ _ h r hr

/-- A reset leaves no byte listed. -/
theorem afterReset_wf (s : State) : Mem.wf (afterReset s).mem = true := rfl

end Sys2Proof.Machine
end

