-- ==== Sys2Proof/Laws/Single.lean ====
section
/-! SUPPORT. Laws/Single.lean: a word that one lane executes, by the way its meaning runs it. -/

namespace Sys2Proof.Machine

open Sys2Proof

/-- What a word whose acts depend on the state before it alone does in a group of one lane. -/
theorem does_of_cross {i : Instr} {pre : State → WordCtx → Ent → Val → Val → Val → Prop}
    {out : State → WordCtx → Ent → Val → Val → Val → Act × State} (f : State → WordCtx → List Exe → Ent → Val → Val → Val → Act)
    (hexec : ∀ s, exec i s = finish (runCross s i (f s)))
    (h : ∀ s w e a b c, Single s w i e a b c → pre s w e a b c → out s w e a b c = (f s w [⟨e, a, b, c⟩] e a b c, s)
      ∧ (∀ code info, f s w [⟨e, a, b, c⟩] e a b c ≠ .trap code info) ∧ (LaneDest i ∨ ∀ v, f s w [⟨e, a, b, c⟩] e a b c ≠ .put v)) :
    Does i pre out := by
  intro s w e a b c ha hp
  obtain ⟨ho, ht, hd⟩ := h s w e a b c ha hp
  have hsc : ∀ os, scalarPoison i a b c os (f s w [⟨e, a, b, c⟩] e a b c) = f s w [⟨e, a, b, c⟩] e a b c := by
    intro os
    rcases hd with hd | hd
    · cases hx : f s w [⟨e, a, b, c⟩] e a b c with
      | put v => exact scalarPoison_lane hd
      | _ => exact scalarPoison_of_not_put (by simp)
    · exact scalarPoison_of_not_put hd
  rw [ho]
  exact (leavesOn_of (Ready.ends ha.toReady) (by simpa using ha.unstepped e (by rw [ha.one]; simp)) (by intro y hy; simp at hy; subst hy; exact ht)
    (by rw [hexec, runCross_single ha, hsc])).toLeaves

/-- What a word whose lanes act on the rest of the state does in a group of one lane. -/
theorem does_of_seq {i : Instr} {pre : State → WordCtx → Ent → Val → Val → Val → Prop}
    {out : State → WordCtx → Ent → Val → Val → Val → Act × State} (f : State → WordCtx → Ent → Val → Val → Val → Act × State)
    (hexec : ∀ s, exec i s = finish (runSeq s i f))
    (h : ∀ s w e a b c, Single s w i e a b c → pre s w e a b c → f s w e a b c = out s w e a b c ∧ Ends (out s w e a b c).2 w
      ∧ (∀ code info, (out s w e a b c).1 ≠ .trap code info) ∧ (LaneDest i ∨ ∀ v, (out s w e a b c).1 ≠ .put v)) : Does i pre out := by
  intro s w e a b c ha hp
  obtain ⟨ho, hs, ht, hd⟩ := h s w e a b c ha hp
  have hsc : scalarPoison i a b c [] (out s w e a b c).1 = (out s w e a b c).1 := by
    rcases hd with hd | hd
    · cases hx : (out s w e a b c).1 with
      | put v => exact scalarPoison_lane hd
      | _ => exact scalarPoison_of_not_put (by simp)
    · exact scalarPoison_of_not_put hd
  exact (leavesOn_of hs (by simpa using ha.unstepped e (by rw [ha.one]; simp)) (by intro y hy; simp at hy; subst hy; exact ht)
    (by rw [hexec, runSeq_single ha, ho, hsc])).toLeaves

/-! ### Groups of any number of lanes -/

/-- What `DoesAll` says of every group, it says of a group of one lane. -/
theorem DoesAll.does {i : Instr} {pre : State → WordCtx → Ent → Val → Val → Val → Prop} {out : State → WordCtx → Ent → Val → Val → Val → Act × State}
    (h : DoesAll i (fun _ _ => True) pre out) : Does i pre out := fun s w e a b c ha hp =>
  h s w _ _ ha.toReady trivial (by rw [ha.one]; exact .act e [] s _ _ a b c ha.runs hp (.done _))

/-- A word whose lanes act on the rest of the state in turn. -/
theorem leavesOn_of_each {s t : State} {w : WordCtx} {i : Instr} {pre : State → WordCtx → Ent → Val → Val → Val → Prop}
    {out f : State → WordCtx → Ent → Val → Val → Val → Act × State} (hexec : exec i s = finish (runSeq s i f)) (hr : Ready s w)
    (h : ∀ u e a b c, Ends u w → e ∈ w.ents → gate s w i e = .go a b c → pre u w e a b c → f u w e a b c = out u w e a b c ∧ Ends (out u w e a b c).2 w
      ∧ (∀ code info, (out u w e a b c).1 ≠ .trap code info) ∧ (∀ v, (out u w e a b c).1 ≠ .put v))
    {acts : List (Ent × Act)} (he : Each s w i pre out w.ents s acts t) : LeavesOn i s t w acts := by
  obtain ⟨hrun, ht, hnt, hst⟩ := runSeq_each (f := f) hr h (Ready.ends hr) he
  exact leavesOn_of ht hst hnt (by rw [hexec, hrun])

theorem doesAll_of_seq {i : Instr} {pre : State → WordCtx → Ent → Val → Val → Val → Prop}
    {out f : State → WordCtx → Ent → Val → Val → Val → Act × State} (hexec : ∀ s, exec i s = finish (runSeq s i f))
    (h : ∀ s u w e a b c, Ready s w → Ends u w → e ∈ w.ents → gate s w i e = .go a b c → pre u w e a b c → f u w e a b c = out u w e a b c
      ∧ Ends (out u w e a b c).2 w ∧ (∀ code info, (out u w e a b c).1 ≠ .trap code info) ∧ (∀ v, (out u w e a b c).1 ≠ .put v)) :
    DoesAll i (fun _ _ => True) pre out := fun s w _ _ hr _ he =>
  (leavesOn_of_each (hexec s) hr (fun u e a b c => h s u w e a b c hr) he).toLeaves

theorem sends_of_seq {i : Instr} {pre : State → WordCtx → Ent → Val → Val → Val → Prop}
    {out f : State → WordCtx → Ent → Val → Val → Val → Act × State} (hexec : ∀ s, exec i s = finish (runSeq s i f))
    (h : ∀ s u w e a b c, Ready s w → Ends u w → e ∈ w.ents → gate s w i e = .go a b c → pre u w e a b c → f u w e a b c = out u w e a b c
      ∧ Ends (out u w e a b c).2 w ∧ (∀ code info, (out u w e a b c).1 ≠ .trap code info) ∧ (∀ v, (out u w e a b c).1 ≠ .put v)) :
    Sends i pre out := fun s w _ _ hr he =>
  leavesOn_of_each (hexec s) hr (fun u e a b c => h s u w e a b c hr) he

/-- A word whose acts depend on the state before it alone leaves the rest of the state to its lanes' settling. -/
theorem sends_of_cross {i : Instr} {pre : State → WordCtx → Ent → Val → Val → Val → Prop} {out : State → WordCtx → Ent → Val → Val → Val → Act × State}
    (f : WordCtx → Ent → Val → Val → Val → Act) (hexec : ∀ s, exec i s = finish (runWord s i f))
    (h : ∀ s w e a b c, out s w e a b c = (f w e a b c, s) ∧ (∀ code info, f w e a b c ≠ .trap code info) ∧ (∀ v, f w e a b c ≠ .put v)) :
    Sends i pre out := by
  intro s w t acts hr he
  have key : ∀ es u acts t, Each s w i pre out es u acts t → t = u ∧ NoTraps acts ∧ (∀ x ∈ acts, x.1 ∈ es)
      ∧ acts = es.map (fun e => (e, crossAct s w i (fun w _ => f w) e)) := by
    intro es u acts t he
    induction he with
    | done u => simp [NoTraps]
    | off e es u t acts hg _ ih =>
      obtain ⟨h1, h2, h3, h4⟩ := ih
      refine ⟨h1, ?_, ?_, ?_⟩
      · intro y hy; rcases List.mem_cons.mp hy with rfl | hy
        · simp
        · exact h2 y hy
      · intro y hy; rcases List.mem_cons.mp hy with rfl | hy
        · simp
        · exact List.mem_cons_of_mem _ (h3 y hy)
      · rw [List.map_cons, ← h4]; simp [crossAct, hg]
    | act e es u t acts a b c hg _ _ ih =>
      obtain ⟨ho, ht, hv⟩ := h u w e a b c
      obtain ⟨h1, h2, h3, h4⟩ := ih
      refine ⟨h1.trans (by rw [ho]), ?_, ?_, ?_⟩
      · intro y hy; rcases List.mem_cons.mp hy with rfl | hy
        · rw [ho]; exact ht
        · exact h2 y hy
      · intro y hy; rcases List.mem_cons.mp hy with rfl | hy
        · simp
        · exact List.mem_cons_of_mem _ (h3 y hy)
      · rw [List.map_cons, ← h4, ho]; simp [crossAct, hg, scalarPoison_of_not_put hv]
  obtain ⟨h1, h2, h3, h4⟩ := key _ _ _ _ he
  subst h1
  refine leavesOn_of (Ready.ends hr) (fun x hx => hr.unstepped _ (h3 x hx)) h2 ?_
  rw [hexec, h4]
  unfold runWord runCross
  rw [hr.ctx]
  rfl

/-! ### Words of global accesses -/

theorem field_fileLanes {α : Type} (g : State → α) (hs : ∀ s core k f, g (s.modSched core k f) = g s)
    (s : State) (tid : Nat) (lids : List Nat) : g (fileLanes s tid lids) = g s := by
  unfold fileLanes
  split
  · rfl
  split
  · rfl
  exact foldl_field g _ (by intros; exact hs _ _ _ _) _ _

theorem wfails_afterLast (s : State) (w : WordCtx) (i : Instr) (acts : List (Ent × Act)) : (afterLast s w i acts).wfails = s.wfails := by
  rw [afterLast, field_fileLanes State.wfails (by intros; rfl)]
  rfl

theorem flights_afterLast (s : State) (w : WordCtx) (i : Instr) (acts : List (Ent × Act)) : (afterLast s w i acts).flights = s.flights := by
  rw [afterLast, field_fileLanes State.flights (by intros; rfl)]
  rfl

/-- What follows a word's settling, where it changes nothing. -/
theorem leaves_of_post {i : Instr} {s u : State} {w : WordCtx} {acts : List (Ent × Act)} (post : State → State) (hu : Ends u w)
    (hstep : ∀ e ∈ acts, e.1.lane.stepping = none) (htrap : NoTraps acts) (hexec : exec i s = finish (post (settle u w i acts)))
    (hpost : ∀ v : State, v.wfails = u.wfails → v.flights = u.flights → post v = v) : Leaves i s u w acts where
  inside h := by
    obtain ⟨t, hteam, hbat⟩ := hu.team
    rw [hexec, settle_inside hu.hits hteam hbat h hstep htrap, hpost (afterWord u w i acts) rfl rfl]
    exact finish_next (by rw [bus_afterWord]; exact hu.bus)
  ends h hd := by
    obtain ⟨t, hteam, hbat⟩ := hu.team
    rw [hexec, (settle_ends hu.hits hteam hbat h hstep htrap).1 hd, hpost _ (wfails_afterLast _ _ _ _) (flights_afterLast _ _ _ _)]
    exact finish_next (by rw [bus_afterLast]; exact hu.bus)

/-- A word of global writes, none of which fails. -/
theorem doesAll_of_store {i : Instr} {pre : State → WordCtx → Ent → Val → Val → Val → Prop}
    {out f : State → WordCtx → Ent → Val → Val → Val → Act × State} (hexec : ∀ s, exec i s = finish (runStore s i f))
    (h : ∀ s u w e a b c, Ready s w → Ends u w → u.wfails = [] → e ∈ w.ents → gate s w i e = .go a b c → pre u w e a b c → f u w e a b c = out u w e a b c
      ∧ Ends (out u w e a b c).2 w ∧ (out u w e a b c).2.wfails = [] ∧ (∀ code info, (out u w e a b c).1 ≠ .trap code info)
      ∧ (∀ v, (out u w e a b c).1 ≠ .put v)) : DoesAll i (fun _ _ => True) pre out := by
  intro s w t acts hr _ he
  obtain ⟨hrun, ⟨ht, hw⟩, hnt, hst⟩ := runSeq_each (f := f) (inv := fun u => Ends u w ∧ u.wfails = []) hr
    (fun u e a b c hi hm hg hp => by
      obtain ⟨h1, h2, h3, h4, h5⟩ := h s u w e a b c hr hi.1 hi.2 hm hg hp
      exact ⟨h1, ⟨h2, h3⟩, h4, h5⟩) ⟨Ready.ends hr, hr.settled.2.1⟩ he
  refine leaves_of_post (fun v => postWrites v w i) ht hst hnt ?_ (fun v hv _ => postWrites_none (hv.trans hw) w i)
  rw [hexec]
  unfold runStore
  rw [hr.ctx, ← hrun]

/-- A word of loads, none of which fails. -/
theorem doesAll_of_load {i : Instr} {pre : State → WordCtx → Ent → Val → Val → Val → Prop}
    {out f : State → WordCtx → Ent → Val → Val → Val → Act × State} (hexec : ∀ s, exec i s = finish (runLoad s i f))
    (h : ∀ s u w e a b c, Ready s w → Ends u w → NoneFailed u w → e ∈ w.ents → gate s w i e = .go a b c → pre u w e a b c → f u w e a b c = out u w e a b c
      ∧ Ends (out u w e a b c).2 w ∧ NoneFailed (out u w e a b c).2 w ∧ (∀ code info, (out u w e a b c).1 ≠ .trap code info)
      ∧ (∀ v, (out u w e a b c).1 ≠ .put v)) : DoesAll i NoneFailed pre out := by
  intro s w t acts hr hs he
  obtain ⟨hrun, ⟨ht, hw⟩, hnt, hst⟩ := runSeq_each (f := f) (inv := fun u => Ends u w ∧ NoneFailed u w) hr
    (fun u e a b c hi hm hg hp => by
      obtain ⟨h1, h2, h3, h4, h5⟩ := h s u w e a b c hr hi.1 hi.2 hm hg hp
      exact ⟨h1, ⟨h2, h3⟩, h4, h5⟩) ⟨Ready.ends hr, hs⟩ he
  refine leaves_of_post (fun v => postLoads v w.group.tid w.core) ht hst hnt ?_ (fun v _ hv => postLoads_none (by rw [hv]; exact hw))
  rw [hexec]
  unfold runLoad
  rw [hr.ctx, ← hrun]

/-! ### What the shared operations leave fit for the word to end -/

/-- A state that differs from a fit one in no team, no firing and no absent address. -/
theorem Ends.of_eq {s t : State} {w : WordCtx} (h : Ends s w) (hb : t.bus = s.bus) (hh : t.hits = s.hits)
    (ht : t.team w.group.tid = s.team w.group.tid) : Ends t w :=
  ⟨hb.trans h.bus, hh.trans h.hits, by rw [ht]; exact h.team⟩

theorem Ends.launch {s : State} {w : WordCtx} (h : Ends s w) (f : Flight) : Ends (launch s f) w := h.of_eq rfl rfl rfl

/-- A change of the lanes, scalars, points or pad of teams that starts no move of a baton. -/
theorem Ends.modTeam {s : State} {w : WordCtx} (h : Ends s w) (tid : Nat) (f : Team → Team) (hf : ∀ t, (f t).batonMove = t.batonMove) :
    Ends (s.modTeam tid f) w := by
  refine ⟨h.bus, h.hits, ?_⟩
  obtain ⟨t, ht, hb⟩ := h.team
  by_cases he : w.group.tid = tid
  · subst he
    exact ⟨f t, by simp [State.team, modTeam_teams, tab_find_upd_same, show Tab.find w.group.tid s.teams = some t from ht], by rw [hf, hb]⟩
  · exact ⟨t, by simpa [State.team, modTeam_teams, tab_find_upd_other _ _ _ _ he] using ht, hb⟩

theorem Ends.modLane {s : State} {w : WordCtx} (h : Ends s w) (tid lid : Nat) (f : Lane → Lane) : Ends (s.modLane tid lid f) w :=
  h.modTeam _ _ (fun _ => rfl)

/-- Translating a pointer changes the TLBs and what addresses without memory were touched. -/
theorem translate_keeps (s : State) (cl ctx ptr : Nat) (acc : Acc) (n : Nat) :
    (translate s cl ctx ptr acc n).2 =
      { s with clusters := (translate s cl ctx ptr acc n).2.clusters, bus := (translate s cl ctx ptr acc n).2.bus } := by
  unfold translate
  dsimp only
  split
  · rfl
  · split
    · rfl
    · cases (walk s ctx (s.mapVa ctx (fld ptr 0 56))).bus <;> cases (walk s ctx (s.mapVa ctx (fld ptr 0 56))).res <;> rfl

theorem Ends.translated {s : State} {w : WordCtx} (h : Ends s w) (acc : Acc) (ptr : DWord) (n : Nat)
    (hb : (translated s w acc ptr n).bus = none) : Ends (translated s w acc ptr n) w := by
  refine ⟨hb, ?_, ?_⟩
  · unfold Sys2Proof.translated; rw [translate_keeps]; exact h.hits
  · unfold Sys2Proof.translated; rw [translate_keeps]; exact h.team

/-- An access that no watchpoint stops goes on. -/
theorem watched_none {s : State} {w : WordCtx} {e : Ent} {rd wr : Bool} {p : DWord} {n : Nat} (h : Unwatched s w e rd wr p n)
    (k : Ent → State → Act × State) : watched s w e rd wr p n k = k e s := by
  unfold watched; rw [show memFiring s w.grid.ctx w.team.tlin e.lid e.lane rd wr (eaVa p) n = [] from h]; rfl

/-- A pointer that reaches memory is translated, for an access that no service holds up. -/
theorem translateOr_reaches {s : State} {w : WordCtx} {acc : Acc} {ptr : DWord} {n pa leaf : Nat} (hr : Reaches s w acc ptr n pa leaf) :
    ∃ big, translateOr s (clusterOf w.core) w.grid.ctx ptr.toNat acc n = (.ok pa leaf big, translated s w acc ptr n) := by
  obtain ⟨big, hm⟩ := hr.maps
  refine ⟨big, ?_⟩
  unfold translateOr
  rw [hr.served, ← hm]
  simp [translated]

/-- A lane's own writes of tags, taken as performed, change the tags alone. -/
theorem withOwnTags_keeps (s : State) (tid lid : Nat) : s.withOwnTags tid lid = { s with tags := (s.withOwnTags tid lid).tags } := by
  have inner : ∀ (l : List Nat) (f : Nat → Nat) (g : Nat → BitVec 4) (s : State),
      l.foldl (fun s i => setTag s (f i) (g i)) s = { s with tags := (l.foldl (fun s i => setTag s (f i) (g i)) s).tags } := by
    intro l f g
    induction l with
    | nil => intro s; rfl
    | cons x t ih => intro s; rw [List.foldl_cons, ih]; simp [setTag]
  have outer : ∀ (l : List (Nat × Flight)) (k : State → Nat × Flight → State), (∀ s e, k s e = { s with tags := (k s e).tags }) → ∀ s : State,
      l.foldl k s = { s with tags := (l.foldl k s).tags } := by
    intro l k hk
    induction l with
    | nil => intro s; rfl
    | cons x t ih => intro s; rw [List.foldl_cons, ih, hk s x]
  unfold State.withOwnTags
  exact outer _ _ (fun s e => inner _ _ _ s) s

/-- A write's translation at its issue changes the TLBs and what addresses without memory were touched. -/
theorem issuedWrite_keeps (s : State) (w : WordCtx) (e : Ent) (acc : Acc) (ptr : DWord) (n : Nat) :
    issuedWrite s w e acc ptr n = { s with clusters := (issuedWrite s w e acc ptr n).clusters, bus := (issuedWrite s w e acc ptr n).bus } := by
  have h : ownView s w e = { s with tags := (ownView s w e).tags } := withOwnTags_keeps s w.group.tid e.lid
  have hk := translate_keeps (ownView s w e) (clusterOf w.core) w.grid.ctx ptr.toNat acc n
  generalize hT : (translate (ownView s w e) (clusterOf w.core) w.grid.ctx ptr.toNat acc n).2 = T at hk
  have hi : issuedWrite s w e acc ptr n = { T with tags := s.tags } := by rw [← hT]; rfl
  rw [hi, hk, h]

theorem Ends.issuedWrite {s : State} {w : WordCtx} (h : Ends s w) (e : Ent) (acc : Acc) (ptr : DWord) (n : Nat)
    (hb : (translate (ownView s w e) (clusterOf w.core) w.grid.ctx ptr.toNat acc n).2.bus = none) : Ends (issuedWrite s w e acc ptr n) w := by
  refine ⟨hb, ?_, ?_⟩
  · rw [issuedWrite_keeps]; exact h.hits
  · rw [issuedWrite_keeps]; exact h.team

/-- A global write that may go out goes out. -/
theorem storeLane_writes {s : State} {w : WordCtx} {e : Ent} {i : Instr} {kind : FKind} {acc : Acc} {ptr g : DWord} {n : Nat} {data : DWord} {late : Bool}
    {pa leaf : Nat} (hr : Reaches (ownView s w e) w acc ptr n pa leaf) (hp : Permitted s w acc ptr n leaf) :
    storeLane s w e i kind acc ptr n data late g = Writes s w e i kind acc ptr n data pa leaf late g := by
  obtain ⟨big, ht⟩ := translateOr_reaches hr
  have hw : translateWrite s w e ptr acc n = (.ok pa leaf big, issuedWrite s w e acc ptr n) := by
    unfold translateWrite
    simp only [ht]
    rfl
  have hout : s.window w.grid.ctx (eaVa ptr) = none := by
    have := hr.outside
    rwa [show ownView s w e = s.withOwnTags w.group.tid e.lid from rfl, withOwnTags_keeps] at this
  have hfr : mustPark (issuedWrite s w e acc ptr n) w = mustPark s w := by
    rw [issuedWrite_keeps]; rfl
  have hun : undeclared (issuedWrite s w e acc ptr n) w.team.lseq (eaVa ptr) n = undeclared s w.team.lseq (eaVa ptr) n := by
    rw [issuedWrite_keeps]; rfl
  have hfl : flightOf (issuedWrite s w e acc ptr n) w e i kind g = flightOf s w e i kind g := by
    rw [issuedWrite_keeps]; rfl
  have how : ∀ e', oweD (issuedWrite s w e acc ptr n) i e' = oweD s i e' := by
    intro e'; rw [issuedWrite_keeps]; rfl
  have hpark : ((!leafVersioned leaf || acc == .tagw) && mustPark s w) = false
      ∧ (leafVersioned leaf && acc != .tagw && undeclared s w.team.lseq (eaVa ptr) n) = false := by
    unfold Permitted at hp
    split at hp
    · next h => simp [h.1, h.2, hp]
    · next h =>
      have : mustPark s w = false := by unfold mustPark; simpa [AtFront] using hp
      rw [this]
      by_cases hv : leafVersioned leaf = true
      · have : acc = .tagw := by by_contra hne; exact h ⟨hv, hne⟩
        simp [this]
      · simp [hv]
  unfold storeLane
  simp only [hout, Option.isSome_none, Bool.false_eq_true, and_false, if_false, hw, hfr, hun, hfl, how, hpark.1, hpark.2]
  rfl

end Sys2Proof.Machine
end

