-- ==== Sys2Proof/Tests/Slice0.lean ====
section
/-! SUPPORT. Tests/Slice0.lean: words of the spec decoded, ill-formed terms refused, a step from reset, and for every obligation with hypotheses
a concrete state and operands that meet them. -/

namespace Sys2Proof.Tests

open Sys2Proof Sys2Proof.Machine

set_option maxRecDepth 100000
set_option Elab.async false


/-! ### Words of the spec's own worked programs, and one word for each class built from its encoding table

The words were written out from R44 to R46 and the tables that give formats, functions and modifiers; those that the chapters print are cited. -/

/-- A guarded `p63` (never false), not negated. -/
def g63 : Guard := ⟨false, 63⟩
def src (n : Nat) : Src := ⟨BitVec.ofNat 8 n, false⟩
def tied (n : Nat) : Src := ⟨BitVec.ofNat 8 n, true⟩

/-- Section 1: `nop` is `!p63 mov`; a movi, an addi under a negated guard and a branch of the worked words. -/
theorem test_decode_chapter1 : decode 0x00000000E0E07F04 = .ok (.mov ⟨true, 63⟩ false 224 (src 224))
    ∧ decode 0x0000010000023F08 = .ok (.movi g63 2 0x100)
    ∧ decode 0xFFFFFFFC0B0B4507 = .ok (.addi ⟨true, 5⟩ 11 11 0xFFFFFFFC)
    ∧ decode 0xFFFFFFFFFCFF0109 = .ok (.bra ⟨false, 1⟩ 255 0xFFFFFFFFFC) := by decide

/-- Section 3, the worked program of R106's chapter. -/
theorem test_decode_chapter3 : decode 0x000000E1E3013F01 = .ok (.and g63 1 (src 0xE3) (src 0xE1))
    ∧ decode 0x000000E001A13F02 = .ok (.icmp g63 false false .eq 161 (src 1) (src 0xE0))
    ∧ decode 0x0000000008FF0109 = .ok (.bra ⟨false, 1⟩ 255 8)
    ∧ decode 0x00000064E3023F07 = .ok (.addi g63 2 0xE3 100)
    ∧ decode 0x00000000E3803F04 = .ok (.mov g63 false 128 (src 0xE3))
    ∧ decode 0x0000008002033F00 = .ok (.add g63 false false 3 (src 2) (src 128))
    ∧ decode 0x0000000000003F0B = .ok (.exit g63) := by decide

/-- Section 4: modifier 0b01010 of fpack is T = e4m3, SAT, no RS. -/
theorem test_decode_fpack : decode 0x0150000201053F13 = .ok (.fpack g63 .e4m3 true false 5 (src 1) (src 2) (src 0)) := by decide

/-- Section 5, the two teams that count themselves done. -/
theorem test_decode_chapter5 : decode 0x0008000402003F27 = .ok (.red g63 .add .i32 (src 2) (src 4) 0)
    ∧ decode 0x0018000000003F28 = .ok (.fence g63 .package)
    ∧ decode 0x005000000609BF20 = .ok (.ld g63 .fresh .b32 9 (src 6) 0)
    ∧ decode 0x00100000020BBF20 = .ok (.ld g63 .dflt .b32 11 (src 2) 0) := by decide

/-- Sections 6 and 7: a poison sent, a store at an offset, a pad store of a pair, a copy and a merge. -/
theorem test_decode_chapters6_7 : decode 0x000000000EA13F30 = .ok (.psnt g63 false 161 (src 14))
    ∧ decode 0x0010400E04003F21 = .ok (.st g63 false .b32 (src 4) (src 14) 64)
    ∧ decode 0x00180908E0003F23 = .ok (.pst g63 .b64 (src 224) (src 8) 9)
    ∧ decode 0x000002E00D14BF40 = .ok (.copy g63 false false true false 20 13)
    ∧ decode 0x000001E00C16BF46 = .ok (.smerge g63 true 22 12) := by decide

/-- Sections 8 and 9: word channels and points. -/
theorem test_decode_chapters8_9 : decode 0x000002E4E0003F54 = .ok (.rput g63 (src 224) (src 228) (src 2))
    ∧ decode 0x000000E0E006BF57 = .ok (.await g63 6 (src 224) (src 224))
    ∧ decode 0x000000E10A0BBF53 = .ok (.stamp g63 11 (src 10) (src 225))
    ∧ decode 0x00000000E00FBF55 = .ok (.rtake g63 15 (src 224))
    ∧ decode 0x000000000A0BBF51 = .ok (.pop g63 false 11 (src 10)) := by decide

/-- Section 15: the words of the debug unit and of the queries. -/
theorem test_decode_chapter15 : decode 0x0000000009003FC0 = .ok (.bkpt g63 (src 9))
    ∧ decode 0x0000000201003FC1 = .ok (.trc g63 (src 1) (src 2))
    ∧ decode 0x000000000604BFC2 = .ok (.ctrr g63 .live 4 (src 6))
    ∧ decode 0x000000040314BFC3 = .ok (.wpset g63 20 3 4)
    ∧ decode 0x000000E00314BFC4 = .ok (.errq g63 20 3)
    ∧ decode 0x0000000006053FC6 = .ok (.featq g63 5 (src 6))
    ∧ decode 0x000000E00316BFC7 = .ok (.idq g63 22 3) := by decide

/-- One word in each of the classes 6 to 0xB and of the floating class, from their tables. -/
theorem test_decode_classes : decode 0x0000000302013F10 = .ok (.fadd g63 false .rn 1 (src 2) (src 3))
    ∧ decode 0x000000E00314BF67 = .ok (.pquery g63 20 3)
    ∧ decode 0x000000E00314BF70 = .ok (.mmul g63 false false false 20 3)
    ∧ decode 0x000000E00314BF80 = .ok (.topk g63 false false 20 3)
    ∧ decode 0x0000000000053F95 = .ok (.tsq g63 5)
    ∧ decode 0x000006050204BFA7 = .ok (.kvx g63 false 4 (src 2) (src 5) (src 6))
    ∧ decode 0x001000000204BFB0 = .ok (.fld g63 .b32 4 (src 2) 0) := by decide

/-- Bit 48 is the trap-if-empty bit of A, bit 49 that of B (R46). -/
theorem test_decode_ties : decode 0x0001000302013F00 = .ok (.add g63 false false 1 (tied 2) (src 3))
    ∧ decode 0x0002000302013F00 = .ok (.add g63 false false 1 (src 2) (tied 3)) := by decide

/-- Words that are no instruction: a class that does not exist, a reserved opcode, an unlisted function, a wrong E, a used-up field. -/
theorem test_reject : decode 0x0000000000003FD0 = .error .clazz
    ∧ decode 0x0000000000003F0F = .error .opcode
    ∧ decode 0xFF00000302013F00 = .error .function
    ∧ decode 0x0000000302013F20 = .error .ebit
    ∧ decode 0x0000010302013F00 = .error .field := by decide

/-! ### A term that each check of well-formedness refuses -/

/-- A 32-bit destination beyond the zero special, a 64-bit destination at an odd register, and one at a predicate. -/
theorem test_wf_destination : (Instr.movi g63 225 0).wf = false ∧ (Instr.mov g63 true 3 (src 2)).wf = false
    ∧ (Instr.mov g63 true 160 (src 2)).wf = false := by decide

/-- Positions that take lane registers only: mkempty of a scalar and of an odd pair, a load's and psnc's destination. -/
theorem test_wf_lane : (Instr.mkempty g63 false 128).wf = false ∧ (Instr.mkempty g63 true 3).wf = false
    ∧ (Instr.ld g63 .dflt .b32 128 (src 2) 0).wf = false ∧ (Instr.psnc g63 false 128).wf = false := by decide

/-- A branch saves its return address in a lane pair or, with code 255, nowhere; brx with code 224. -/
theorem test_wf_link : (Instr.bra g63 224 8).wf = false ∧ (Instr.brx g63 false 255 (src 2) (src 0)).wf = false := by decide

/-- A source code that does not exist, an odd 64-bit source, and a special that is no 64-bit one. -/
theorem test_wf_source : (Instr.add g63 false false 1 (src 254) (src 3)).wf = false
    ∧ (Instr.add64 g63 false false 2 (src 3) (src 4)).wf = false ∧ (Instr.add64 g63 false false 2 (src 225) (src 4)).wf = false := by decide

/-- The parameter-block operand is a lane register or a scalar (R190). -/
theorem test_wf_block : (Instr.copy g63 false false true false 20 160).wf = false := by decide

/-- An operand that is not read holds the code its table names. -/
theorem test_wf_unused : (Instr.gmask g63 .slot 1 (src 5)).wf = false ∧ (Instr.cpq g63 true 20 3 4).wf = false := by decide

/-- The trap-if-empty bit stands on a lane register only (R49). -/
theorem test_wf_tie : (Instr.add g63 false false 1 (tied 128) (src 3)).wf = false
    ∧ (Instr.add g63 false false 1 (tied 127) (src 3)).wf = true := by decide

/-- Settings that the tables do not list. -/
theorem test_wf_listed : (Instr.st g63 false .i8 (src 2) (src 4) 0).wf = false ∧ (Instr.rmw g63 .cas .n32 1 (src 2) (src 4) 0).wf = false
    ∧ (Instr.red g63 .exch .b32 (src 2) (src 4) 0).wf = false ∧ (Instr.ldp g63 24 (src 2) (src 4)).wf = false
    ∧ (Instr.copy g63 false true false false 20 2).wf = false ∧ (Instr.fpack g63 .f16 false true 1 (src 2) (src 3) (src 4)).wf = false
    ∧ (Instr.funpk g63 .bf16 true 1 (src 2) (src 3) (src 4)).wf = false
    ∧ (Instr.frmw g63 .fadd true 2 (src 4) (src 6) 0).wf = false := by decide

/-! ### One step from reset with a word placed -/

/-- Whether the step goes on, having issued the word. -/
def issues (w : Nat) : Bool :=
  match step (State.reset.withFetchWord 64 w) with
  | .next t => decide ((t.sched 0 0).issued = 1)
  | .fault _ => false
  | .refused _ => false

theorem test_step_issues : issues 0x0000000302013F00 = true ∧ issues 0x0000000000003F0B = true
    ∧ issues 0x000000E00314BF70 = true := by decide +kernel

/-- `movi v2, #0x100` leaves 0x100 in v2 (R97). -/
theorem test_step_movi : (match step (State.reset.withFetchWord 64 0x0000010000023F08) with
    | .next t => t.teams.any (fun p => decide (((nth {} p.2.lanes 0).reg 2).v = 0x100))
    | _ => false) = true := by decide +kernel

/-! ### Words placed for a witness -/

/-- A team of one lane with 128 registers and the largest pad, whose group has fetched a clause under the header `hdr`; page 0 is mapped by a leaf in
the TLB, and every feature may be used. -/
def stand (hdr leaf : DWord) (i : Instr) : State :=
  { State.reset with
    ids := 3
    cur := ⟨0, 2⟩
    ctxs := [(0, { st := .ready })]
    grids := [(1, { ctx := 0, lrec := { lanes32 := [1, 0, 0, 0], regs8 := [16, 0, 0, 0], padb := 65536 }, next := 1 })]
    teams := [(1, { lseq := 1, tlin := 0, loc := .resident 0 0, padb := 65536, lanes := [{ slot := some 0, regs := List.replicate 128 {}, preds := List.replicate 63 {} }] })]
    cores := [(0, { scheds := [{ groups := [⟨2, 1, 0, hdr, [encode i], 0, [(0, 0)], 0, 0, false, false, false⟩] }, {}, {}, {}] })]
    clusters := [(0, { tlb := [⟨0, 0, false, leaf⟩] })]
    sys := { featAcc := 7 } }

/-- The word in slot 0 of a clause of four words. -/
def inside (i : Instr) : State := stand 3 0x17 i

/-- The same on a page whose leaf is that of entry 0 of endpoint 1, whose route is up. -/
def abroad (i : Instr) : State := (stand 3 (0x203 + 2 ^ 42) i).modFabDie 0 (fun d => { d with peers := [(1, true, true)] })

/-- The last word of a clause with REFORM. -/
def last (i : Instr) : State := stand 0x100 0x17 i

/-- Lane 0 holding values in its registers. -/
def holding (vs : List (Nat × Nat)) (s : State) : State :=
  s.modLane 1 0 (fun l => vs.foldl (fun l p => l.setReg p.1 (BitVec.ofNat 32 p.2) false) l)

/-- A second lane of the team, in slot 1 of the group. -/
def two (s : State) : State :=
  (s.modTeam 1 (fun t => { t with lanes := t.lanes ++ [{ rlid := 1, slot := some 0, regs := List.replicate 128 {}, preds := List.replicate 63 {} }] })).modSched 0 0
    (fun x => { x with groups := x.groups.map (fun g => { g with lanes := [(0, 0), (1, 1)] }) })

def readyB (s : State) (w : WordCtx) : Bool :=
  decide ((w.group.lanes.map Prod.snd).Nodup) && w.group.lanes.all (fun p => decide (p.2 < w.team.lanes.length))
    && w.ents.all (fun e => e.lane.stepping.isNone) && w.team.batonMove.isNone && s.bus.isNone && s.wfails.isEmpty && s.hits.isEmpty

theorem ready_of {s : State} {w : WordCtx} (hw : s.wordCtx = some w) (h : readyB s w = true) : Ready s w := by
  simp only [readyB, Bool.and_eq_true, List.all_eq_true, decide_eq_true_eq, Option.isNone_iff_eq_none, List.isEmpty_iff] at h
  obtain ⟨⟨⟨⟨⟨⟨h1, h2⟩, h3⟩, h4⟩, h5⟩, h6⟩, h7⟩ := h
  exact ⟨hw, h1, h2, h3, h4, h5, h6, h7⟩

/-- Whether a ready group of one lane executes its word, and `p` holds of it. -/
def runs (s : State) (i : Instr) (p : State → WordCtx → Ent → Val → Val → Val → Bool) : Bool :=
  match s.wordCtx with
  | some w => match w.ents with
    | [e] => match gate s w i e with
      | .go a b c => readyB s w && p s w e a b c
      | _ => false
    | _ => false
  | none => false

theorem single_of {s : State} {i : Instr} {p : State → WordCtx → Ent → Val → Val → Val → Bool} (h : runs s i p = true) :
    ∃ w e a b c, Single s w i e a b c ∧ p s w e a b c = true := by
  unfold runs at h
  split at h
  · rename_i w hw
    split at h
    · rename_i e he
      split at h
      · rename_i a b c hg
        simp only [Bool.and_eq_true] at h
        exact ⟨w, e, a, b, c, ⟨ready_of hw h.1, he, hg⟩, h.2⟩
      · cases h
    · cases h
  · cases h

/-- Some state meets the hypotheses of a statement about one lane's word inside a clause. -/
def Met (i : Instr) (pre : State → WordCtx → Ent → Val → Val → Val → Prop) : Prop :=
  ∃ s w e a b c, Alone s w i e a b c ∧ pre s w e a b c

/-- The same at the end of a clause, where the group dissolves. -/
def MetLast (i : Instr) (pre : State → WordCtx → Ent → Val → Val → Val → Prop) : Prop :=
  ∃ s w e a b c, (Single s w i e a b c ∧ ¬ w.group.slot < hdrCount w.group.hdr ∧ ∀ t j acts, Dissolves t w j acts) ∧ pre s w e a b c

/-- A group whose clause has REFORM dissolves. -/
theorem dissolves_of {w : WordCtx} (h : hdrReform w.group.hdr = true) (t : State) (j : Instr) (acts : List (Ent × Act)) : Dissolves t w j acts :=
  fun _ _ hc => by have := hc.reform; rw [h] at this; cases this

theorem MetLast.imp {i : Instr} {p q : State → WordCtx → Ent → Val → Val → Val → Prop} (h : MetLast i p)
    (hi : ∀ s w e a b c, p s w e a b c → q s w e a b c) : MetLast i q := by
  obtain ⟨s, w, e, a, b, c, hs, hp⟩ := h
  exact ⟨s, w, e, a, b, c, hs, hi _ _ _ _ _ _ hp⟩

theorem met_of {i : Instr} {pre : State → WordCtx → Ent → Val → Val → Val → Prop} (dec : ∀ s w e a b c, Decidable (pre s w e a b c)) (st : Instr → State)
    (h : runs (st i) i (fun s w e a b c => decide (w.group.slot < hdrCount w.group.hdr ∧ pre s w e a b c)) = true) : Met i pre := by
  obtain ⟨w, e, a, b, c, hs, hp⟩ := single_of h
  have hp := of_decide_eq_true hp
  exact ⟨st i, w, e, a, b, c, ⟨hs, hp.1⟩, hp.2⟩

theorem met_last_of {i : Instr} {pre : State → WordCtx → Ent → Val → Val → Val → Prop} (dec : ∀ s w e a b c, Decidable (pre s w e a b c))
    (st : Instr → State) (h : runs (st i) i (fun s w e a b c =>
      decide ((¬ w.group.slot < hdrCount w.group.hdr ∧ hdrReform w.group.hdr = true) ∧ pre s w e a b c)) = true) : MetLast i pre := by
  obtain ⟨w, e, a, b, c, hs, hp⟩ := single_of h
  have hp := of_decide_eq_true hp
  exact ⟨st i, w, e, a, b, c, ⟨hs, hp.1.1, dissolves_of hp.1.2⟩, hp.2⟩

theorem mets_of {pre : State → WordCtx → Ent → Val → Val → Val → Prop} (dec : ∀ s w e a b c, Decidable (pre s w e a b c)) (st : Instr → State)
    (l : List Instr) (h : l.all (fun i => runs (st i) i (fun s w e a b c => decide (w.group.slot < hdrCount w.group.hdr ∧ pre s w e a b c))) = true) :
    ∀ i ∈ l, Met i pre :=
  fun i hi => met_of dec st (List.all_eq_true.mp h i hi)

/-- What one lane meets, a group of that lane meets. -/
theorem Met.each {i : Instr} {pre : State → WordCtx → Ent → Val → Val → Val → Prop} (h : Met i pre)
    (out : State → WordCtx → Ent → Val → Val → Val → Act × State) : ∃ s w acts t, Ready s w ∧ Each s w i pre out w.ents s acts t := by
  obtain ⟨s, w, e, a, b, c, hs, hp⟩ := h
  exact ⟨s, w, _, _, hs.toReady, by rw [hs.one]; exact .act e [] s _ _ a b c hs.runs hp (.done _)⟩

/-- Whether the lanes of a group meet the hypotheses of a statement about several lanes, one after another. -/
def walks (s : State) (w : WordCtx) (i : Instr) (pre : State → WordCtx → Ent → Val → Val → Val → Bool)
    (out : State → WordCtx → Ent → Val → Val → Val → Act × State) : List Ent → State → Bool
  | [], _ => true
  | e :: es, u => match gate s w i e with
    | .off => walks s w i pre out es u
    | .go a b c => pre u w e a b c && walks s w i pre out es (out u w e a b c).2
    | _ => false

theorem each_of {s : State} {w : WordCtx} {i : Instr} {pre : State → WordCtx → Ent → Val → Val → Val → Prop}
    {out : State → WordCtx → Ent → Val → Val → Val → Act × State} (dec : ∀ s w e a b c, Decidable (pre s w e a b c)) :
    ∀ es u, walks s w i (fun s w e a b c => decide (pre s w e a b c)) out es u = true → ∃ acts t, Each s w i pre out es u acts t := by
  intro es
  induction es with
  | nil => intro u _; exact ⟨_, _, .done u⟩
  | cons e es ih =>
    intro u h
    unfold walks at h
    split at h
    · next hg => obtain ⟨acts, t, he⟩ := ih u h; exact ⟨_, _, .off e es u t acts hg he⟩
    · next a b c hg =>
      simp only [Bool.and_eq_true] at h
      obtain ⟨acts, t, he⟩ := ih _ h.2
      exact ⟨_, _, .act e es u t acts a b c hg (of_decide_eq_true h.1) he⟩
    · cases h

/-- A group of two lanes meets them. -/
def MetTwo (i : Instr) (pre : State → WordCtx → Ent → Val → Val → Val → Prop) (out : State → WordCtx → Ent → Val → Val → Val → Act × State) : Prop :=
  ∃ s w acts t, Ready s w ∧ w.ents.length = 2 ∧ NoneFailed s w ∧ Each s w i pre out w.ents s acts t

theorem met_two_of {i : Instr} {pre : State → WordCtx → Ent → Val → Val → Val → Prop} {out : State → WordCtx → Ent → Val → Val → Val → Act × State}
    (dec : ∀ s w e a b c, Decidable (pre s w e a b c)) (s : State)
    (h : (match s.wordCtx with
      | some w => readyB s w && decide (w.ents.length = 2) && s.flights.isEmpty && walks s w i (fun s w e a b c => decide (pre s w e a b c)) out w.ents s
      | none => false) = true) : MetTwo i pre out := by
  split at h
  · next w hw =>
    simp only [Bool.and_eq_true, decide_eq_true_eq, List.isEmpty_iff] at h
    obtain ⟨⟨⟨h1, h2⟩, h3⟩, h4⟩ := h
    obtain ⟨acts, t, he⟩ := each_of dec _ _ h4
    exact ⟨s, w, acts, t, ready_of hw h1, h2, (fun f hf => by rw [h3] at hf; cases hf), he⟩
  · cases h

def reachesDec (s : State) (w : WordCtx) (acc : Acc) (ptr : DWord) (n pa leaf : Nat) : Decidable (Reaches s w acc ptr n pa leaf) :=
  decidable_of_iff (s.window w.grid.ctx (eaVa ptr) = none ∧ s.svc w.grid.ctx (s.pageAt w.grid.ctx ptr.toNat) = none
    ∧ (∃ big, (translate s (clusterOf w.core) w.grid.ctx ptr.toNat acc n).1 = .ok pa leaf big)
    ∧ (translate s (clusterOf w.core) w.grid.ctx ptr.toNat acc n).2.bus = none) ⟨fun h => ⟨h.1, h.2.1, h.2.2.1, h.2.2.2⟩, fun h => ⟨h.1, h.2, h.3, h.4⟩⟩

def leavesDec (s : State) (w : WordCtx) (acc : Acc) (ptr : DWord) (n leaf : Nat) (big : Bool) : Decidable (LeavesPackage s w acc ptr n leaf big) :=
  decidable_of_iff (s.window w.grid.ctx (eaVa ptr) = none ∧ (translate s (clusterOf w.core) w.grid.ctx ptr.toNat acc n).1 = .fail 2 (some (leaf, big))
    ∧ (translate s (clusterOf w.core) w.grid.ctx ptr.toNat acc n).2.bus = none ∧ s.routeUp (dieOf w.core) (fld leaf 42 10) = true)
    ⟨fun h => ⟨h.1, h.2.1, h.2.2.1, h.2.2.2⟩, fun h => ⟨h.1, h.2, h.3, h.4⟩⟩

def unfailed : FStage → Bool
  | .fail _ => false
  | _ => true

theorem unfailed_iff (x : FStage) : unfailed x = true ↔ ∀ c, x ≠ .fail c := by
  cases x <;> simp [unfailed]

def noneFailedDec (s : State) (w : WordCtx) : Decidable (NoneFailed s w) :=
  decidable_of_iff (∀ f ∈ s.flights, f.2.tid = w.group.tid → unfailed f.2.stage = true)
    ⟨fun h f hf ht => (unfailed_iff _).mp (h f hf ht), fun h f hf ht => (unfailed_iff _).mpr (h f hf ht)⟩

abbrev always : Guard := ⟨false, 63⟩

/-- A team's queue 0 of depth 2, in the package pool's first units. -/
def hole : Pigeon := { scope := 0, owner := 1, num := 0, ctx := 0, kind := 0, depth := 2 }

/-- It with a slot reserved, and with one entry. -/
def holeResv : Pigeon := { hole with resv := 1 }
def holeFull : Pigeon := { hole with resv := 2 }
def holeOne : Pigeon := { hole with entries := [⟨0, false⟩] }

/-- A rack of two slots, and it with its last slot full. -/
def rack : Pigeon := { hole with kind := 2 }
def rackOne : Pigeon := { rack with slots := [(1, ⟨0, false⟩)] }

/-- A collection point of one arrival. -/
def spot : Point := { expect := 1, dflt := 1 }

/-- A lane that sends a courier write to its own register 127, and bumps the team's point 31. -/
def courierState (i : Instr) : State :=
  holding [(2, 127 * 1024 + 31 * 131072)] ((inside i).modTeam 1 (fun t => { t with points := [(31, spot)] }))


/-- A copy in the L1 level of core 0: of the last bytes of sector 0 of context 0. -/
def copyOf : Copy := ⟨0, 0, 0, 0, List.replicate 124 0 ++ [1, 2, 3, 4], 5, 0x17, [], 0⟩

def caching (s : State) : State := s.modCore 0 (fun c => { c with l1 := [copyOf] })

/-- A team of the grid that is saved. -/
def farTeam : Team := { lseq := 1, tlin := 1, loc := .saved, lanes := [{ regs := [{}] }] }

theorem witness_IndexedMoves_1 : ∃ (g : Guard) (wide : Bool) (d : Code) (a : Src), Met (.movx g wide d a) (fun _ _ e x _ _ => x.poison = false ∧ indexBad wide e.lane x.lo.toNat = false ∧ (∀ k ∈ indexRegs wide x.lo.toNat, (e.lane.reg k).st = .full) ∧ (isScal d.toNat = true → ∀ k ∈ indexRegs wide x.lo.toNat, (e.lane.reg k).poison = false)) :=
  ⟨always, false, 159, ⟨2, false⟩, by exact met_of (fun _ _ _ _ _ _ => inferInstance) (fun i => holding [(2, 127)] (inside i)) (by decide +kernel)⟩

theorem witness_IndexedMoves_2 : ∃ (g : Guard) (wide : Bool) (a : Src) (b : Src), Met (.movxw g wide a b) (fun _ _ e x _ _ => e.lane.regs.length ≤ 128 ∧ x.poison = false ∧ indexBad wide e.lane x.lo.toNat = false ∧ ∀ k ∈ indexRegs wide x.lo.toNat, (e.lane.reg k).st.isPend = false) :=
  ⟨always, true, ⟨2, false⟩, ⟨4, false⟩, by exact met_of (fun _ _ _ _ _ _ => inferInstance) (fun i => holding [(2, 126)] (inside i)) (by decide +kernel)⟩

theorem witness_IndexedMoves_3 : ∃ (g : Guard) (wide : Bool) (d : Code), Met (.mkempty g wide d) (fun s w e _ _ _ => ∀ c ∈ s.couriers, ¬ (c.2.tid = w.group.tid ∧ c.2.lid = e.lid)) :=
  ⟨always, true, 126, by exact met_of (fun _ _ _ _ _ _ => inferInstance) (fun i => inside i) (by decide +kernel)⟩

theorem witness_LaneOnlyWords_1 : ∃ (g : Guard) (wide : Bool) (d : Code), Met (.psnc g wide d) (fun _ _ _ _ _ _ => True) :=
  ⟨always, false, 222, by exact met_of (fun _ _ _ _ _ _ => inferInstance) (fun i => inside i) (by decide +kernel)⟩

theorem witness_LaneOnlyWords_2 : ∃ (g : Guard) (len : LLen), Met (.lease g len) (fun _ _ _ _ _ _ => True) :=
  ⟨always, .l4096, by exact met_of (fun _ _ _ _ _ _ => inferInstance) (fun i => inside i) (by decide +kernel)⟩

theorem witness_LaneOnlyWords_3 : ∃ (g : Guard), Met (.fenceLd g) (fun _ _ _ _ _ _ => True) :=
  ⟨always, by exact met_of (fun _ _ _ _ _ _ => inferInstance) (fun i => inside i) (by decide +kernel)⟩

theorem witness_Transfers_1 : ∃ (g : Guard) (d : Code) (off : BitVec 40), MetLast (.bra g d off) (fun _ _ _ _ _ _ => True) :=
  ⟨always, 10, 0, by exact met_last_of (fun _ _ _ _ _ _ => inferInstance) (fun i => last i) (by decide +kernel)⟩

theorem witness_Transfers_2 : ∃ (g : Guard) (d : Code) (a : Src) (b : Src), MetLast (.brx g false d a b) (fun _ _ _ x _ _ => x.poison = false ∧ (x.d.extractLsb' 0 56).toNat % 8 = 0) :=
  ⟨always, 10, ⟨2, false⟩, ⟨4, false⟩, by exact met_last_of (fun _ _ _ _ _ _ => inferInstance) (fun i => holding [(2, 8)] (last i)) (by decide +kernel)⟩

theorem witness_Transfers_3 : ∃ (g : Guard), MetLast (.exit g) (fun s w e _ _ _ => ∀ c ∈ s.couriers, ¬ (c.2.tid = w.group.tid ∧ c.2.lid = e.lid)) :=
  ⟨always, by exact met_last_of (fun _ _ _ _ _ _ => inferInstance) (fun i => last i) (by decide +kernel)⟩

/-- Two lanes of one branch, and of one exit. -/
theorem witness_Transfers_two : MetTwo (.bra always 10 0) (fun _ _ _ _ _ _ => True)
      (fun s w e _ _ _ => (.jump { e.lane.link 10 (fallThrough w.group.h w.group.hdr) with h := w.group.h + BitVec.ofInt 56 (8 * (0 : BitVec 40).toInt), slot := none }, s))
    ∧ MetTwo (.exit always) (fun s w e _ _ _ => ∀ c ∈ s.couriers, ¬ (c.2.tid = w.group.tid ∧ c.2.lid = e.lid))
      (fun s _ e _ _ _ => (.leave { e.lane with exited := true }, s)) :=
  ⟨met_two_of (fun _ _ _ _ _ _ => inferInstance) (two (last (.bra always 10 0))) (by decide +kernel),
    met_two_of (fun _ _ _ _ _ _ => inferInstance) (two (last (.exit always))) (by decide +kernel)⟩

/-- Two lanes that store to the pad, and two that store to memory. -/
theorem witness_PadWords_two : MetTwo (.pst always .b32 ⟨2, false⟩ ⟨4, false⟩ 0) (fun s w e x y _ => x.poison = false ∧ y.poison = false
      ∧ padOff x.lo 0 (szBytes .b32) % szBytes .b32 = 0 ∧ padOff x.lo 0 (szBytes .b32) + szBytes .b32 ≤ w.team.padb ∧ NoLdp s w e)
    (fun s w e x y _ => (.off, padWrite s w.group.tid (some (e.lid, s.ids)) (padOff x.lo 0 (szBytes .b32)) (leBytes (szBytes .b32) y.d.toNat))) :=
  met_two_of (fun _ _ _ _ _ _ => inferInstance) (two (inside (.pst always .b32 ⟨2, false⟩ ⟨4, false⟩ 0))) (by decide +kernel)

theorem witness_LoadWords_two : MetTwo (.xlq always false true 10 ⟨2, false⟩) (fun s w _ x _ _ => x.poison = true ∨ Reaches s w .wr x.d 1 0 0x17)
    (fun s w e x _ _ => if x.poison then deliverLater s w e (.xlq always false true 10 ⟨2, false⟩) ⟨0, 0, true, true⟩
      else (oweD s (.xlq always false true 10 ⟨2, false⟩) e, launch (translated s w .wr x.d 1) (flightOf s w e (.xlq always false true 10 ⟨2, false⟩) (.xlq false true) x.d))) := by
  let := reachesDec
  exact met_two_of (fun _ _ _ _ _ _ => inferInstance) (two (inside (.xlq always false true 10 ⟨2, false⟩))) (by decide +kernel)

theorem witness_StoreWords_two : MetTwo (.st always false .b32 ⟨2, false⟩ ⟨4, false⟩ 0) (fun s w e x y _ => x.poison = false ∧ y.poison = false
      ∧ eaVa (eaOf x.d 0 (szBytes .b32)) % szBytes .b32 = 0 ∧ Unwatched s w e false true (eaOf x.d 0 (szBytes .b32)) (szBytes .b32)
      ∧ Reaches (ownView s w e) w .wr (eaOf x.d 0 (szBytes .b32)) (szBytes .b32) 0 0x17 ∧ Permitted s w .wr (eaOf x.d 0 (szBytes .b32)) (szBytes .b32) 0x17)
    (fun s w e x y _ => Writes s w e (.st always false .b32 ⟨2, false⟩ ⟨4, false⟩ 0) (.st .b32) .wr (eaOf x.d 0 (szBytes .b32)) (szBytes .b32) y.d 0 0x17 false) := by
  let := reachesDec
  exact met_two_of (fun _ _ _ _ _ _ => inferInstance) (two (inside (.st always false .b32 ⟨2, false⟩ ⟨4, false⟩ 0))) (by decide +kernel)

theorem witness_PadWords_1 : ∃ (g : Guard) (sz : Sz) (d : Code) (a : Src) (off : BitVec 8), Met (.pld g sz d a off) (fun s w e x _ _ => x.pl = true ∨ (padOff x.lo off (szBytes sz) % szBytes sz = 0 ∧ padOff x.lo off (szBytes sz) + szBytes sz ≤ w.team.padb ∧ NoLdp s w e)) :=
  ⟨always, .b32, 10, ⟨2, false⟩, 0, by exact met_of (fun _ _ _ _ _ _ => inferInstance) (fun i => holding [(2, 65532)] (inside i)) (by decide +kernel)⟩

theorem witness_PadWords_2 : ∃ (g : Guard) (sz : Sz) (a : Src) (b : Src) (off : BitVec 8), Met (.pst g sz a b off) (fun s w e x y _ => x.poison = false ∧ y.poison = false ∧ padOff x.lo off (szBytes sz) % szBytes sz = 0 ∧ padOff x.lo off (szBytes sz) + szBytes sz ≤ w.team.padb ∧ NoLdp s w e) :=
  ⟨always, .b64, ⟨2, false⟩, ⟨4, false⟩, 0, by exact met_of (fun _ _ _ _ _ _ => inferInstance) (fun i => holding [(2, 65528)] (inside i)) (by decide +kernel)⟩

theorem witness_PadWords_3 : ∃ (g : Guard) (fn : AFn) (ty : Ty) (d : Code) (a : Src) (b : Src) (off : BitVec 8), Met (.prmw g fn ty d a b off) (fun s w e x y _ => x.poison = false ∧ y.poison = false ∧ padOff x.lo off (tyBytes ty) % tyBytes ty = 0 ∧ padOff x.lo off (tyBytes ty) + tyBytes ty ≤ w.team.padb ∧ NoLdp s w e) :=
  ⟨always, .cas, .n64, 10, ⟨2, false⟩, ⟨4, false⟩, 0, by exact met_of (fun _ _ _ _ _ _ => inferInstance) (fun i => holding [(2, 65528)] (inside i)) (by decide +kernel)⟩

theorem witness_PadWords_4 : ∃ (g : Guard) (sz : Sz) (d : Code) (a : Src) (off : BitVec 8), Met (.pld g sz d a off) (fun s w e x _ _ => x.pl = true ∨ (padOff x.lo off (szBytes sz) % szBytes sz = 0 ∧ padOff x.lo off (szBytes sz) + szBytes sz ≤ w.team.padb ∧ NoLdp s w e)) :=
  ⟨always, .b32, 10, ⟨2, false⟩, 0, by exact met_of (fun _ _ _ _ _ _ => inferInstance) (fun i => (inside i).modLane 1 0 (fun l => l.setReg 2 0 true)) (by decide +kernel)⟩

theorem witness_LoadWords_1 : ∃ (g : Guard) (h : Hint) (sz : Sz) (d : Code) (a : Src) (off : BitVec 8) (pa leaf : Ent → Nat) (bytes : Ent → List Byte) (c : Ent → Copy), Met (.ld g h sz d a off) (fun s w e x _ _ => NoneFailed s w ∧ (x.poison = true ∨ (eaVa (eaOf x.d off (szBytes sz)) % szBytes sz = 0 ∧ Unwatched s w e true false (eaOf x.d off (szBytes sz)) (szBytes sz) ∧ ((hitNow s w e h (eaOf x.d off (szBytes sz)) (szBytes sz) = none ∧ Reaches s w .ld (eaOf x.d off (szBytes sz)) (szBytes sz) (pa e) (leaf e)) ∨ (hitNow s w e h (eaOf x.d off (szBytes sz)) (szBytes sz) = some (.ok (bytes e, c e)) ∧ s.window w.grid.ctx (eaVa (eaOf x.d off (szBytes sz))) = none))))) :=
  ⟨always, .dflt, .b32, 10, ⟨2, false⟩, 0, fun _ => 65532, fun _ => 0x17, fun _ => [], fun _ => copyOf, by let := reachesDec; let := noneFailedDec; exact met_of (fun _ _ _ _ _ _ => inferInstance) (fun i => holding [(2, 65532)] (inside i)) (by decide +kernel)⟩

theorem witness_LoadWords_2 : ∃ (g : Guard) (h : Hint) (sz : Sz) (d : Code) (a : Src) (off : BitVec 8) (pa leaf : Ent → Nat) (bytes : Ent → List Byte) (c : Ent → Copy), Met (.ld g h sz d a off) (fun s w e x _ _ => NoneFailed s w ∧ (x.poison = true ∨ (eaVa (eaOf x.d off (szBytes sz)) % szBytes sz = 0 ∧ Unwatched s w e true false (eaOf x.d off (szBytes sz)) (szBytes sz) ∧ ((hitNow s w e h (eaOf x.d off (szBytes sz)) (szBytes sz) = none ∧ Reaches s w .ld (eaOf x.d off (szBytes sz)) (szBytes sz) (pa e) (leaf e)) ∨ (hitNow s w e h (eaOf x.d off (szBytes sz)) (szBytes sz) = some (.ok (bytes e, c e)) ∧ s.window w.grid.ctx (eaVa (eaOf x.d off (szBytes sz))) = none))))) :=
  ⟨always, .dflt, .b32, 10, ⟨2, false⟩, 0, fun _ => 0, fun _ => 0x17, fun _ => [], fun _ => copyOf, by let := reachesDec; let := noneFailedDec; exact met_of (fun _ _ _ _ _ _ => inferInstance) (fun i => (inside i).modLane 1 0 (fun l => l.setReg 2 0 true)) (by decide +kernel)⟩

theorem witness_LoadWords_3 : ∃ (g : Guard) (pt : BitVec 5) (a : Src) (b : Src) (pa leaf : Ent → Nat), Met (.ldp g pt a b) (fun s w e x y _ => NoneFailed s w ∧ (x.poison = true ∨ y.pl = true ∨ (eaVa (eaOf x.d 0 16) % 16 = 0 ∧ y.lo.toNat % 16 = 0 ∧ y.lo.toNat + 16 ≤ w.team.padb ∧ Unwatched s w e true false (eaOf x.d 0 16) 16 ∧ hitNow s w e .dflt (eaOf x.d 0 16) 16 = none ∧ Reaches s w .ld (eaOf x.d 0 16) 16 (pa e) (leaf e)))) :=
  ⟨always, 31, ⟨2, false⟩, ⟨4, false⟩, fun _ => 16, fun _ => 0x17, by let := reachesDec; let := noneFailedDec; exact met_of (fun _ _ _ _ _ _ => inferInstance) (fun i => holding [(2, 16), (4, 65520)] ((inside i).modTeam 1 (fun t => { t with points := [(31, { expect := 1, dflt := 1 })] }))) (by decide +kernel)⟩

theorem witness_LoadWords_4 : ∃ (g : Guard) (lvl : Lvl) (a : Src) (off : BitVec 8) (pa leaf : Ent → Nat), Met (.pref g lvl a off) (fun s w e x _ _ => x.poison = true ∨ Reaches s w .rd (eaOf x.d off 128) 1 (pa e) (leaf e)) :=
  ⟨always, .l1, ⟨2, false⟩, 0, fun _ => 128, fun _ => 0x17, by let := reachesDec; let := noneFailedDec; exact met_of (fun _ _ _ _ _ _ => inferInstance) (fun i => holding [(2, 128)] (inside i)) (by decide +kernel)⟩

theorem witness_LoadWords_5 : ∃ (g : Guard) (q : Bool) (wr : Bool) (d : Code) (a : Src) (pa leaf : Ent → Nat), Met (.xlq g q wr d a) (fun s w e x _ _ => x.poison = true ∨ Reaches s w (if wr then .wr else .rd) x.d 1 (pa e) (leaf e)) :=
  ⟨always, false, true, 10, ⟨2, false⟩, fun _ => 0, fun _ => 0x17, by let := reachesDec; let := noneFailedDec; exact met_of (fun _ _ _ _ _ _ => inferInstance) (fun i => inside i) (by decide +kernel)⟩

theorem witness_LoadWords_6 : ∃ (g : Guard) (d : Code) (a : Src) (pa leaf : Ent → Nat), Met (.tagr g d a) (fun s w e x _ _ => NoneFailed s w ∧ (x.poison = true ∨ (Unwatched s w e true false (tagBlock x.d) 256 ∧ Reaches s w .tagr (tagBlock x.d) 256 (pa e) (leaf e)))) :=
  ⟨always, 10, ⟨2, false⟩, fun _ => 256, fun _ => 0x17, by let := reachesDec; let := noneFailedDec; exact met_of (fun _ _ _ _ _ _ => inferInstance) (fun i => holding [(2, 256)] (inside i)) (by decide +kernel)⟩

theorem witness_LoadWords_7 : ∃ (g : Guard) (h : Hint) (sz : Sz) (d : Code) (a : Src) (off : BitVec 8) (pa leaf : Ent → Nat) (bytes : Ent → List Byte) (c : Ent → Copy), Met (.ld g h sz d a off) (fun s w e x _ _ => NoneFailed s w ∧ (x.poison = true ∨ (eaVa (eaOf x.d off (szBytes sz)) % szBytes sz = 0 ∧ Unwatched s w e true false (eaOf x.d off (szBytes sz)) (szBytes sz) ∧ ((hitNow s w e h (eaOf x.d off (szBytes sz)) (szBytes sz) = none ∧ Reaches s w .ld (eaOf x.d off (szBytes sz)) (szBytes sz) (pa e) (leaf e)) ∨ (hitNow s w e h (eaOf x.d off (szBytes sz)) (szBytes sz) = some (.ok (bytes e, c e)) ∧ s.window w.grid.ctx (eaVa (eaOf x.d off (szBytes sz))) = none))))) :=
  ⟨always, .dflt, .b32, 10, ⟨2, false⟩, 0, fun _ => 0, fun _ => 0x17, fun _ => [1, 2, 3, 4], fun _ => copyOf, by let := reachesDec; let := noneFailedDec; exact met_of (fun _ _ _ _ _ _ => inferInstance) (fun i => holding [(2, 124)] (caching (inside i))) (by decide +kernel)⟩

theorem witness_LoadWords_8 : ∃ (g : Guard) (pt : BitVec 5) (a : Src) (b : Src) (pa leaf : Ent → Nat), Met (.ldp g pt a b) (fun s w e x y _ => NoneFailed s w ∧ (x.poison = true ∨ y.pl = true ∨ (eaVa (eaOf x.d 0 16) % 16 = 0 ∧ y.lo.toNat % 16 = 0 ∧ y.lo.toNat + 16 ≤ w.team.padb ∧ Unwatched s w e true false (eaOf x.d 0 16) 16 ∧ hitNow s w e .dflt (eaOf x.d 0 16) 16 = none ∧ Reaches s w .ld (eaOf x.d 0 16) 16 (pa e) (leaf e)))) :=
  ⟨always, 31, ⟨2, false⟩, ⟨4, false⟩, fun _ => 0, fun _ => 0x17, by let := reachesDec; let := noneFailedDec; exact met_of (fun _ _ _ _ _ _ => inferInstance) (fun i => ((inside i).modTeam 1 (fun t => { t with points := [(31, { expect := 1, dflt := 1 })] })).modLane 1 0 (fun l => l.setReg 4 0 true)) (by decide +kernel)⟩

theorem witness_LoadWords_9 : ∃ (g : Guard) (lvl : Lvl) (a : Src) (off : BitVec 8) (pa leaf : Ent → Nat), Met (.pref g lvl a off) (fun s w e x _ _ => x.poison = true ∨ Reaches s w .rd (eaOf x.d off 128) 1 (pa e) (leaf e)) :=
  ⟨always, .l2, ⟨2, false⟩, 0, fun _ => 0, fun _ => 0x17, by let := reachesDec; let := noneFailedDec; exact met_of (fun _ _ _ _ _ _ => inferInstance) (fun i => (inside i).modLane 1 0 (fun l => l.setReg 2 0 true)) (by decide +kernel)⟩

theorem witness_StoreWords_1 : ∃ (g : Guard) (stream : Bool) (sz : Sz) (a : Src) (b : Src) (off : BitVec 8) (pa leaf : Ent → Nat), Met (.st g stream sz a b off) (fun s w e x y _ => x.poison = false ∧ y.poison = false ∧ eaVa (eaOf x.d off (szBytes sz)) % szBytes sz = 0 ∧ Unwatched s w e false true (eaOf x.d off (szBytes sz)) (szBytes sz) ∧ Reaches (ownView s w e) w .wr (eaOf x.d off (szBytes sz)) (szBytes sz) (pa e) (leaf e) ∧ Permitted s w .wr (eaOf x.d off (szBytes sz)) (szBytes sz) (leaf e)) :=
  ⟨always, false, .b32, ⟨2, false⟩, ⟨4, false⟩, 0, fun _ => 65532, fun _ => 0x17, by let := reachesDec; let := noneFailedDec; exact met_of (fun _ _ _ _ _ _ => inferInstance) (fun i => holding [(2, 65532)] (inside i)) (by decide +kernel)⟩

theorem witness_StoreWords_2 : ∃ (g : Guard) (fn : AFn) (ty : Ty) (d : Code) (a : Src) (b : Src) (off : BitVec 8) (pa leaf : Ent → Nat), Met (.rmw g fn ty d a b off) (fun s w e x y _ => x.poison = false ∧ y.poison = false ∧ eaVa (eaOf x.d off (tyBytes ty)) % tyBytes ty = 0 ∧ Unwatched s w e true true (eaOf x.d off (tyBytes ty)) (tyBytes ty) ∧ Reaches (ownView s w e) w .wr (eaOf x.d off (tyBytes ty)) (tyBytes ty) (pa e) (leaf e) ∧ Permitted s w .wr (eaOf x.d off (tyBytes ty)) (tyBytes ty) (leaf e)) :=
  ⟨always, .exch, .b64, 10, ⟨2, false⟩, ⟨4, false⟩, 0, fun _ => 65528, fun _ => 0x17, by let := reachesDec; let := noneFailedDec; exact met_of (fun _ _ _ _ _ _ => inferInstance) (fun i => holding [(2, 65528)] (inside i)) (by decide +kernel)⟩

theorem witness_StoreWords_3 : ∃ (g : Guard) (fn : AFn) (ty : Ty) (a : Src) (b : Src) (off : BitVec 8) (pa leaf : Ent → Nat), Met (.red g fn ty a b off) (fun s w e x y _ => x.poison = false ∧ y.poison = false ∧ eaVa (eaOf x.d off (tyBytes ty)) % tyBytes ty = 0 ∧ Unwatched s w e true true (eaOf x.d off (tyBytes ty)) (tyBytes ty) ∧ Reaches (ownView s w e) w .wr (eaOf x.d off (tyBytes ty)) (tyBytes ty) (pa e) (leaf e) ∧ Permitted s w .wr (eaOf x.d off (tyBytes ty)) (tyBytes ty) (leaf e)) :=
  ⟨always, .add, .n32, ⟨2, false⟩, ⟨4, false⟩, 0, fun _ => 0, fun _ => 0x17, by let := reachesDec; let := noneFailedDec; exact met_of (fun _ _ _ _ _ _ => inferInstance) (fun i => inside i) (by decide +kernel)⟩

theorem witness_StoreWords_4 : ∃ (g : Guard) (a : Src) (b : Src) (pa leaf : Ent → Nat), Met (.qpush g a b) (fun s w e x y _ => x.poison = false ∧ y.poison = false ∧ eaVa x.d % 4096 = 0 ∧ Unwatched s w e true true x.d 4 ∧ Reaches (ownView s w e) w .wr x.d 4 (pa e) (leaf e) ∧ Permitted s w .wr x.d 4 (leaf e)) :=
  ⟨always, ⟨2, false⟩, ⟨4, false⟩, fun _ => 61440, fun _ => 0x17, by let := reachesDec; let := noneFailedDec; exact met_of (fun _ _ _ _ _ _ => inferInstance) (fun i => holding [(2, 61440)] (inside i)) (by decide +kernel)⟩

theorem witness_StoreWords_5 : ∃ (g : Guard) (d : Code) (a : Src) (pa leaf : Ent → Nat), Met (.qpop g d a) (fun s w e x _ _ => x.poison = false ∧ eaVa x.d % 4096 = 0 ∧ Unwatched s w e true true x.d 4 ∧ Reaches (ownView s w e) w .wr x.d 4 (pa e) (leaf e) ∧ Permitted s w .wr x.d 4 (leaf e)) :=
  ⟨always, 10, ⟨2, false⟩, fun _ => 0, fun _ => 0x17, by let := reachesDec; let := noneFailedDec; exact met_of (fun _ _ _ _ _ _ => inferInstance) (fun i => inside i) (by decide +kernel)⟩

theorem witness_StoreWords_6 : ∃ (g : Guard) (a : Src) (b : Src) (pa leaf : Ent → Nat), Met (.tagw g a b) (fun s w e x y _ => x.poison = false ∧ y.poison = false ∧ Unwatched s w e false true (tagBlock x.d) 256 ∧ Reaches (ownView s w e) w .tagw (tagBlock x.d) 256 (pa e) (leaf e) ∧ AtFront s w) :=
  ⟨always, ⟨2, false⟩, ⟨4, false⟩, fun _ => 256, fun _ => 0x17, by let := reachesDec; let := noneFailedDec; exact met_of (fun _ _ _ _ _ _ => inferInstance) (fun i => holding [(2, 511)] (inside i)) (by decide +kernel)⟩

theorem witness_FenceWord_1 : ∃ (g : Guard) (sc : Scope), Met (.fence g sc) (fun _ _ e _ _ _ => sc = .fabric → e.lane.ferr = none) :=
  ⟨always, .fabric, by exact met_of (fun _ _ _ _ _ _ => inferInstance) (fun i => inside i) (by decide +kernel)⟩

theorem witness_BankWords_1 : ∃ (g : Guard) (m : BMode) (a : Src) (b : Src), Met (.bank g m a b) (fun s w _ x y _ => x.pl = false ∧ y.pl = false ∧ y.lo.toNat ≠ 0 ∧ x.lo.toNat + y.lo.toNat ≤ 64 ∧ ∀ k, x.lo.toNat ≤ k → k < x.lo.toNat + y.lo.toNat → s.bankBusy (clusterOf w.core) m k = false) :=
  ⟨always, .cache, ⟨2, false⟩, ⟨4, false⟩, by exact met_of (fun _ _ _ _ _ _ => inferInstance) (fun i => holding [(2, 63), (4, 1)] (inside i)) (by decide +kernel)⟩

theorem witness_BankWords_2 : ∃ (g : Guard) (m : BMode) (a : Src) (b : Src), Met (.bank g m a b) (fun _ _ _ x y _ => x.pl = true ∨ y.pl = true) :=
  ⟨always, .cache, ⟨2, false⟩, ⟨4, false⟩, by exact met_of (fun _ _ _ _ _ _ => inferInstance) (fun i => (inside i).modLane 1 0 (fun l => l.setReg 2 0 true)) (by decide +kernel)⟩

theorem witness_PigeonholeWords_1 : ∃ (g : Guard) (st : Bool) (wide : Bool) (a : Src) (b : Src) (p : Pigeon) (q : Pigeon), Met (.push g st wide a b) (fun s w e x y _ => x.pl = false ∧ Names s w e x.lo p ∧ p.kind = b2n wide ∧ NoSlots s w ∧ NoLdp s w e ∧ s.servable p PActKind.isStamp = false ∧ if st then p.resv ≠ 0 ∧ q = p.pushStamped (if wide then ⟨y.d, y.poison⟩ else ⟨y.lo.setWidth 64, y.pl⟩) else s.waiting p PActKind.isPush = [] ∧ p.pushNow (s.chunksFree p.ctx) (if wide then ⟨y.d, y.poison⟩ else ⟨y.lo.setWidth 64, y.pl⟩) = some q) :=
  ⟨always, true, false, ⟨2, false⟩, ⟨4, false⟩, holeResv, holeOne, by exact met_of (fun _ _ _ _ _ _ => inferInstance) (fun i => { inside i with pigeons := [holeResv] }) (by decide +kernel)⟩

theorem witness_PigeonholeWords_2 : ∃ (g : Guard) (st : Bool) (wide : Bool) (a : Src) (b : Src) (p : Pigeon) (q : Pigeon), Met (.push g st wide a b) (fun s w e x y _ => x.pl = false ∧ Names s w e x.lo p ∧ p.kind = b2n wide ∧ NoSlots s w ∧ NoLdp s w e ∧ s.servable p PActKind.isStamp = false ∧ if st then p.resv ≠ 0 ∧ q = p.pushStamped (if wide then ⟨y.d, y.poison⟩ else ⟨y.lo.setWidth 64, y.pl⟩) else s.waiting p PActKind.isPush = [] ∧ p.pushNow (s.chunksFree p.ctx) (if wide then ⟨y.d, y.poison⟩ else ⟨y.lo.setWidth 64, y.pl⟩) = some q) :=
  ⟨always, false, false, ⟨2, false⟩, ⟨4, false⟩, hole, holeOne, by exact met_of (fun _ _ _ _ _ _ => inferInstance) (fun i => { inside i with pigeons := [hole] }) (by decide +kernel)⟩

theorem witness_PigeonholeWords_3 : ∃ (g : Guard) (wide : Bool) (a : Src) (b : Src) (p : Pigeon), Met (.push g false wide a b) (fun s w e x y _ => x.pl = false ∧ Names s w e x.lo p ∧ p.kind = b2n wide ∧ NoLdp s w e ∧ s.servable p PActKind.isStamp = false ∧ (s.waiting p PActKind.isPush ≠ [] ∨ p.pushNow (s.chunksFree p.ctx) (if wide then ⟨y.d, y.poison⟩ else ⟨y.lo.setWidth 64, y.pl⟩) = none)) :=
  ⟨always, false, ⟨2, false⟩, ⟨4, false⟩, holeFull, by exact met_of (fun _ _ _ _ _ _ => inferInstance) (fun i => { inside i with pigeons := [holeFull] }) (by decide +kernel)⟩

theorem witness_PigeonholeWords_4 : ∃ (g : Guard) (wide : Bool) (d : Code) (a : Src) (p : Pigeon), Met (.pop g wide d a) (fun s w e x _ _ => x.pl = false ∧ Names s w e x.lo p ∧ p.kind = b2n wide ∧ NoSlots s w) :=
  ⟨always, false, 10, ⟨2, false⟩, hole, by exact met_of (fun _ _ _ _ _ _ => inferInstance) (fun i => { inside i with pigeons := [hole] }) (by decide +kernel)⟩

theorem witness_PigeonholeWords_5 : ∃ (g : Guard) (d : Code) (a : Src) (p : Pigeon), Met (.poll g d a) (fun s w e x _ _ => x.pl = false ∧ Names s w e x.lo p ∧ p.kind = 0 ∧ NoSlots s w) :=
  ⟨always, 10, ⟨2, false⟩, hole, by exact met_of (fun _ _ _ _ _ _ => inferInstance) (fun i => { inside i with pigeons := [hole] }) (by decide +kernel)⟩

theorem witness_PigeonholeWords_6 : ∃ (g : Guard) (d : Code) (a : Src) (b : Src) (p : Pigeon), Met (.stamp g d a b) (fun s w e x y _ => x.pl = false ∧ y.pl = false ∧ Names s w e x.lo p ∧ p.kind ≠ 2 ∧ y.lo ≠ 0 ∧ y.lo.toNat ≤ p.depth ∧ NoSlots s w) :=
  ⟨always, 10, ⟨2, false⟩, ⟨4, false⟩, hole, by exact met_of (fun _ _ _ _ _ _ => inferInstance) (fun i => holding [(4, 2)] { inside i with pigeons := [hole] }) (by decide +kernel)⟩

theorem witness_PigeonholeWords_7 : ∃ (g : Guard) (a : Src) (b : Src) (c : Src) (p : Pigeon) (q : Pigeon), Met (.rput g a b c) (fun s w e x y z => x.pl = false ∧ y.pl = false ∧ Names s w e x.lo p ∧ p.kind = 2 ∧ NoSlots s w ∧ NoLdp s w e ∧ s.servable p PActKind.isPut = false ∧ p.rputNow y.lo.toNat ⟨z.lo.setWidth 64, z.pl⟩ = .put q) :=
  ⟨always, ⟨2, false⟩, ⟨4, false⟩, ⟨8, false⟩, rack, rackOne, by exact met_of (fun _ _ _ _ _ _ => inferInstance) (fun i => holding [(4, 1)] { inside i with pigeons := [rack] }) (by decide +kernel)⟩

theorem witness_PigeonholeWords_8 : ∃ (g : Guard) (a : Src) (b : Src) (c : Src) (p : Pigeon), Met (.rput g a b c) (fun s w e x y z => x.pl = false ∧ y.pl = false ∧ Names s w e x.lo p ∧ p.kind = 2 ∧ NoLdp s w e ∧ p.rputNow y.lo.toNat ⟨z.lo.setWidth 64, z.pl⟩ = .beyond) :=
  ⟨always, ⟨2, false⟩, ⟨4, false⟩, ⟨8, false⟩, rack, by exact met_of (fun _ _ _ _ _ _ => inferInstance) (fun i => holding [(4, 2)] { inside i with pigeons := [rack] }) (by decide +kernel)⟩

theorem witness_PigeonholeWords_9 : ∃ (g : Guard) (d : Code) (a : Src) (p : Pigeon), Met (.rtake g d a) (fun s w e x _ _ => x.pl = false ∧ Names s w e x.lo p ∧ p.kind = 2 ∧ NoSlots s w) :=
  ⟨always, 10, ⟨2, false⟩, rack, by exact met_of (fun _ _ _ _ _ _ => inferInstance) (fun i => { inside i with pigeons := [rack] }) (by decide +kernel)⟩

theorem witness_PointWords_1 : ∃ (g : Guard) (a : Src) (b : Src) (pt : Point), Met (.arrive g a b) (fun s w e x y _ => x.pl = false ∧ (y.pl = true ∨ y.lo.toNat ≤ 65535) ∧ NoneOwed s w e (pointHandle x.lo.toNat) ∧ Tab.find x.lo.toNat w.team.points = some pt ∧ NoLdp s w e ∧ NoSlots s w) :=
  ⟨always, ⟨2, false⟩, ⟨4, false⟩, spot, by exact met_of (fun _ _ _ _ _ _ => inferInstance) (fun i => holding [(4, 65535)] ((inside i).modTeam 1 (fun t => { t with points := [(0, spot)] }))) (by decide +kernel)⟩

theorem witness_PointWords_2 : ∃ (g : Guard) (d : Code) (a : Src) (b : Src) (pt : Point), Met (.await g d a b) (fun s w e x y _ => x.pl = false ∧ y.pl = false ∧ NoneOwed s w e (pointHandle x.lo.toNat) ∧ Tab.find x.lo.toNat w.team.points = some pt ∧ NoLdp s w e) :=
  ⟨always, 10, ⟨2, false⟩, ⟨4, false⟩, spot, by exact met_of (fun _ _ _ _ _ _ => inferInstance) (fun i => (inside i).modTeam 1 (fun t => { t with points := [(0, spot)] })) (by decide +kernel)⟩

theorem witness_PointWords_3 : ∃ (g : Guard) (a : Src) (b : Src) (pt : Point), Met (.expect g a b) (fun s w e x y _ => x.pl = false ∧ y.pl = false ∧ NoneOwed s w e (pointHandle x.lo.toNat) ∧ Tab.find x.lo.toNat w.team.points = some pt ∧ y.lo ≠ 0 ∧ y.lo.toNat ≤ 65535 ∧ NoLdp s w e ∧ NoSlots s w) :=
  ⟨always, ⟨2, false⟩, ⟨4, false⟩, spot, by exact met_of (fun _ _ _ _ _ _ => inferInstance) (fun i => holding [(4, 65535)] ((inside i).modTeam 1 (fun t => { t with points := [(0, spot)] }))) (by decide +kernel)⟩

theorem witness_PointWords_4 : ∃ (g : Guard) (a : Src) (b : Src) (tid : Nat) (core : Nat) (slot : Nat) (u : Team), Met (.cwr g a b) (fun s w e x _ _ => x.poison = false ∧ courierTeam s w (fld x.d.toNat 32 32) = some (tid, u) ∧ u.place = some (core, slot) ∧ fld x.d.toNat 23 9 = 0 ∧ fld x.d.toNat 0 10 < u.lanes.length ∧ (nth {} u.lanes (fld x.d.toNat 0 10)).exited = false ∧ fld x.d.toNat 10 7 < (nth {} u.lanes (fld x.d.toNat 0 10)).regs.length ∧ (bit x.d.toNat 22 = true ∨ (Tab.find (fld x.d.toNat 17 5) u.points).isSome) ∧ (bit x.d.toNat 22 = false → tid = w.group.tid → NoneOwed s w e (pointHandle (fld x.d.toNat 17 5))) ∧ s.heldAt core < 64 ∧ NoLdp s w e ∧ NoSlots s w) :=
  ⟨always, ⟨2, false⟩, ⟨4, false⟩, 1, 0, 0, ((courierState (.cwr always ⟨2, false⟩ ⟨4, false⟩)).team 1).getD { lseq := 0, tlin := 0, loc := .saved }, by exact met_of (fun _ _ _ _ _ _ => inferInstance) (fun i => courierState i) (by decide +kernel)⟩

theorem witness_PointWords_5 : ∃ (g : Guard) (a : Src) (b : Src), Met (.waitw g a b) (fun s w e x y _ => x.pl = false ∧ y.pl = false ∧ x.lo.toNat % 4 = 0 ∧ x.lo.toNat + 4 ≤ w.team.padb ∧ NoLdp s w e) :=
  ⟨always, ⟨2, false⟩, ⟨4, false⟩, by exact met_of (fun _ _ _ _ _ _ => inferInstance) (fun i => holding [(2, 65532)] (inside i)) (by decide +kernel)⟩

theorem witness_PointWords_6 : ∃ (g : Guard) (a : Src) (b : Src) (tid : Nat) (u : Team), Met (.cwr g a b) (fun s w e x _ _ => x.poison = false ∧ courierTeam s w (fld x.d.toNat 32 32) = some (tid, u) ∧ u.place = none ∧ fld x.d.toNat 23 9 = 0 ∧ fld x.d.toNat 0 10 < u.lanes.length ∧ (nth {} u.lanes (fld x.d.toNat 0 10)).exited = false ∧ fld x.d.toNat 10 7 < (nth {} u.lanes (fld x.d.toNat 0 10)).regs.length ∧ (bit x.d.toNat 22 = true ∨ (Tab.find (fld x.d.toNat 17 5) u.points).isSome) ∧ (bit x.d.toNat 22 = false → tid = w.group.tid → NoneOwed s w e (pointHandle (fld x.d.toNat 17 5))) ∧ NoLdp s w e) :=
  ⟨always, ⟨2, false⟩, ⟨4, false⟩, 2, farTeam, by exact met_of (fun _ _ _ _ _ _ => inferInstance) (fun i => holding [(2, 2 ^ 22), (3, 1)] { inside i with teams := (inside i).teams ++ [(2, farTeam)] }) (by decide +kernel)⟩

/-- A lane with a phq on an object still queued. -/
def asksFirst (h : Word) (i : Instr) : State :=
  { inside i with cmds := [(0, { instr := .phq always 10 2 4, tid := 1, lid := 0, tags := ⟨0, 0, 0, none⟩, h := 0, slot := 0, d := 10, aoff := 0, b := h, spec := false })] }

theorem witness_PigeonholeWords_waits : ∀ i ∈ ([.push always false true ⟨2, false⟩ ⟨4, false⟩, .pop always false 10 ⟨2, false⟩, .poll always 10 ⟨2, false⟩,
      .stamp always 10 ⟨2, false⟩ ⟨4, false⟩, .rput always ⟨2, false⟩ ⟨4, false⟩ ⟨8, false⟩, .rtake always 10 ⟨2, false⟩] : List Instr),
    Met i (fun s w e x y _ => x.pl = false ∧ y.pl = false ∧ s.holeOwed w.group.tid e.lid x.lo s.ids = true
      ∧ ∀ q, s.named w.group.tid w.core w.grid.ctx x.lo = some q → s.servable q PActKind.isStamp = false) := by
  exact mets_of (fun s w e x y _ => decidable_of_iff (x.pl = false ∧ y.pl = false ∧ s.holeOwed w.group.tid e.lid x.lo s.ids = true
      ∧ (s.named w.group.tid w.core w.grid.ctx x.lo).all (fun q => !s.servable q PActKind.isStamp) = true) (by simp [Option.all_eq_true])) (asksFirst 0) _
    (by decide +kernel)

theorem witness_PointWords_waits : ∀ i ∈ ([.arrive always ⟨2, false⟩ ⟨4, false⟩, .await always 10 ⟨2, false⟩ ⟨4, false⟩, .expect always ⟨2, false⟩ ⟨4, false⟩] : List Instr),
    Met i (fun s w e x y _ => x.pl = false ∧ y.pl = false ∧ s.holeOwed w.group.tid e.lid (pointHandle x.lo.toNat) s.ids = true) :=
  mets_of (fun _ _ _ _ _ _ => inferInstance) (asksFirst 0xC0000000) _ (by decide +kernel)

/-- Words on queues and racks with a poisoned operand. -/
theorem witness_PigeonholeWords_poison : (∀ i ∈ ([.push always true false ⟨2, false⟩ ⟨4, false⟩, .pop always true 10 ⟨2, false⟩, .poll always 10 ⟨2, false⟩,
      .rtake always 10 ⟨2, false⟩] : List Instr), Met i (fun _ _ _ x _ _ => x.pl = true))
    ∧ ∀ i ∈ ([.rput always ⟨4, false⟩ ⟨2, false⟩ ⟨8, false⟩, .stamp always 10 ⟨4, false⟩ ⟨2, false⟩] : List Instr), Met i (fun _ _ _ x y _ => x.pl = true ∨ y.pl = true) :=
  ⟨mets_of (fun _ _ _ _ _ _ => inferInstance) (fun i => (inside i).modLane 1 0 (fun l => l.setReg 2 0 true)) _ (by decide +kernel),
    mets_of (fun _ _ _ _ _ _ => inferInstance) (fun i => (inside i).modLane 1 0 (fun l => l.setReg 2 0 true)) _ (by decide +kernel)⟩

/-- Words on points with a poisoned operand. -/
theorem witness_PointWords_poison : (∀ i ∈ ([.expect always ⟨2, false⟩ ⟨4, false⟩, .waitw always ⟨2, false⟩ ⟨4, false⟩, .await always 10 ⟨2, false⟩ ⟨4, false⟩] : List Instr),
      Met i (fun _ _ _ x y _ => x.pl = true ∨ y.pl = true))
    ∧ (∀ i ∈ ([.arrive always ⟨2, false⟩ ⟨4, false⟩] : List Instr), Met i (fun _ _ _ x _ _ => x.pl = true))
    ∧ (∀ i ∈ ([.cwr always ⟨2, false⟩ ⟨4, false⟩] : List Instr), Met i (fun _ _ _ x _ _ => x.poison = true)) :=
  ⟨mets_of (fun _ _ _ _ _ _ => inferInstance) (fun i => (inside i).modLane 1 0 (fun l => l.setReg 2 0 true)) _ (by decide +kernel),
    mets_of (fun _ _ _ _ _ _ => inferInstance) (fun i => (inside i).modLane 1 0 (fun l => l.setReg 2 0 true)) _ (by decide +kernel),
    mets_of (fun _ _ _ _ _ _ => inferInstance) (fun i => (inside i).modLane 1 0 (fun l => l.setReg 2 0 true)) _ (by decide +kernel)⟩

theorem witness_DispatchWords_1 : ∃ (g : Guard) (a : Src) (b : Src), Met (.accept g a b) (fun s w _ x y _ => x.pl = false ∧ y.pl = false ∧ y.lo.toNat ≠ 0 ∧ y.lo.toNat ≤ 65535 ∧ x.lo.toNat ≤ y.lo.toNat ∧ (s.disp.ptable.pairen = false ∨ (w.grid.lrec.part ≠ s.disp.ptable.draft ∧ w.grid.lrec.part ≠ s.disp.ptable.target))) :=
  ⟨always, ⟨2, false⟩, ⟨4, false⟩, by exact met_of (fun _ _ _ _ _ _ => inferInstance) (fun i => holding [(2, 65535), (4, 65535)] (inside i)) (by decide +kernel)⟩

theorem witness_DispatchWords_2 : ∃ (g : Guard) (all : Bool) (d : Code) (code : Code) (dode : Code), Met (.cwait g all d code dode) (fun s w _ x y _ => x.poison = false ∧ y.poison = false ∧ x.lo.toNat % 64 = 0 ∧ x.lo.toNat + 64 ≤ w.team.padb ∧ s.queued w.core < 64 ∧ ∀ q ∈ s.cmds, q.1 < s.ids) :=
  ⟨always, false, 10, 2, 4, by exact met_of (fun _ _ _ _ _ _ => inferInstance) (fun i => inside i) (by decide +kernel)⟩

theorem witness_DispatchWords_3 : ∃ (g : Guard) (a : Src) (b : Src), Met (.accept g a b) (fun s w _ x y _ => x.pl = false ∧ y.pl = false ∧ y.lo.toNat ≠ 0 ∧ y.lo.toNat ≤ 65535 ∧ x.lo.toNat ≤ y.lo.toNat ∧ s.disp.ptable.pairen = true ∧ (w.grid.lrec.part = s.disp.ptable.draft ∨ w.grid.lrec.part = s.disp.ptable.target)) :=
  ⟨always, ⟨2, false⟩, ⟨4, false⟩, by exact met_of (fun _ _ _ _ _ _ => inferInstance) (fun i => holding [(2, 65535), (4, 65535)] { inside i with disp := { ptable := { pairen := true, target := 3 } } }) (by decide +kernel)⟩

theorem witness_SequenceAndFabricWords_1 : ∃ (g : Guard) (sz : Sz) (d : Code) (a : Src) (off : BitVec 8) (leaf : Nat) (big : Bool), Met (.fld g sz d a off) (fun s w e x _ _ => x.poison = false ∧ eaVa (eaOf x.d off (szBytes sz)) % szBytes sz = 0 ∧ Unwatched s w e true false (eaOf x.d off (szBytes sz)) (szBytes sz) ∧ NoneFailed s w ∧ LeavesPackage s w .rd (eaOf x.d off (szBytes sz)) (szBytes sz) leaf big) :=
  ⟨always, .b32, 10, ⟨2, false⟩, 0, 0x40000000203, false, by let := leavesDec; let := noneFailedDec; exact met_of (fun _ _ _ _ _ _ => inferInstance) (fun i => abroad i) (by decide +kernel)⟩

theorem witness_SequenceAndFabricWords_2 : ∃ (g : Guard) (wr : Bool) (sz : Sz) (a : Src) (b : Src) (off : BitVec 8) (leaf : Nat) (big : Bool), Met (.fst g sz a b off) (fun s w e x y _ => x.poison = false ∧ y.poison = false ∧ eaVa (eaOf x.d off (szBytes sz)) % szBytes sz = 0 ∧ Unwatched s w e false true (eaOf x.d off (szBytes sz)) (szBytes sz) ∧ NoneFailed s w ∧ leafWritable leaf = true ∧ AtFront s w ∧ LeavesPackage s w .wr (eaOf x.d off (szBytes sz)) (szBytes sz) leaf big) :=
  ⟨always, false, .b32, ⟨2, false⟩, ⟨4, false⟩, 0, 0x40000000203, false, by let := leavesDec; let := noneFailedDec; exact met_of (fun _ _ _ _ _ _ => inferInstance) (fun i => abroad i) (by decide +kernel)⟩

theorem witness_SequenceAndFabricWords_3 : ∃ (g : Guard) (wr : Bool) (fop : FrOp) (d : Code) (a : Src) (b : Src) (off : BitVec 8) (leaf : Nat) (big : Bool), Met (.frmw g fop wr d a b off) (fun s w e x y _ => x.poison = false ∧ y.poison = false ∧ eaVa (eaOf x.d off (tyBytes (frmwFn fop wr).2)) % tyBytes (frmwFn fop wr).2 = 0 ∧ Unwatched s w e true true (eaOf x.d off (tyBytes (frmwFn fop wr).2)) (tyBytes (frmwFn fop wr).2) ∧ NoneFailed s w ∧ leafWritable leaf = true ∧ AtFront s w ∧ LeavesPackage s w .wr (eaOf x.d off (tyBytes (frmwFn fop wr).2)) (tyBytes (frmwFn fop wr).2) leaf big) :=
  ⟨always, false, .add, 10, ⟨2, false⟩, ⟨4, false⟩, 0, 0x40000000203, false, by let := leavesDec; let := noneFailedDec; exact met_of (fun _ _ _ _ _ _ => inferInstance) (fun i => abroad i) (by decide +kernel)⟩

theorem witness_DebugWords_1 : ∃ (g : Guard) (a : Src), Met (.bkpt g a) (fun s w e _ _ _ => e.lane.passing.contains 20 = false ∧ (s.dbgOf w.grid.ctx).rights = true ∧ AtFront s w) :=
  ⟨always, ⟨2, false⟩, by exact met_of (fun _ _ _ _ _ _ => inferInstance) (fun i => { inside i with dbg := [(0, { rights := true })] }) (by decide +kernel)⟩

theorem witness_DebugWords_2 : ∃ (g : Guard) (a : Src), Met (.bkpt g a) (fun _ _ e _ _ _ => e.lane.passing.contains 20 = true) :=
  ⟨always, ⟨2, false⟩, by exact met_of (fun _ _ _ _ _ _ => inferInstance) (fun i => (inside i).modLane 1 0 (fun l => { l with passing := [20] })) (by decide +kernel)⟩

theorem witness_DebugWords_3 : ∃ (g : Guard) (a : Src) (b : Src), Met (.trc g a b) (fun _ _ _ _ _ _ => True) :=
  ⟨always, ⟨2, false⟩, ⟨4, false⟩, by exact met_of (fun _ _ _ _ _ _ => inferInstance) (fun i => inside i) (by decide +kernel)⟩

theorem witness_DebugWords_4 : ∃ (g : Guard) (d : Code) (a : Src), Met (.ctrr g .latch d a) (fun _ _ _ _ _ _ => True) :=
  ⟨always, 10, ⟨2, false⟩, by exact met_of (fun _ _ _ _ _ _ => inferInstance) (fun i => inside i) (by decide +kernel)⟩

theorem witness_DebugWords_5 : ∃ (g : Guard) (d : Code) (a : Src), Met (.ctrr g .live d a) (fun _ _ _ x _ _ => x.pl = false ∧ x.lo.toNat ≤ 12) :=
  ⟨always, 10, ⟨2, false⟩, by exact met_of (fun _ _ _ _ _ _ => inferInstance) (fun i => holding [(2, 12)] (inside i)) (by decide +kernel)⟩

theorem witness_DebugWords_6 : ∃ (g : Guard) (d : Code) (a : Src), Met (.ctrr g .snap d a) (fun _ _ _ x _ _ => x.pl = false ∧ x.lo.toNat ≤ 12) :=
  ⟨always, 10, ⟨2, false⟩, by exact met_of (fun _ _ _ _ _ _ => inferInstance) (fun i => holding [(2, 12)] (inside i)) (by decide +kernel)⟩


/-! ### Words that compute -/

/-- D of every word here. -/
def compPre : State → WordCtx → Ent → Val → Val → Val → Prop := fun _ _ _ _ _ _ => isScal ((10 : Code)).toNat = false

def compDec : ∀ s w e a b c, Decidable (compPre s w e a b c) := fun _ _ _ _ _ _ => inferInstanceAs (Decidable (_ = _))

theorem witness_IntegerResults : ∀ i ∈ ([.add always true false 10 ⟨2, false⟩ ⟨4, false⟩, .sub always true true 10 ⟨2, false⟩ ⟨0xE0, false⟩,
    .mul always false false 10 ⟨2, false⟩ ⟨4, false⟩, .mulh always true 10 ⟨2, false⟩ ⟨4, false⟩, .mad always false false 10 ⟨2, false⟩ ⟨4, false⟩ ⟨8, false⟩,
    .min always false 10 ⟨2, false⟩ ⟨4, false⟩, .max always true 10 ⟨2, false⟩ ⟨4, false⟩, .abs always true 10 ⟨2, false⟩,
    .neg always false 10 ⟨2, false⟩] : List Instr), Met i compPre :=
  mets_of compDec inside _ (by decide +kernel)

theorem witness_BitResults : ∀ i ∈ ([.and always 10 ⟨2, false⟩ ⟨4, false⟩, .or always 10 ⟨2, false⟩ ⟨4, false⟩, .xor always 10 ⟨2, false⟩ ⟨4, false⟩,
    .not always 10 ⟨2, false⟩, .shl always 10 ⟨2, false⟩ ⟨4, false⟩, .shr always true 10 ⟨2, false⟩ ⟨4, false⟩, .rot always 10 ⟨2, false⟩ ⟨4, false⟩,
    .popc always 10 ⟨2, false⟩, .clz always 10 ⟨2, false⟩, .brev always 10 ⟨2, false⟩, .bfe always true 10 ⟨2, false⟩ ⟨4, false⟩,
    .bfi always 10 ⟨2, false⟩ ⟨4, false⟩ ⟨8, false⟩, .bperm always 10 ⟨2, false⟩ ⟨4, false⟩ ⟨8, false⟩] : List Instr), Met i compPre :=
  mets_of compDec inside _ (by decide +kernel)

theorem witness_BitFields : ∃ k, k < 32 ∧ ¬ k + 1 < 32 := ⟨31, by decide⟩

theorem witness_CompareResults : ∀ i ∈ ([.icmp always false true .lt 10 ⟨2, false⟩ ⟨4, false⟩, .icmp always true false .ge 10 ⟨2, false⟩ ⟨4, false⟩,
    .pand always true false 10 ⟨2, false⟩ ⟨4, false⟩, .por always false true 10 ⟨2, false⟩ ⟨4, false⟩, .pxor always false false 10 ⟨2, false⟩ ⟨4, false⟩,
    .pnot always 10 ⟨2, false⟩] : List Instr), Met i compPre :=
  mets_of compDec inside _ (by decide +kernel)

theorem witness_MoveResults : ∀ i ∈ ([.mov always false 10 ⟨2, false⟩, .mov always true 10 ⟨2, false⟩, .sel always false 10 ⟨2, false⟩ ⟨4, false⟩ ⟨8, false⟩,
    .sel always true 10 ⟨2, false⟩ ⟨4, false⟩ ⟨8, false⟩, .addi always 10 2 1, .movi always 10 1, .add64 always true false 10 ⟨2, false⟩ ⟨4, false⟩,
    .sub64 always true true 10 ⟨2, false⟩ ⟨4, false⟩, .lea always false 7 10 ⟨2, false⟩ ⟨4, false⟩, .psnt always false 10 ⟨2, false⟩,
    .psnt always true 10 ⟨2, false⟩] : List Instr), Met i compPre :=
  mets_of compDec inside _ (by decide +kernel)

theorem witness_FloatResults : ∀ i ∈ ([.fadd always false .rn 10 ⟨2, false⟩ ⟨4, false⟩, .fsub always true .rz 10 ⟨2, false⟩ ⟨4, false⟩,
    .fmul always false .rd 10 ⟨2, false⟩ ⟨4, false⟩, .ffma always false .ru 10 ⟨2, false⟩ ⟨4, false⟩ ⟨8, false⟩, .fdiv always false .rn 10 ⟨2, false⟩ ⟨4, false⟩,
    .fsqrt always false .rn 10 ⟨2, false⟩, .fmin always false 10 ⟨2, false⟩ ⟨4, false⟩, .fmax always true 10 ⟨2, false⟩ ⟨4, false⟩, .fabs always 10 ⟨2, false⟩,
    .fneg always 10 ⟨2, false⟩, .fex2 always false .rn 10 ⟨2, false⟩, .flg2 always false .rn 10 ⟨2, false⟩, .frcp always true 10 ⟨2, false⟩,
    .frsq always false 10 ⟨2, false⟩] : List Instr), Met i compPre :=
  mets_of compDec inside _ (by decide +kernel)

theorem witness_PackedAndConversionResults : ∀ i ∈ ([.fadd2 always false .rn .f16 10 ⟨2, false⟩ ⟨4, false⟩, .fmul2 always false .rn .bf16 10 ⟨2, false⟩ ⟨4, false⟩,
    .ffma2 always true .rz .f16 10 ⟨2, false⟩ ⟨4, false⟩ ⟨8, false⟩, .fcmp always .num .bf16 10 ⟨2, false⟩ ⟨4, false⟩, .fcvt always .rn .i32f32 10 ⟨2, false⟩,
    .fpack always .e4m3 true true 10 ⟨2, false⟩ ⟨4, false⟩ ⟨8, false⟩, .funpk always .e2m1 true 10 ⟨2, false⟩ ⟨4, false⟩ ⟨8, false⟩,
    .rnd always .oc 10 ⟨2, false⟩ ⟨4, false⟩ ⟨8, false⟩] : List Instr), Met i compPre :=
  mets_of compDec inside _ (by decide +kernel)

theorem witness_CrossLaneResults : ∀ i ∈ ([.gmask always .ballot 10 ⟨2, false⟩, .gmask always .slot 10 ⟨0xE0, false⟩, .gmask always .lid 10 ⟨2, false⟩,
    .shfl always false .up 10 ⟨2, false⟩ ⟨4, false⟩, .shfl always true .xor 10 ⟨2, false⟩ ⟨4, false⟩] : List Instr), Met i compPre :=
  mets_of compDec inside _ (by decide +kernel)

/-- Words that compute from more than their sources. -/
theorem witness_ComputesIf : (∀ i ∈ ([.bleft always 10, .frq always .atF 10, .frq always .pm 10, .frq always .seq 10, .tsq always 10, .edges always 10] : List Instr),
      Met i compPre)
    ∧ Met (.bankq always 10 ⟨2, false⟩) (fun s w e a b c => compPre s w e a b c ∧ a.pl = false ∧ a.lo.toNat ≤ 63)
    ∧ Met (.bankq always 10 ⟨2, false⟩) (fun s w e a b c => compPre s w e a b c ∧ a.pl = true)
    ∧ Met (.featq always 10 ⟨2, false⟩) (fun s w e a b c => compPre s w e a b c ∧ a.pl = false ∧ a.lo.toNat ≤ 7) :=
  ⟨mets_of compDec inside _ (by decide +kernel),
    met_of (fun s w e a b c => let := compDec s w e a b c; inferInstance) (fun i => holding [(2, 63)] (inside i)) (by decide +kernel),
    met_of (fun s w e a b c => let := compDec s w e a b c; inferInstance) (fun i => (inside i).modLane 1 0 (fun l => l.setReg 2 0 true)) (by decide +kernel),
    met_of (fun s w e a b c => let := compDec s w e a b c; inferInstance) (fun i => holding [(2, 7)] (inside i)) (by decide +kernel)⟩

/-- Some group executes a value word in the last slot of its clause, and dissolves; or continues into the next clause (R70). -/
theorem witness_Gives_last : (∃ s w, Ready s w ∧ Clear s w (.add always true false 10 ⟨2, false⟩ ⟨4, false⟩) ∧ ¬ w.group.slot < hdrCount w.group.hdr
      ∧ (∀ x ∈ putActs s w (.add always true false 10 ⟨2, false⟩ ⟨4, false⟩) 10 (fun _ _ _ _ _ => {}), ∀ code info, x.2 ≠ .trap code info)
      ∧ ∀ t j acts, Dissolves t w j acts)
    ∧ ∃ s w, Ready s w ∧ Clear s w (.movi always 10 1) ∧ ¬ w.group.slot < hdrCount w.group.hdr
      ∧ Continues s w (.movi always 10 1) (putActs s w (.movi always 10 1) 10 (fun _ _ _ _ _ => .w 1 false)) 16 none
      ∧ (entered s w (.movi always 10 1) (putActs s w (.movi always 10 1) 10 (fun _ _ _ _ _ => .w 1 false)) 16 none).bus = none := by
  constructor
  · obtain ⟨w, e, a, b, c, hs, hp⟩ := single_of (s := last (.add always true false 10 ⟨2, false⟩ ⟨4, false⟩)) (i := .add always true false 10 ⟨2, false⟩ ⟨4, false⟩)
      (p := fun _ w _ _ _ _ => decide (¬ w.group.slot < hdrCount w.group.hdr) && hdrReform w.group.hdr) (by decide +kernel)
    simp only [Bool.and_eq_true, decide_eq_true_eq] at hp
    refine ⟨_, w, hs.toReady, ?_, hp.1, ?_, dissolves_of hp.2⟩
    · intro x hx; rw [hs.one] at hx; rw [List.mem_singleton.mp hx]; exact .inr ⟨a, b, c, hs.runs⟩
    · intro x hx code info
      simp only [putActs, hs.one, List.map_cons, List.map_nil, List.mem_singleton] at hx
      subst hx
      rw [hs.runs]
      simp [isScal]
  · let i : Instr := .movi always 10 1
    let acts : State → WordCtx → List (Ent × Act) := fun s w => putActs s w i 10 (fun _ _ _ _ _ => .w 1 false)
    obtain ⟨w, e, a, b, c, hs, hp⟩ := single_of (s := stand 0 0x17 i) (i := i) (p := fun s w _ _ _ _ => decide (¬ w.group.slot < hdrCount w.group.hdr)
        && decide (goers s w i (acts s w) = [0]) && (((afterWord s w i (acts s w)).lane w.group.tid 0).all (fun l => l.h == 16 && l.slot.isNone))
        && !hdrReform w.group.hdr && !w.group.own && ((afterWord s w i (acts s w)).sched w.core w.sched).bins.isEmpty
        && ((afterWord s w i (acts s w)).sched w.core w.sched).groups.all (fun g => g.gid == w.group.gid) && !hdrYield w.group.hdr
        && (entered s w i (acts s w) 16 none).bus.isNone) (by decide +kernel)
    simp only [Bool.and_eq_true, decide_eq_true_eq, List.isEmpty_iff, Bool.not_eq_true', List.all_eq_true, beq_iff_eq, Option.isNone_iff_eq_none] at hp
    obtain ⟨⟨⟨⟨⟨⟨⟨⟨h1, h2⟩, h3⟩, h4⟩, h5⟩, h6⟩, h7⟩, h8⟩, h9⟩ := hp
    refine ⟨_, w, hs.toReady, ?_, h1, ?_, h9⟩
    · intro x hx; rw [hs.one] at hx; rw [List.mem_singleton.mp hx]; exact .inr ⟨a, b, c, hs.runs⟩
    · exact
      { lanes := by change goers _ w i (acts _ w) ≠ []; rw [h2]; simp
        same := by
          intro lid hl l he
          change lid ∈ goers _ w i (acts _ w) at hl
          rw [h2, List.mem_singleton] at hl
          subst hl
          change (afterWord _ w i (acts _ w)).lane w.group.tid 0 = some l at he
          rw [he] at h3
          simpa using h3
        reform := h4
        plain := h5
        unfiled := by intro x hx; change x ∈ ((afterWord _ w i (acts _ w)).sched w.core w.sched).bins at hx; rw [h6] at hx; cases hx
        alone := fun g hg _ => h7 g hg
        fed := by intro x hx; change x ∈ ((afterWord _ w i (acts _ w)).sched w.core w.sched).bins at hx; rw [h6] at hx; cases hx
        yields := .inl h8 }

/-! ### Words with more than an act -/

/-- A word inside a clause and its group, with hypotheses of its own. -/
theorem witness_TrapWord : Met (.trap always ⟨2, false⟩) (fun s w e _ _ _ => s.atFront (w.team.place.getD (0, 0)).1 w.team.lseq = true
    ∧ (s.ctx w.grid.ctx).fault = none ∧ (s.ctx w.grid.ctx).tvec ≠ 0 ∧ e.lane.inTrap = false ∧ e.lane.exited = false ∧ w.grid.lrec.budget = 0
    ∧ 4 ≤ e.lane.regs.length) :=
  met_of (fun _ _ _ _ _ _ => inferInstance) (fun i => { inside i with ctxs := [(0, { st := .ready, desc := [0, 0, 4096] })] }) (by decide +kernel)

/-- Team 0 of the grid holds the baton, and team 1 takes it. -/
def batonState (i : Instr) : State :=
  let s := inside i
  { s with teams := s.teams.map (fun e => (e.1, { e.2 with tlin := 1 })) ++ [(2, { lseq := 1, tlin := 0, loc := .resident 0 1, holder := true })] }

theorem witness_BatonPairs : ∃ u, Met (.baton always true 10 ⟨2, false⟩) (fun s w _ x _ _ => isScal ((10 : Code)).toNat = false ∧ x.pl = false
    ∧ firstWith (fun (q : Nat × Team) => q.2.lseq == w.team.lseq && q.2.tlin == x.lo.toNat
        && (match q.2.loc with | .resident c _ => c == w.core | .saving _ _ | .saved => false)) s.teams = some (2, u)
    ∧ 2 ≠ w.group.tid ∧ s.team 2 = some u ∧ w.team.partner = none ∧ u.partner = none ∧ u.holder = true ∧ u.batonMove = none
    ∧ (s.core w.core).scheds.any (fun q => q.groups.any (fun r => r.tid == 2 && hdrBaton r.hdr)) = false) :=
  ⟨{ lseq := 1, tlin := 0, loc := .resident 0 1, holder := true }, met_of (fun _ _ _ _ _ _ => inferInstance) batonState (by decide +kernel)⟩

/-- A baton that names no team of the grid, and one that names the lane's own. -/
theorem witness_BatonPairs_no : Met (.baton always true 10 ⟨2, false⟩) (fun s w _ x _ _ => x.pl = false
      ∧ firstWith (fun (q : Nat × Team) => q.2.lseq == w.team.lseq && q.2.tlin == x.lo.toNat
        && (match q.2.loc with | .resident c _ => c == w.core | .saving _ _ | .saved => false)) s.teams = none)
    ∧ Met (.baton always true 10 ⟨2, false⟩) (fun s w _ x _ _ => x.pl = false
      ∧ (firstWith (fun (q : Nat × Team) => q.2.lseq == w.team.lseq && q.2.tlin == x.lo.toNat
        && (match q.2.loc with | .resident c _ => c == w.core | .saving _ _ | .saved => false)) s.teams).map Prod.fst = some w.group.tid) :=
  ⟨met_of (fun _ _ _ _ _ _ => inferInstance) (fun i => holding [(2, 1)] (inside i)) (by decide +kernel), met_of (fun _ _ _ _ _ _ => inferInstance) inside (by decide +kernel)⟩

/-- What brx.slot asks for. -/
def slotPre : State → WordCtx → Ent → Val → Val → Val → Prop := fun s w e x y _ => x.poison = false ∧ y.poison = false ∧ (x.d.extractLsb' 0 56).toNat % 8 = 0
  ∧ ∃ r t, fetchWord s (s.tagsOf w.core w.team) (x.d.extractLsb' 0 56).toNat e.lane.refused = (r, t) ∧ t.bus = none
    ∧ ((∃ c, r = .error (.fail c)) ∨ ∃ hdr, r = .ok hdr ∧ (hdrBad hdr = true ∨ y.lo.toNat ≤ hdrCount hdr + 1))

/-- It, of a header that its target gives. -/
def slotPreOf (good : DWord → Nat → Bool) : State → WordCtx → Ent → Val → Val → Val → Prop := fun s w e x y _ => x.poison = false ∧ y.poison = false
  ∧ (x.d.extractLsb' 0 56).toNat % 8 = 0 ∧ (fetchWord s (s.tagsOf w.core w.team) (x.d.extractLsb' 0 56).toNat e.lane.refused).2.bus = none
  ∧ (match (fetchWord s (s.tagsOf w.core w.team) (x.d.extractLsb' 0 56).toNat e.lane.refused).1 with
    | .ok hdr => (hdrBad hdr || decide (y.lo.toNat ≤ hdrCount hdr + 1)) && good hdr y.lo.toNat
    | .error (.fail _) => good 0 99
    | .error _ => false) = true

theorem slotPre_of {good : DWord → Nat → Bool} {s : State} {w : WordCtx} {e : Ent} {x y z : Val} (h : slotPreOf good s w e x y z) : slotPre s w e x y z := by
  obtain ⟨h1, h2, h3, h4, h5⟩ := h
  refine ⟨h1, h2, h3, _, _, rfl, h4, ?_⟩
  split at h5
  · next hdr hh =>
    simp only [Bool.and_eq_true, Bool.or_eq_true, decide_eq_true_eq] at h5
    exact .inr ⟨hdr, hh, h5.1⟩
  · next c hh => exact .inl ⟨c, hh⟩
  · cases h5

/-- The two registers of brx.slot hold an address and a slot; byte 2 of the header there is `v`. -/
def branching (va k v : Nat) (i : Instr) : State := { holding [(2, va), (4, k)] (last i) with mem := if v = 0 then [] else [⟨66, BitVec.ofNat 8 v⟩] }

def decSlot (good : DWord → Nat → Bool) (s : State) (w : WordCtx) (e : Ent) (a b c : Val) : Decidable (slotPreOf good s w e a b c) :=
  inferInstanceAs (Decidable (_ ∧ _ ∧ _ ∧ _ ∧ _ = true))

/-- Into a word of the target, to the clause after it, to a target whose header is illegal, and to one that cannot be fetched. -/
theorem witness_Transfers_slot : ∀ p ∈ ([(fun hdr k => !hdrBad hdr && decide (k ≤ hdrCount hdr)), (fun hdr k => !hdrBad hdr && decide (k = hdrCount hdr + 1)),
      (fun hdr _ => hdrBad hdr), (fun _ k => decide (k = 99))] : List (DWord → Nat → Bool)),
    MetLast (.brx always true 224 ⟨2, false⟩ ⟨4, false⟩) (slotPreOf p) := by
  intro p hp
  fin_cases hp
  · exact met_last_of (decSlot _) (branching 64 0 0) (by decide +kernel)
  · exact met_last_of (decSlot _) (branching 64 1 0) (by decide +kernel)
  · exact met_last_of (decSlot _) (branching 64 9 0x80) (by decide +kernel)
  · exact met_last_of (decSlot _) (fun i => { branching 64 0 0 i with clusters := [(0, { tlb := [⟨0, 0, false, 3⟩] })] }) (by decide +kernel)

/-- A page table in memory for context 0: its page 0 is the frame at 0x100000, writable and executable. -/
def pageTable : List Host.Cell := [⟨0x20000, 1⟩, ⟨0x20002, 4⟩, ⟨0x40000, 1⟩, ⟨0x40002, 6⟩, ⟨0x60000, 7⟩, ⟨0x60001, 4⟩, ⟨0x60002, 0x10⟩]

/-- A launch record at VA 0: one team of 32 lanes with 16 registers. -/
def recCells : List Host.Cell := [⟨0x100020, 0x22⟩, ⟨0x100028, 1⟩, ⟨0x10002A, 1⟩, ⟨0x10002C, 1⟩]

/-- Context 0 under that table, with a launch record in its memory. -/
def paged (s : State) : State := { s with mem := pageTable ++ recCells, ctxs := [(0, { st := .ready, desc := [0x20000] })] }

def recBytes : List Byte := Mem.read (pageTable ++ recCells) 0x100000 128

theorem witness_DispatchWords_post : ∃ (bytes : List Byte) (v : Nat) (l : Launch) (t u : State),
    Met (.post always false false false 10 2 4) (fun s w e x y _ => x.poison = false ∧ y.poison = false ∧ x.lo.toNat % 64 = 0
        ∧ x.lo.toNat + 64 ≤ w.team.padb ∧ e.lid = 0 ∧ w.grid.depth ≠ 10 ∧ fld (leNat (Mem.read w.team.pad x.lo.toNat 64)) 176 336 = 0
        ∧ fld (leNat (Mem.read w.team.pad x.lo.toNat 64)) 0 7 = 0
        ∧ readPtr s (s.tagsOf w.core w.team) (fld (leNat (Mem.read w.team.pad x.lo.toNat 64)) 0 64) 128 (fun p => e.lane.refused == some p) = (.ok bytes, t)
        ∧ postRec false false false (leNat bytes) (leNat (Mem.read w.team.pad x.lo.toNat 64)) y.lo = .ok v
        ∧ checkRec t (s.tagsOf w.core w.team) v (some ⟨w.team.lseq, t.carbonOf w.team.lseq⟩) (fun p => e.lane.refused == some p) = (.ok l, u)
        ∧ u.bus = none ∧ u.hits = [] ∧ u.team w.group.tid = some w.team ∧ (l.lrec.pm = true ∨ AtFront u w) ∧ u.disp.tray.length < 4096) := by
  let s0 := paged (inside (.post always false false false 10 2 4))
  exact ⟨recBytes, leNat recBytes, ⟨parseRec (leNat recBytes), [], List.replicate 8 ⟨0, 0⟩⟩, s0, s0,
    met_of (fun _ _ _ _ _ _ => inferInstance) (fun _ => s0) (by decide +kernel)⟩

/-- A core that holds a copy of an earlier launch of a task, and one that holds none. -/
theorem witness_TaskWords_copy : ∃ t : Task, ∀ l ∈ ([[], [⟨1, { t with relaunch := t.relaunch + 1 }, 0⟩], [⟨2, t, 0⟩]] : List (List TaskCopy)),
    ∀ k ∈ (({ State.reset with cores := [(0, { copies := l })] } : State).core 0).copies, k.lseq = 1 → k.entry.relaunch ≠ t.relaunch :=
  ⟨{ idx := 0, ctx := 0, postmark := 0, carbon := 0, st := .running }, by decide +kernel⟩

/-- A word in a clause with the hypotheses of an equation about the whole state. -/
theorem witness_TaskWords_abrt : ∃ k t, Met (.abrt always true ⟨2, false⟩) (fun s w e x _ _ => s.task w.team.lseq = some k ∧ AtFront s w
    ∧ t = abortTasks (afterWord (s.modTask w.team.lseq (fun t => { t with acode := x.lo })) w (.abrt always true ⟨2, false⟩) [(e, .off)]) [w.team.lseq] true
    ∧ t.bus = none) := by
  let k : Task := { idx := 0, ctx := 0, postmark := 0, carbon := 0, st := .running }
  let s0 : State := let s := inside (.abrt always true ⟨2, false⟩)
    { s with tasks := [(1, k)], cores := s.cores.map (fun c => (c.1, { c.2 with front := [⟨0, some (0, 1)⟩] })) }
  have h : runs s0 (.abrt always true ⟨2, false⟩) (fun s w e x _ _ => decide (w.group.slot < hdrCount w.group.hdr ∧ s.task w.team.lseq = some k ∧ AtFront s w
    ∧ (abortTasks (afterWord (s.modTask w.team.lseq (fun t => { t with acode := x.lo })) w (.abrt always true ⟨2, false⟩) [(e, .off)]) [w.team.lseq] true).bus
      = none)) = true := by decide +kernel
  obtain ⟨w, e, a, b, c, hs, hp⟩ := single_of h
  have hp := of_decide_eq_true hp
  exact ⟨k, _, s0, w, e, a, b, c, ⟨hs, hp.1⟩, hp.2.1, hp.2.2.1, rfl, hp.2.2.2⟩

/-- A pool at VA 0 whose header breaks R388: the read itself does not fail. -/
theorem witness_SequenceAndFabricWords_kvx : ∃ t, Met (.kvx always false 10 ⟨2, false⟩ ⟨4, false⟩ ⟨8, false⟩) (fun s w e x y z => x.poison = false ∧ y.pl = false
    ∧ z.pl = false ∧ x.d.toNat % 4096 = 0 ∧ NoneFailed s w ∧ (∀ f ∈ s.flights, f.1 < s.ids)
    ∧ t = afterWord (launch s (flightOf s w e (.kvx always false 10 ⟨2, false⟩ ⟨4, false⟩ ⟨8, false⟩) (.kvx y.lo.toNat z.lo.toNat false) x.d)) w
        (.kvx always false 10 ⟨2, false⟩ ⟨4, false⟩ ⟨8, false⟩) [(e, oweD s (.kvx always false 10 ⟨2, false⟩ ⟨4, false⟩ ⟨8, false⟩) e)]
    ∧ kvxFailed (kvxNow t s.ids) s.ids = false) := by
  let i : Instr := .kvx always false 10 ⟨2, false⟩ ⟨4, false⟩ ⟨8, false⟩
  let s0 : State := paged (inside i)
  have h : runs s0 i (fun s w e x y z => let := noneFailedDec; decide (w.group.slot < hdrCount w.group.hdr ∧ x.poison = false ∧ y.pl = false
    ∧ z.pl = false ∧ x.d.toNat % 4096 = 0 ∧ NoneFailed s w ∧ (∀ f ∈ s.flights, f.1 < s.ids)
    ∧ kvxFailed (kvxNow (afterWord (launch s (flightOf s w e i (.kvx y.lo.toNat z.lo.toNat false) x.d)) w i [(e, oweD s i e)]) s.ids) s.ids = false)) = true := by
    decide +kernel
  obtain ⟨w, e, a, b, c, hs, hp⟩ := single_of h
  have hp := @of_decide_eq_true _ (_) hp
  exact ⟨_, s0, w, e, a, b, c, ⟨hs, hp.1⟩, hp.2.1, hp.2.2.1, hp.2.2.2.1, hp.2.2.2.2.1, hp.2.2.2.2.2.1, hp.2.2.2.2.2.2.1, rfl, hp.2.2.2.2.2.2.2⟩

/-- What every engine word asks for, the irrevocable ones the frontier as well (R15, R348). -/
def queuePre : State → WordCtx → Ent → Val → Val → Val → Prop := fun s w _ x y _ => x.poison = false ∧ y.poison = false ∧ x.lo.toNat % 64 = 0
  ∧ x.lo.toNat + 64 ≤ w.team.padb ∧ s.queued w.core < 64 ∧ (true = true → AtFront s w)

def queueDec : ∀ s w e a b c, Decidable (queuePre s w e a b c) := fun s w _ x y _ => inferInstanceAs (Decidable (x.poison = false ∧ y.poison = false
  ∧ x.lo.toNat % 64 = 0 ∧ x.lo.toNat + 64 ≤ w.team.padb ∧ s.queued w.core < 64 ∧ (true = true → AtFront s w)))

/-- The block at the pad's last 64 bytes. -/
def queueing (i : Instr) : State := holding [(2, 65472)] (inside i)

theorem witness_EngineWordsOfCopiesAndDispatch : ∀ i ∈ ([.copy always false false false false 10 2, .fill always false false false 10 2 4, .gath always false false false false 10 2,
    .scat always false false false false 10 2, .copy2d always false false false false 10 2, .publish always 10 2 4,
    .smerge always false 10 2, .shadow always 10 2 4, .shadowClose always 10 2 4, .cpq always false 10 2 4, .phcfgCreate always 10 2 4,
    .phcfgDestroy always 10 2 4, .phq always 10 2 4, .pshare always false false 10 2, .opclass always 10 2 4, .preempt always 10 2 4,
    .preemptResume always 10 2 4, .pquery always 10 2] : List Instr), Met i queuePre :=
  mets_of queueDec queueing _ (by decide +kernel)

theorem witness_EngineWordsOfMatricesAndSelection : ∀ i ∈ ([.mmul always false false false 10 2, .bfill always false false 10 2, .azero always 10 2, .aread always false false false .rn 10 2,
    .aepi always false false 10 2, .rqt always false 10 2, .mattn always false false false 10 2, .aalloc always 10 2 4, .mstat always 10 2,
    .topk always false false 10 2, .selm always false false 10 2, .sdraw always false false false false 10 2 4, .hook always 10 2,
    .hist always false false 10 2] : List Instr), Met i queuePre :=
  mets_of queueDec queueing _ (by decide +kernel)

theorem witness_EngineWordsOfTasksSequencesAndControl : ∀ i ∈ ([.fork always 10 2, .seal always 10 2 4, .shred always 10 2 4, .decl always 10 2, .verq always 10 2, .dtload always false false 10 2,
    .dtnode always 10 2, .dtclr always 10 2 4, .dtmask always 10 2, .dtpos always 10 2, .dtacc always false 10 2, .redact always 10 2,
    .kvfork always 10 2, .kvapp always 10 2, .kvalloc always 10 2, .kvallocInit always 10 2, .kvfree always 10 2, .pcatt always 10 2,
    .pcattIns always 10 2, .pcevict always 10 2, .bltabCreate always 10 2, .bltabDestroy always 10 2, .bltabRead always 10 2,
    .kvsurvGet always 10 2, .kvsurvClr always 10 2, .kvsurvSet always 10 2, .fstm always 10 2, .fldr always 10 2, .fexpGrant always 10 2 4,
    .fexpRevoke always 10 2 4, .fexpGroup always 10 2 4, .fexpQuery always 10 2 4, .wpset always 10 2 4, .errq always 10 2,
    .pwrq always 10 2, .idq always 10 2] : List Instr), Met i queuePre :=
  mets_of queueDec queueing _ (by decide +kernel)

/-! ### Words in general -/

/-- A ready group of one lane whose gate is `p`. -/
def gated (s : State) (i : Instr) (p : Gate → Bool) : Bool :=
  match s.wordCtx with
  | some w => match w.ents with
    | [e] => readyB s w && decide (w.group.slot < hdrCount w.group.hdr) && p (gate s w i e)
    | _ => false
  | none => false

theorem gated_of {s : State} {i : Instr} {p : Gate → Bool} (h : gated s i p = true) : ∃ w e, Ready s w ∧ w.ents = [e] ∧
    w.group.slot < hdrCount w.group.hdr ∧ p (gate s w i e) = true := by
  unfold gated at h
  split at h
  · rename_i w hw
    split at h
    · rename_i e he
      simp only [Bool.and_eq_true, decide_eq_true_eq] at h
      exact ⟨w, e, ready_of hw h.1.1, he, h.1.2, h.2⟩
    · cases h
  · cases h

/-- The word of the witnesses: its guard is p0, and it reads r2. -/
abbrev guarded : Instr := .abs ⟨false, 0⟩ false 10 ⟨2, true⟩

/-- Its lane with another r2 and another p0. -/
def asking (r : Reg) (p : Pred) : State := (inside guarded).modLane 1 0 (fun l => { l with regs := setAt l.regs 2 r, preds := setAt l.preds 0 p })

/-- It with p0 set and D still owed. -/
def owing : State := (asking {} ⟨true, false⟩).modLane 1 0 (fun l => { l with regs := setAt l.regs 10 ⟨0, false, .pend 1 false⟩ })

/-- A false guard, a register owed, a poisoned guard, an empty register with the trap bit, and none of these. -/
theorem witness_LanesThatDoNotExecute : ∀ p ∈ ([(asking {} {}, .off), (owing, .block [10]),
      (asking {} ⟨true, true⟩, .trap 5 (0xA0)), (asking ⟨0, false, .opn⟩ ⟨true, false⟩, .trap 6 (BitVec.ofNat 32 0x202))] : List (State × Gate)),
    guarded.guard.isSome = true ∧ p.1.couriers = [] ∧ p.1.flights = []
    ∧ ∃ w e, Ready p.1 w ∧ w.ents = [e] ∧ w.group.slot < hdrCount w.group.hdr ∧ gate p.1 w guarded e = p.2 := by
  have h : ([(asking {} {}, .off), (owing, .block [10]),
      (asking {} ⟨true, true⟩, .trap 5 (0xA0)), (asking ⟨0, false, .opn⟩ ⟨true, false⟩, .trap 6 (BitVec.ofNat 32 0x202))]
      : List (State × Gate)).all (fun p => p.1.couriers.isEmpty && p.1.flights.isEmpty && gated p.1 guarded (fun g => decide (g = p.2))) = true := by
    decide +kernel
  intro p hp
  have := List.all_eq_true.mp h p hp
  simp only [Bool.and_eq_true, List.isEmpty_iff] at this
  obtain ⟨w, e, h1, h2, h3, h4⟩ := gated_of this.2
  exact ⟨rfl, this.1.1, this.1.2, w, e, h1, h2, h3, of_decide_eq_true h4⟩

/-! ### Where forms trap -/

/-- A lane that executes a form, in a state in which it traps, on operands of which `p` holds. -/
def Traps (i : Instr) (p : State → WordCtx → Ent → Val → Val → Val → Bool) : Prop :=
  Met i (fun s w e x y z => NoneFailed s w ∧ s.couriers = [] ∧ (∀ f ∈ s.flights, f.1 < s.ids) ∧ p s w e x y z = true)

theorem traps_of {i : Instr} {p : State → WordCtx → Ent → Val → Val → Val → Bool} (s : State)
    (h : (runs s i (fun s w e a b c => decide (w.group.slot < hdrCount w.group.hdr) && p s w e a b c) && s.couriers.isEmpty && s.flights.isEmpty) = true) : Traps i p := by
  simp only [Bool.and_eq_true, List.isEmpty_iff] at h
  obtain ⟨w, e, a, b, c, hs, hp⟩ := single_of h.1.1
  simp only [Bool.and_eq_true, decide_eq_true_eq] at hp
  refine ⟨s, w, e, a, b, c, ⟨hs, hp.1⟩, ?_, h.1.2, ?_, hp.2⟩
  · intro f hf; rw [h.2] at hf; cases hf
  · intro f hf; rw [h.2] at hf; cases hf

/-- r2 is poisoned. -/
def poisoned (i : Instr) : State := (inside i).modLane 1 0 (fun l => l.setReg 2 0 true)

theorem witness_Traps_consumed : ∀ i ∈ ([.movx always false 10 ⟨2, false⟩, .movxw always true ⟨2, false⟩ ⟨4, false⟩, .brx always false 10 ⟨2, false⟩ ⟨4, false⟩,
    .st always false .b32 ⟨2, false⟩ ⟨4, false⟩ 0, .fst always .b32 ⟨2, false⟩ ⟨4, false⟩ 0, .rmw always .add .n32 10 ⟨2, false⟩ ⟨4, false⟩ 0, .red always .add .n32 ⟨2, false⟩ ⟨4, false⟩ 0,
    .frmw always .add false 10 ⟨2, false⟩ ⟨4, false⟩ 0, .pst always .b32 ⟨2, false⟩ ⟨4, false⟩ 0, .prmw always .add .n32 10 ⟨2, false⟩ ⟨4, false⟩ 0, .qpush always ⟨2, false⟩ ⟨4, false⟩,
    .qpop always 10 ⟨2, false⟩, .tagw always ⟨2, false⟩ ⟨4, false⟩, .post always false false false 10 2 4, .copy always false false false false 10 2] : List Instr),
    Traps i (fun _ _ _ x y _ => (consumed i.uses [(.A, x), (.B, y)]).isSome) := by
  intro i hi
  refine traps_of (poisoned i) ?_
  fin_cases hi <;> decide +kernel

/-- Addresses that are not aligned, among them the first above an aligned one. -/
theorem witness_Traps_misaligned : ∀ x ∈ ([(.brx always false 10 ⟨2, false⟩ ⟨4, false⟩, 8), (.ld always .dflt .b16 10 ⟨2, false⟩ 0, 2), (.fld always .b64 10 ⟨2, false⟩ 0, 8),
    (.st always false .b32 ⟨2, false⟩ ⟨4, false⟩ 0, 4), (.fst always .b32 ⟨2, false⟩ ⟨4, false⟩ 0, 4), (.rmw always .add .n64 10 ⟨2, false⟩ ⟨4, false⟩ 0, 8),
    (.red always .add .n32 ⟨2, false⟩ ⟨4, false⟩ 0, 4), (.frmw always .add false 10 ⟨2, false⟩ ⟨4, false⟩ 0, 4), (.ldp always 24 ⟨2, false⟩ ⟨4, false⟩, 16),
    (.qpush always ⟨2, false⟩ ⟨4, false⟩, 4096), (.qpop always 10 ⟨2, false⟩, 4096), (.kvx always false 10 ⟨2, false⟩ ⟨4, false⟩ ⟨8, false⟩, 4096),
    (.waitw always ⟨2, false⟩ ⟨4, false⟩, 4), (.post always false false false 10 2 4, 64), (.copy always false false false false 10 2, 64)] : List (Instr × Nat)),
    Traps x.1 (fun _ _ _ a _ _ => !a.poison && decide (a.d.toNat % x.2 = 1)) := by
  intro x hx
  refine traps_of (holding [(2, x.2 + 1)] ((inside x.1).modTeam 1 (fun t => { t with points := [(24, spot)] }))) ?_
  fin_cases hx <;> decide +kernel

/-- Pad addresses that are not aligned, and the first beyond the pad. -/
theorem witness_Traps_pad : ∀ i ∈ ([.pld always .b32 10 ⟨2, false⟩ 0, .pst always .b32 ⟨2, false⟩ ⟨4, false⟩ 0, .prmw always .add .n32 10 ⟨2, false⟩ ⟨4, false⟩ 0, .waitw always ⟨2, false⟩ ⟨4, false⟩]
    : List Instr), ∀ a ∈ [65534, 65536], Traps i (fun _ w _ x _ _ => !x.pl && decide (x.lo.toNat = a) && (padCheck w.team (padOff x.lo 0 4) 4).isSome && (padCheck w.team x.lo.toNat 4).isSome) := by
  intro i hi a ha
  refine traps_of (holding [(2, a)] (inside i)) ?_
  fin_cases hi <;> fin_cases ha <;> decide +kernel

/-- The first register index beyond the budget, an odd one of a pair; banks beyond the last, and none; a bank that is on its way to a mode. -/
theorem witness_Traps_index : (∀ n ∈ [127, 128], ∀ i ∈ ([.movx always true 10 ⟨2, false⟩, .movxw always true ⟨2, false⟩ ⟨4, false⟩] : List Instr),
      Traps i (fun _ _ e x _ _ => decide (x.lo.toNat = n ∧ (e.lane.regs.length ≤ x.lo.toNat ∨ x.lo.toNat % 2 = 1))))
    ∧ (∀ p ∈ ([(64, 1), (0, 0), (63, 2)] : List (Nat × Nat)), Traps (.bank always .pad ⟨2, false⟩ ⟨4, false⟩)
        (fun _ _ _ x y _ => !x.pl && !y.pl && decide (x.lo.toNat = p.1 ∧ y.lo.toNat = p.2 ∧ (63 < x.lo.toNat ∨ y.lo = 0 ∨ 64 < x.lo.toNat + y.lo.toNat))))
    ∧ Traps (.bank always .pad ⟨2, false⟩ ⟨4, false⟩) (fun s w _ x y _ => !x.pl && !y.pl && decide (y.lo ≠ 0)
        && (firstWith (s.bankBusy (clusterOf w.core) .pad) (upFrom x.lo.toNat y.lo.toNat)).isSome)
    ∧ Traps (.bankq always 10 ⟨2, false⟩) (fun _ _ _ x _ _ => !x.pl && decide (x.lo.toNat = 64)) := by
  refine ⟨?_, ?_, ?_, ?_⟩
  · intro n hn i hi
    refine traps_of (holding [(2, n)] (inside i)) ?_
    fin_cases hn <;> fin_cases hi <;> decide +kernel
  · intro p hp
    refine traps_of (holding [(2, p.1), (4, p.2)] (inside (.bank always .pad ⟨2, false⟩ ⟨4, false⟩))) ?_
    fin_cases hp <;> decide +kernel
  · exact traps_of (holding [(2, 63), (4, 1)] ((inside (.bank always .pad ⟨2, false⟩ ⟨4, false⟩)).modCluster 0 (fun c => { c with banks := [(63, ⟨.fifo, some 0⟩)] }))) (by decide +kernel)
  · exact traps_of (holding [(2, 64)] (inside (.bankq always 10 ⟨2, false⟩))) (by decide +kernel)

/-- Handles that name nothing, a rack for the words of queues and a queue for those of racks, a slot that is not reserved, stamps of 0 and of more than the
depth, and an rput to a slot that is full. The lane owes the object no command, and no stamp request could be granted. -/
theorem witness_Traps_pigeonholes : (∀ i ∈ ([.push always false false ⟨2, false⟩ ⟨4, false⟩, .pop always false 10 ⟨2, false⟩, .poll always 10 ⟨2, false⟩, .stamp always 10 ⟨2, false⟩ ⟨4, false⟩,
      .rput always ⟨2, false⟩ ⟨4, false⟩ ⟨8, false⟩, .rtake always 10 ⟨2, false⟩] : List Instr),
      Traps i (fun s w e x y _ => !x.pl && !y.pl && !s.holeOwed w.group.tid e.lid x.lo s.ids && (s.named w.group.tid w.core w.grid.ctx x.lo).isNone))
    ∧ (∀ i ∈ ([.push always false false ⟨2, false⟩ ⟨4, false⟩, .pop always true 10 ⟨2, false⟩, .poll always 10 ⟨2, false⟩, .stamp always 10 ⟨2, false⟩ ⟨4, false⟩] : List Instr),
      Traps i (fun s w e x y _ => !x.pl && !y.pl && !s.holeOwed w.group.tid e.lid x.lo s.ids && !s.servable rack PActKind.isStamp
        && decide (s.named w.group.tid w.core w.grid.ctx x.lo = some rack)))
    ∧ (∀ i ∈ ([.rput always ⟨2, false⟩ ⟨4, false⟩ ⟨8, false⟩, .rtake always 10 ⟨2, false⟩, .push always true false ⟨2, false⟩ ⟨4, false⟩] : List Instr),
      Traps i (fun s w e x y _ => !x.pl && !y.pl && !s.holeOwed w.group.tid e.lid x.lo s.ids && !s.servable hole PActKind.isStamp
        && decide (s.named w.group.tid w.core w.grid.ctx x.lo = some hole ∧ hole.resv = 0)))
    ∧ (∀ n ∈ [0, 3], Traps (.stamp always 10 ⟨2, false⟩ ⟨4, false⟩) (fun s w e x y _ => !x.pl && !y.pl && !s.holeOwed w.group.tid e.lid x.lo s.ids
        && decide (s.named w.group.tid w.core w.grid.ctx x.lo = some hole ∧ y.lo.toNat = n)))
    ∧ Traps (.rput always ⟨2, false⟩ ⟨4, false⟩ ⟨8, false⟩) (fun s w e x y z => !x.pl && !y.pl && !s.holeOwed w.group.tid e.lid x.lo s.ids
        && !s.servable rackOne PActKind.isPut && decide (s.named w.group.tid w.core w.grid.ctx x.lo = some rackOne ∧ rackOne.rputNow y.lo.toNat ⟨z.lo.setWidth 64, z.pl⟩ = .stale)) := by
  refine ⟨fun i hi => traps_of (inside i) ?_, fun i hi => traps_of { inside i with pigeons := [rack] } ?_, fun i hi => traps_of { inside i with pigeons := [hole] } ?_,
    fun n hn => traps_of (holding [(4, n)] { inside (.stamp always 10 ⟨2, false⟩ ⟨4, false⟩) with pigeons := [hole] }) ?_,
    traps_of (holding [(4, 1)] { inside (.rput always ⟨2, false⟩ ⟨4, false⟩ ⟨8, false⟩) with pigeons := [rackOne] }) (by decide +kernel)⟩
  · fin_cases hi <;> decide +kernel
  · fin_cases hi <;> decide +kernel
  · fin_cases hi <;> decide +kernel
  · fin_cases hn <;> decide +kernel

/-- Points that do not exist, counts out of their range, a courier to no team and one with a reserved bit set. -/
theorem witness_Traps_points : (∀ i ∈ ([.arrive always ⟨2, false⟩ ⟨4, false⟩, .await always 10 ⟨2, false⟩ ⟨4, false⟩, .expect always ⟨2, false⟩ ⟨4, false⟩] : List Instr),
      Traps i (fun s w e x y _ => !x.pl && !y.pl && !s.holeOwed w.group.tid e.lid (pointHandle x.lo.toNat) s.ids
        && ((s.team w.group.tid).bind (fun t => Tab.find x.lo.toNat t.points)).isNone))
    ∧ (∀ p ∈ ([(.arrive always ⟨2, false⟩ ⟨4, false⟩, 65536), (.expect always ⟨2, false⟩ ⟨4, false⟩, 65536), (.expect always ⟨2, false⟩ ⟨4, false⟩, 0)] : List (Instr × Nat)),
      Traps p.1 (fun s w e x y _ => !x.pl && !y.pl && !s.holeOwed w.group.tid e.lid (pointHandle x.lo.toNat) s.ids
        && ((s.team w.group.tid).bind (fun t => Tab.find x.lo.toNat t.points)).isSome && s.ldpDone w.group.tid e.lid && decide (y.lo.toNat = p.2)))
    ∧ Traps (.cwr always ⟨2, false⟩ ⟨4, false⟩) (fun s w _ x _ _ => !x.poison && (courierTeam s w (fld x.d.toNat 32 32)).isNone)
    ∧ Traps (.cwr always ⟨2, false⟩ ⟨4, false⟩) (fun s w _ x _ _ => !x.poison && (courierTeam s w (fld x.d.toNat 32 32)).isSome && decide (fld x.d.toNat 23 9 = 1)) := by
  refine ⟨fun i hi => traps_of (inside i) ?_, fun p hp => traps_of (holding [(4, p.2)] ((inside p.1).modTeam 1 (fun t => { t with points := [(0, spot)] }))) ?_,
    traps_of (holding [(3, 1)] (inside (.cwr always ⟨2, false⟩ ⟨4, false⟩))) (by decide +kernel), traps_of (holding [(2, 2 ^ 23 + 2 ^ 22)] (inside (.cwr always ⟨2, false⟩ ⟨4, false⟩))) (by decide +kernel)⟩
  · fin_cases hi <;> decide +kernel
  · fin_cases hp <;> decide +kernel

/-- The rest: accept's limits, post's lane and depth, abrt outside a task, a breakpoint without rights, counters and features beyond the last. -/
theorem witness_Traps_rest : (∀ p ∈ ([(0, 0), (0, 65536), (2, 1)] : List (Nat × Nat)), Traps (.accept always ⟨2, false⟩ ⟨4, false⟩)
      (fun _ _ _ x y _ => !x.pl && !y.pl && decide (x.lo.toNat = p.1 ∧ y.lo.toNat = p.2 ∧ (y.lo = 0 ∨ 65535 < y.lo.toNat ∨ y.lo.toNat < x.lo.toNat))))
    ∧ Traps (.post always false false false 10 2 4) (fun _ w e x _ _ => !x.poison && decide (x.lo.toNat % 64 = 0 ∧ x.lo.toNat + 64 ≤ w.team.padb ∧ e.lid = 0 ∧ w.grid.depth = 10))
    ∧ Traps (.abrt always false ⟨2, false⟩) (fun s w _ _ _ _ => (s.task w.team.lseq).isNone)
    ∧ Traps (.bkpt always ⟨2, false⟩) (fun s w e _ _ _ => !e.lane.passing.contains 20 && !(s.dbgOf w.grid.ctx).rights)
    ∧ Traps (.ctrr always .live 10 ⟨2, false⟩) (fun _ _ _ x _ _ => !x.pl && decide (x.lo.toNat = 13))
    ∧ Traps (.featq always 10 ⟨2, false⟩) (fun _ _ _ x _ _ => !x.pl && decide (x.lo.toNat = 8)) := by
  refine ⟨fun p hp => traps_of (holding [(2, p.1), (4, p.2)] (inside (.accept always ⟨2, false⟩ ⟨4, false⟩))) ?_,
    traps_of ((inside (.post always false false false 10 2 4)).modGrid 1 (fun g => { g with depth := 10 })) (by decide +kernel),
    traps_of (inside (.abrt always false ⟨2, false⟩)) (by decide +kernel), traps_of (inside (.bkpt always ⟨2, false⟩)) (by decide +kernel),
    traps_of (holding [(2, 13)] (inside (.ctrr always .live 10 ⟨2, false⟩))) (by decide +kernel), traps_of (holding [(2, 8)] (inside (.featq always 10 ⟨2, false⟩))) (by decide +kernel)⟩
  fin_cases hp <;> decide +kernel

/-- post by another lane than lane 0, and brx to a slot beyond the last. -/
theorem witness_Traps_slots : Traps (.post always false false false 10 2 4) (fun _ w e x y _ => !x.poison && !y.poison && decide (x.lo.toNat % 64 = 0 ∧ x.lo.toNat + 64 ≤ w.team.padb ∧ e.lid = 1))
    ∧ Traps (.brx always true 224 ⟨2, false⟩ ⟨4, false⟩) (fun s w e x y _ => !x.poison && !y.poison && decide (x.lo.toNat % 8 = 0
      ∧ fetchWord s (s.tagsOf w.core w.team) (x.d.extractLsb' 0 56).toNat e.lane.refused = (.ok 0, s) ∧ hdrBad 0 = false ∧ y.lo.toNat = hdrCount 0 + 2)) := by
  refine ⟨traps_of (((inside (.post always false false false 10 2 4)).modTeam 1 (fun t => { t with lanes := t.lanes ++ t.lanes })).modSched 0 0
      (fun x => { x with groups := x.groups.map (fun g => { g with lanes := [(0, 1)] }) })) (by decide +kernel),
    traps_of (holding [(2, 64), (4, 2)] (inside (.brx always true 224 ⟨2, false⟩ ⟨4, false⟩))) (by decide +kernel)⟩

/-- Two lanes, the first of which holds a poisoned r2. -/
def twoLanes (i : Instr) : State :=
  ((inside i).modTeam 1 (fun t => { t with lanes := t.lanes.map (fun l => l.setReg 2 0 true) ++ t.lanes })).modSched 0 0
    (fun x => { x with groups := x.groups.map (fun g => { g with lanes := [(0, 0), (1, 1)] }) })

def bothRun (i : Instr) : Bool :=
  match (twoLanes i).wordCtx with
  | some w => readyB (twoLanes i) w && decide (w.group.slot < hdrCount w.group.hdr) && (match w.ents with
    | [e, f] => (match gate (twoLanes i) w i e, gate (twoLanes i) w i f with
      | .go a _ _, .go b _ _ => a.poison && !b.poison
      | _, _ => false)
    | _ => false)
  | none => false

/-- An add into a team scalar by two lanes, of which the lower one is poisoned, and a wide one that is the lowest of the scalars' pairs. -/
theorem witness_ScalarWrite_lanes : ∀ i ∈ ([.add always true true 159 ⟨2, false⟩ ⟨4, false⟩, .add64 always true true 158 ⟨2, false⟩ ⟨4, false⟩] : List Instr), ∃ w e f a b c a' b' c' u,
    Inside (twoLanes i) w ∧ Clear (twoLanes i) w i ∧ w.ents = [e, f] ∧ gate (twoLanes i) w i e = .go a b c ∧ gate (twoLanes i) w i f = .go a' b' c' ∧ a.poison = true ∧ a'.poison = false
    ∧ destOf i = some u ∧ isScal u.code.toNat = true := by
  intro i hi
  have h : bothRun i = true := by fin_cases hi <;> decide +kernel
  have hd : ∃ u, destOf i = some u ∧ isScal u.code.toNat = true := by fin_cases hi <;> exact ⟨_, rfl, by decide⟩
  obtain ⟨u, hu⟩ := hd
  unfold bothRun at h
  split at h
  · rename_i w hw
    simp only [Bool.and_eq_true, decide_eq_true_eq] at h
    obtain ⟨⟨h1, h2⟩, h3⟩ := h
    split at h3
    · rename_i e f he
      split at h3
      · rename_i a b c a' b' c' ha hb
        simp only [Bool.and_eq_true, Bool.not_eq_true'] at h3
        refine ⟨w, e, f, _, _, _, _, _, _, u, ⟨ready_of hw h1, h2⟩, ?_, he, ha, hb, h3.1, h3.2, hu⟩
        intro x hx
        rw [he] at hx
        simp only [List.mem_cons, List.not_mem_nil, or_false] at hx
        rcases hx with rfl | rfl
        · exact .inr ⟨_, _, _, ha⟩
        · exact .inr ⟨_, _, _, hb⟩
      · cases h3
    · cases h3
  · cases h

/-- Scalar writes that wait for the end of the cycle: one, and two of one scalar from two schedulers. -/
theorem witness_ScalarWrite_tick : ∀ p ∈ ([[(0, 31, 7)], [(0, 31, 7), (3, 31, 8)], [(3, 31, 7), (0, 31, 8)]] : List (List (Nat × Nat × Word))), ∃ (s : State) (m : Team),
    s.team 1 = some m ∧ s.sys.writes = [] ∧ m.pendScal = p :=
  fun p _ => ⟨(stand 0 0x17 guarded).modTeam 1 (fun t => { t with pendScal := p }), _, rfl, rfl, rfl⟩

/-- The magnitudes between which rounding decides: a tie, and what lies beyond the largest finite one. -/
theorem witness_Rounding : RoundsTo f32 .rn false (ratio f32 3 1 (-150)) 2 ∧ RoundsTo f32 .rd true (ratio f32 1 1 (-150)) 1 ∧ RoundsTo f32 .ru false (ratio f32 (2 ^ 25) 1 103) (f32.big + 1)
    ∧ RoundsTo f32 .rz false (ratio f32 (2 ^ 25) 1 103) f32.big := by
  refine ⟨?_, ?_, ?_, ?_⟩ <;> (unfold RoundsTo; decide +kernel)

/-- Of the same words: the clauses about a budget of 8 registers and about a feature that may not be used. -/
theorem witness_OrderOfPlaces : (∃ u ∈ guarded.uses, ∃ n ∈ u.laneRegs, 2 ≤ n) ∧ featureOf (.bkpt always ⟨2, false⟩) = some 2
    ∧ bit State.reset.sys.featAcc 2 = false ∧ (∃ b, guarded.guard = some b ∧ b.p.toNat = 0) := by decide +kernel

theorem witness_ScalarWrite : Met (.add always true true 159 ⟨2, false⟩ ⟨4, false⟩) (fun _ w _ x y _ => 128 ≤ ((159 : Code)).toNat ∧ ((159 : Code)).toNat < 160
    ∧ x.pl = false ∧ y.pl = false ∧ w.team.pendScal = []) :=
  met_of (fun _ _ _ _ _ _ => inferInstance) inside (by decide +kernel)

/-- The next thing is that scheduler 0 of core 0 issues for its only group, of the clause `hdr`. -/
def turn (hdr : DWord) (i : DWord) : State :=
  { (stand hdr 0x17 guarded).modSched 0 0 (fun x => { x with groups := [⟨2, 1, 0, hdr, [i], 0, [(0, 0)], 0, 0, false, false, false⟩] }) with agenda := [.issue 0 0] }

def issuesB (t : State) (g : Group) : Bool :=
  decide ((t.sched 0 0).issued ≤ t.cyc) && decide (pickGroup t 0 0 = some g) && decide (g.entry = false) && t.dbg.isEmpty && (issuing t 0 0 g).wordCtx.isSome

theorem issues_of {t : State} {g : Group} (h : issuesB t g = true) : ∃ w, Issues t 0 0 g w := by
  simp only [issuesB, Bool.and_eq_true, decide_eq_true_eq, List.isEmpty_iff] at h
  obtain ⟨⟨⟨⟨h1, h2⟩, h3⟩, h4⟩, h5⟩ := h
  obtain ⟨w, hw⟩ := Option.isSome_iff_exists.mp h5
  exact ⟨w, h1, h2, h3, fun u _ => by simp only [State.dbgOf, h4]; rfl, hw⟩

theorem witness_StepRunsTheDecodedWord : ∃ (s t : State) (g : Machine.Group) (w : WordCtx) (i : Instr), s.agenda = Choice.issue 0 0 :: [] ∧ t = { s with agenda := [] } ∧ Issues t 0 0 g w
    ∧ slotTrap g.hdr (nth 0 g.words g.slot) g.slot = none ∧ decode (nth 0 g.words g.slot) = .ok i := by
  let t : State := { turn 3 0x000000E1E3013F01 with agenda := [] }
  obtain ⟨w, hw⟩ := issues_of (t := t) (g := ⟨2, 1, 0, 3, [0x000000E1E3013F01], 0, [(0, 0)], 0, 0, false, false, false⟩) (by decide +kernel)
  exact ⟨turn 3 0x000000E1E3013F01, t, _, w, .and ⟨false, 63⟩ 1 ⟨0xE3, false⟩ ⟨0xE1, false⟩, rfl, rfl, hw, by decide +kernel, by decide +kernel⟩

/-- A word of an engine class in a clause with ECLASS 0, and a word of class 13. -/
theorem witness_WordsThatAreNoInstruction : (∃ (s t : State) (g : Machine.Group) (w : WordCtx), s.agenda = Choice.issue 0 0 :: [] ∧ t = { s with agenda := [] } ∧ Issues t 0 0 g w ∧ s.bus = none
      ∧ slotTrap g.hdr (nth 0 g.words g.slot) g.slot = some 2)
    ∧ (∃ (s t : State) (g : Machine.Group) (w : WordCtx), s.agenda = Choice.issue 0 0 :: [] ∧ t = { s with agenda := [] } ∧ Issues t 0 0 g w ∧ s.bus = none
      ∧ slotTrap g.hdr (nth 0 g.words g.slot) g.slot = none ∧ decode (nth 0 g.words g.slot) = .error .opcode) := by
  refine ⟨?_, ?_⟩
  · let t : State := { turn 3 0x0000000000003F50 with agenda := [] }
    obtain ⟨w, hw⟩ := issues_of (t := t) (g := ⟨2, 1, 0, 3, [0x0000000000003F50], 0, [(0, 0)], 0, 0, false, false, false⟩) (by decide +kernel)
    exact ⟨turn 3 0x0000000000003F50, t, _, w, rfl, rfl, hw, rfl, by decide +kernel⟩
  · let t : State := { turn 3 0x0000000000003F0C with agenda := [] }
    obtain ⟨w, hw⟩ := issues_of (t := t) (g := ⟨2, 1, 0, 3, [0x0000000000003F0C], 0, [(0, 0)], 0, 0, false, false, false⟩) (by decide +kernel)
    exact ⟨turn 3 0x0000000000003F0C, t, _, w, rfl, rfl, hw, rfl, by decide +kernel, by decide +kernel⟩

theorem witness_StepOfAnEvent : (∃ s : State, s.agenda = [.event .shareRecompute] ∧ Instr.shareRecompute.guard = none)
    ∧ (∃ s : State, s.agenda = [.event guarded] ∧ guarded.guard.isSome = true) :=
  ⟨⟨{ State.reset with agenda := [.event .shareRecompute] }, rfl, rfl⟩, ⟨{ State.reset with agenda := [.event guarded] }, rfl, rfl⟩⟩

theorem witness_DecodeOfEncode : guarded.guard.isSome = true ∧ guarded.wf = true := by decide +kernel

theorem witness_DecodeIsSound : decode 0x0000000000003F0B = .ok (.exit always) := by decide +kernel

theorem witness_WorkedWordsAndReservedOpcodes : 13 ≤ (0xD0 : DWord).toNat / 16 % 16 ∧ 0xB6 ≤ (0xB6 : DWord).toNat % 256 ∧ (0xBF : DWord).toNat % 256 ≤ 0xBF := by
  decide

/-- A memory of one byte that is not zero. -/
def oneByte : State := { State.reset with mem := [(3, 1)] }

theorem witness_StepsTouchMemoryOnly_MemoryStaysCanonical : ∃ s t, s.bus = none ∧ Mem.wf s.mem = true ∧ step s = .next t :=
  ⟨{ oneByte with agenda := [.tick 1] }, tick oneByte 1, rfl, by decide, by
    have h : (tick oneByte 1).bus = none := by decide +kernel
    change finish (tick oneByte 1) = _
    rw [finish, h]⟩

theorem witness_LanesAtTheStart : 0 < 4 ∧ 31 < 32 * nth 0 placedRec.lanes32 0 := by decide

/-! ### Events -/

/-- A team of one lane that stands at the header at VA 0, in no group, in context 0, whose page 0 is full of zeros. -/
def idle : State :=
  { stand 0 0x17 guarded with
    cores := []
    teams := [(1, { lseq := 1, tlin := 0, loc := .resident 0 0, padb := 65536, lanes := [{ regs := List.replicate 128 {}, preds := List.replicate 63 {} }] })] }

/-- Its lane changed. -/
def idleLane (f : Lane → Lane) : State := idle.modLane 1 0 f

/-- Its lane filed in a bin. -/
def binned : State := idle.modSched 0 0 (fun x => { x with bins := [⟨1, 0, [(0, 0)]⟩] })

theorem witness_GroupsAndWaits_form : ∃ (b : Bin) (x : Sched) (v : State) (hdr : DWord) (words : List DWord) (t : Team), binned.bus = none ∧ v.bus = none ∧ hdrBad hdr = false
    ∧ binned.team 1 = some t ∧ (binned.dbgOf (binned.ctxOf t)).slots = [] ∧ b.tid = 1 ∧ binned.anyCandidate 0 0 = true ∧ (binned.sched 0 0).formed ≠ binned.cyc + 1
    ∧ chooseBin binned 0 0 = some (b, x) ∧ [0] = sortBy id (b.lanes.map Prod.fst)
    ∧ (∀ n ∈ [0], (nth {} t.lanes n).h = 0 ∧ (nth {} t.lanes n).slot = none ∧ (nth {} t.lanes n).stepping = none)
    ∧ fetchClause { binned.modSched 0 0 (fun _ => { x.unfile 1 [0] with formed := binned.cyc + 1 }) with ids := binned.ids + 1 } (binned.tagsOf 0 t) 0 0
        (firstSome (fun n => (nth {} t.lanes n).refused) [0]) = (.ok hdr words, v)
    ∧ (∀ n ∈ [0], v.waitSetHolds 0 1 n t (nth {} t.lanes n) (hdrWait hdr) = true) := by
  let x := ((chooseBin binned 0 0).map Prod.snd).getD {}
  let t := nth { lseq := 0, tlin := 0, loc := .saved } (binned.teams.map Prod.snd) 0
  exact ⟨⟨1, 0, [(0, 0)]⟩, x, (fetchClause { binned.modSched 0 0 (fun _ => { x.unfile 1 [0] with formed := binned.cyc + 1 }) with ids := binned.ids + 1 }
    (binned.tagsOf 0 t) 0 0 none).2, 0, [0], t, by decide +kernel⟩

/-- Its lane's trap delivered in an earlier cycle. -/
def trapped : State := { idle.modTeam 1 (fun t => { t with traps := [⟨0, 0, 0, false⟩] }) with cyc := 1 }

theorem witness_GroupsAndWaits_trap : ∃ (t : Team) (v : State) (p : TrapPend), trapped.bus = none ∧ v.bus = none ∧ trapped.team 1 = some t
    ∧ (trapped.sched 0 0).groups.length < 8 ∧ (trapped.sched 0 0).formed ≠ trapped.cyc + 1 ∧ trapWaiting trapped 0 0 = some (1, p) ∧ p.lid = 0
    ∧ (nth {} t.lanes 0).slot = none ∧ (nth {} t.lanes 0).stepping = none
    ∧ fetchClause { trapped.modSched 0 0 (fun x => { x with formed := trapped.cyc + 1 }) with ids := trapped.ids + 1 } (trapped.tagsOf 0 t) (nth {} t.lanes 0).h 0
        (nth {} t.lanes 0).refused = (.ok 0 [0], v)
    ∧ v.waitSetHolds 0 1 0 t (nth {} t.lanes 0) (hdrWait 0) = true := by
  let t := nth { lseq := 0, tlin := 0, loc := .saved } (trapped.teams.map Prod.snd) 0
  exact ⟨t, (fetchClause { trapped.modSched 0 0 (fun x => { x with formed := trapped.cyc + 1 }) with ids := trapped.ids + 1 } (trapped.tagsOf 0 t) 0 0 none).2,
    ⟨0, 0, 0, false⟩, by decide +kernel⟩

/-- A clause whose header is illegal, and one whose lane has a load on its way for which it waits. -/
def illegal : State := { idle with mem := [⟨2, 128⟩] }
def waiting : State :=
  { idleLane (fun l => { l with regs := setAt l.regs 127 ⟨0, false, .pend 0 true⟩ }) with
    mem := [⟨1, 0x10⟩]
    flights := [(0, { tid := 1, lid := 0, tags := ⟨0, 0, 0, none⟩, kind := .ld .b32 .dflt, leaf := 0x17, d := 127, stage := .ready })] }

/-- A lane that goes on at a word of a clause, into an illegal one, into one whose wait set it meets, and into one whose wait set it does not meet. -/
theorem witness_GroupsAndWaits_enter : ∀ x ∈ ([(idle, some 1, false, true), (illegal, none, true, true), (idle, none, false, true), (waiting, none, false, false)]
      : List (State × Option Nat × Bool × Bool)), ∃ t q words u,
    x.1.bus = none ∧ x.1.team 1 = some t ∧ (x.1.dbgOf (x.1.ctxOf t)).slots = [] ∧ (∀ n ∈ [0], (nth {} t.lanes n).stepping = none)
    ∧ fetchClause x.1 (x.1.tagsOf 0 t) 0 (x.2.1.getD 0) (firstSome (fun n => (nth {} t.lanes n).refused) [0]) = (.ok q words, u)
    ∧ hdrBad q = x.2.2.1 ∧ u.waitSetHolds 0 1 0 t (nth {} t.lanes 0) (hdrWait q) = x.2.2.2 := by
  intro x hx
  let t := ((x.1.team 1)).getD { lseq := 0, tlin := 0, loc := .saved }
  refine ⟨t, (Mem.num x.1.mem 0 8 : Nat), List.replicate (1 + x.2.1.getD 0) 0, (fetchClause x.1 (x.1.tagsOf 0 t) 0 (x.2.1.getD 0) none).2, ?_⟩
  fin_cases hx <;> decide +kernel

/-- A wait for a register that is full, a fence.ld whose loads are done, and a fence of each scope whose condition holds. -/
theorem witness_GroupsAndWaits_waits : (∃ t, (idleLane (fun l => { l with wait := some (.regs [127]) })).team 1 = some t ∧ t.running.isSome = true
      ∧ waitOver (idleLane (fun l => { l with wait := some (.regs [127]) })) 1 0 t (nth {} t.lanes 0) = true)
    ∧ (∃ t, (idleLane (fun l => { l with wait := some (.fenceLd 0 (some 1)) })).team 1 = some t ∧ t.running.isSome = true ∧ (nth {} t.lanes 0).loadsDone = true)
    ∧ ∀ sc ∈ [Scope.team, .cluster, .die, .package, .fabric], ∃ t, ({ idleLane (fun l => { l with wait := some (.fence sc 0 none 0) }) with now := 65 } : State).team 1 = some t
      ∧ t.running.isSome = true ∧ ({ idleLane (fun l => { l with wait := some (.fence sc 0 none 0) }) with now := 65 } : State).fenceHolds 1 0 (nth {} t.lanes 0) sc = true
      ∧ (nth {} t.lanes 0).ferr = none := by
  have h : ∀ w : Wait, ∃ t, (idleLane (fun l => { l with wait := some w })).team 1 = some t := fun _ => ⟨_, rfl⟩
  refine ⟨⟨_, rfl, by decide +kernel, by decide +kernel⟩, ⟨_, rfl, by decide +kernel, by decide +kernel⟩, fun sc hsc => ?_⟩
  fin_cases hsc <;> exact ⟨_, rfl, by decide +kernel, by decide +kernel, by decide +kernel⟩

/-- A lane of a post that waits for room in the out-tray. -/
theorem witness_GroupsAndWaits_tray : ∃ (s : State) (t : Team) (g : Grid) (x : Launch), s.team 1 = some t ∧ t.running.isSome = true ∧ (nth {} t.lanes 0).wait = some (.outTray x 10 0 none)
    ∧ s.disp.tray.length < 4096 ∧ s.grid t.lseq = some g :=
  ⟨idleLane (fun l => { l with wait := some (.outTray ⟨placedRec, [], []⟩ 10 0 none) }), _, _, ⟨placedRec, [], []⟩, rfl, by decide +kernel, rfl, by decide +kernel, rfl⟩

/-- A command of the team's lane. -/
def cmdOf (i : Instr) : Cmd := { instr := i, tid := 1, lid := 0, tags := ⟨0, 0, 0, none⟩, h := 0, slot := 0, d := 10, aoff := 0, b := 0, spec := false }

def running_ (i : Instr) : Cmd := { cmdOf i with st := .run, blk := List.replicate 64 0 }

def withCmd (c : Cmd) : State := { idle with cmds := [(0, c)] }

theorem witness_LifeOfACommand_accept : ∃ c t, (withCmd c).cmd 0 = some c ∧ t.bus = none ∧ c.st = .queued ∧ c.suspended = false ∧ c.lost (withCmd c) = false
    ∧ (withCmd c).acceptTurn 0 c = true ∧ engineFull (withCmd c) c = false ∧ (withCmd c).ldpBefore 0 c = false ∧ (∀ g d a b, c.instr ≠ .seal g d a b ∧ c.instr ≠ .shred g d a b)
    ∧ t = engineAccept { (withCmd c).modCmd 0 (fun _ => captured (withCmd c) c) with ids := (withCmd c).ids + 1 } 0 (captured (withCmd c) c) := by
  let c := cmdOf (.pquery always 10 2)
  exact ⟨c, _, by decide +kernel, by decide +kernel, rfl, rfl, by decide +kernel, by decide +kernel, by decide +kernel, by decide +kernel, by simp [c, cmdOf], rfl⟩

def isOk (x : Eng Unit) : Option State := match x with | .ok _ t => some t | _ => none
def isWait (x : Eng Unit) : Option State := match x with | .wait t => some t | _ => none
def isFail (x : Eng Unit) : Option (Nat × Nat × State) := match x with | .fail c a t => some (c, a, t) | _ => none

theorem isOk_iff {x : Eng Unit} {t : State} (h : isOk x = some t) : x = .ok () t := by
  unfold isOk at h; split at h <;> simp_all
theorem isWait_iff {x : Eng Unit} {t : State} (h : isWait x = some t) : x = .wait t := by
  unfold isWait at h; split at h <;> simp_all
theorem isFail_iff {x : Eng Unit} {c a : Nat} {t : State} (h : isFail x = some (c, a, t)) : x = .fail c a t := by
  unfold isFail at h; split at h <;> simp_all

theorem isSome_get {α : Type} {x : Option α} (h : x.isSome = true) : ∃ a, x = some a := Option.isSome_iff_exists.mp h

/-- A step that completes, one that waits, and one that fails with its records placed. -/
theorem witness_LifeOfACommand_step : (∃ c t, (withCmd c).cmd 0 = some c ∧ (withCmd c).mayStep 0 c = true ∧ engineStep (withCmd c) 0 c = .ok () t ∧ t.bus = none)
    ∧ (∃ s c t, s.cmd 0 = some c ∧ s.mayStep 0 c = true ∧ engineStep s 0 c = .wait t ∧ t.bus = none)
    ∧ (∃ c cause addr t n u, (withCmd c).cmd 0 = some c ∧ (withCmd c).mayStep 0 c = true ∧ engineStep (withCmd c) 0 c = .fail cause addr t ∧ t.bus = none ∧ c.lost t = false
      ∧ placeRecs t (dieOf c.tags.core) c.tags.ctx [engineRec t c cause addr, BitVec.ofNat 256 (leNat (c.blk.take 32)), BitVec.ofNat 256 (leNat (c.blk.drop 32))]
        = some (n, u)) := by
  refine ⟨?_, ?_, ?_⟩
  · let c := running_ (.pquery always 10 2)
    exact ⟨c, endCmd (padWrite (withCmd c) c.tid none 0 (leBytes 32 (pqueryRec (withCmd c) c.tid))) 0 0 0, by decide +kernel⟩
  · let c := { running_ (.cwait always false 10 2 4) with b := 1, step := 1, vals := [1] }
    exact ⟨withCmd c, c, withCmd c, by decide +kernel⟩
  · let c := { running_ (.pquery always 10 2) with blk := List.replicate 64 0xFF }
    have h : ((placeRecs (withCmd c) (dieOf c.tags.core) c.tags.ctx [engineRec (withCmd c) c 0x20 0, BitVec.ofNat 256 (leNat (c.blk.take 32)), BitVec.ofNat 256 (leNat (c.blk.drop 32))]).isSome) = true := by
      decide +kernel
    obtain ⟨⟨n, u⟩, hu⟩ := isSome_get h
    exact ⟨c, 0x20, 0, withCmd c, n, u, by decide +kernel, by decide +kernel, by decide +kernel, by decide +kernel, by decide +kernel, hu⟩

/-- A suspended command of a saved team, a command of a context that has faulted, one that waits for the frontier, and one that waits for a page. -/
theorem witness_LifeOfACommand_still : (∃ (s : State) (c : Cmd), s.cmd 0 = some c ∧ s.bus = none ∧ c.suspended = true ∧ ∀ u core k, s.team c.tid = some u → u.loc ≠ .resident core k)
    ∧ ∀ c ∈ ([running_ (.pquery always 10 2), { running_ (.opclass always 10 2 4) with held := true }, { running_ (.verq always 10 2) with page := some 0 }] : List Cmd), ∃ s : State,
      s.cmd 0 = some c ∧ s.bus = none ∧ c.suspended = false ∧ (c.lost s = true ∨ c.held = true ∨ c.page.isSome = true) := by
  refine ⟨⟨{ withCmd { running_ (.pquery always 10 2) with suspended := true } with teams := [] }, { running_ (.pquery always 10 2) with suspended := true }, rfl, rfl, rfl,
    fun u core k h => by cases h⟩, fun c hc => ⟨{ withCmd c with ctxs := [(0, { st := .ready, fault := some (4, 0, 0) })] }, ?_⟩⟩
  fin_cases hc <;> decide +kernel

/-- The step of a held command at the frontier, pshare among them, and the completion of one that has ended, of a saved team too. -/
theorem witness_LifeOfACommand_end : (∃ c, (withCmd c).cmd 0 = some c ∧ c.st = .run ∧ c.suspended = false ∧ c.held = true ∧ cmdFront (withCmd c) c = true)
    ∧ (∃ (s : State) (c : Cmd), s.cmd 0 = some c ∧ c.instr = .pshare always true false 10 2 ∧ c.st = .run ∧ c.suspended = false ∧ c.held = true ∧ cmdFront s c = true ∧ c.page = none ∧ c.edge = none
      ∧ c.lost s = false ∧ (s.ctx c.tags.ctx).ctl = true ∧ s.disp.ptable.ewma ≤ 65536)
    ∧ (∀ c ∈ ([{ cmdOf (.pquery always 10 2) with st := .ended 0 false }, { cmdOf (.smerge always false 10 2) with st := .ended 0 false, suspended := true }] : List Cmd), ∃ s : State,
      s.cmd 0 = some c ∧ (s.team c.tid).isSome = true ∧ c.st = .ended 0 false
      ∧ (c.suspended = false ∨ ((∃ g o d a, c.instr = .smerge g o d a) ∧ ∀ u core k, s.team c.tid = some u → u.loc ≠ .resident core k)) ∧ c.late = [] ∧ c.lost s = false
      ∧ s.cmds.any (fun x => fillsBefore x (0, c)) = false ∧ s.bus = none ∧ (∀ g d a b, c.instr ≠ .cpq g true d a b) ∧ ∀ g d a, c.instr ≠ .decl g d a) := by
  refine ⟨⟨{ running_ (.opclass always 10 2 4) with held := true }, by decide +kernel⟩, ⟨{ withCmd { running_ (.pshare always true false 10 2) with held := true } with
    ctxs := [(0, { st := .ready, desc := [0, 0, 0, 0, 0, 2 ^ 33] })] }, { running_ (.pshare always true false 10 2) with held := true }, by decide +kernel⟩, fun c hc => ?_⟩
  fin_cases hc
  · exact ⟨withCmd { cmdOf (.pquery always 10 2) with st := .ended 0 false }, rfl, rfl, rfl, .inl rfl, rfl, by decide +kernel, by decide +kernel, rfl, by simp [cmdOf],
      by simp [cmdOf]⟩
  · refine ⟨(withCmd { cmdOf (.smerge always false 10 2) with st := .ended 0 false, suspended := true }).modTeam 1 (fun t => { t with loc := .saved }), rfl, rfl, rfl,
      .inr ⟨⟨_, _, _, _, rfl⟩, ?_⟩, rfl, by decide +kernel, by decide +kernel, rfl, by simp [cmdOf], by simp [cmdOf]⟩
    intro u core k h
    have : (some Loc.saved : Option Loc) = some u.loc := congrArg (Option.map Team.loc) h
    rw [Option.some.injEq] at this
    rw [← this]; simp

/-- A command at a step, of a team whose context has a live pair at VA 0 and 0x10000. -/
def pubCmd (i : Instr) : Cmd := { running_ i with step := 1 }

def pair0 : Pair := { ctx := 0, num := 0, front := 0, back := 0x10000, pages := 1, wlast := 6 }

def pubState (i : Instr) : State :=
  { withCmd (pubCmd i) with
    pairs := [pair0], now := 7, ctxs := [(0, { st := .ready, desc := [0x20000] })]
    mem := [⟨0x20000, 1⟩, ⟨0x20002, 4⟩, ⟨0x40000, 1⟩, ⟨0x40002, 6⟩, ⟨0x60000, 7⟩, ⟨0x60001, 4⟩, ⟨0x60002, 0x10⟩, ⟨0x60008, 7⟩, ⟨0x60009, 4⟩, ⟨0x6000A, 0x11⟩] }

theorem witness_PublicationsAndPartials_publish : ∀ x ∈ ([(.publish always 10 2 4, false), (.shadowClose always 10 2 4, true)] : List (Instr × Bool)),
    ∃ c, (pubState x.1).cmd 0 = some c ∧ pairForm c.instr = some x.2 ∧ (pubState x.1).bus = none ∧ c.st = .run ∧ c.suspended = false ∧ c.lost (pubState x.1) = false
    ∧ c.page = none ∧ c.step = 1 ∧ pairFails (pubState x.1) pair0 = none
    ∧ (∀ e ∈ (pubState x.1).cmds, ¬ (e.1 ≠ 0 ∧ e.2.st = .run ∧ (pairForm e.2.instr).isSome = true ∧ e.2.step = 1 ∧ e.2.b = c.b ∧ e.2.tags.ctx = c.tags.ctx
        ∧ nth 0 e.2.vals 0 < nth 0 c.vals 0))
    ∧ cmdFront (pubState x.1) c = true ∧ (pubState x.1).pair c.tags.ctx c.b.toNat = some pair0 ∧ pair0.live = true ∧ pair0.wlast < (pubState x.1).now := by
  intro x hx
  fin_cases hx <;> exact ⟨_, rfl, by decide +kernel⟩

/-- A partial of one element for a record of one element at VA 0, held since cycle 0 and sent again after 64 cycles. -/
def mergeCmd (at_ : Nat) : Cmd := { running_ (.smerge always false 10 2) with vals := [1, at_, 0, 0] }

def mergeState (at_ : Nat) : State := { withCmd (mergeCmd at_) with mem := [⟨12, 1⟩], cyc := 64 }

theorem witness_PublicationsAndPartials_merge : ((mergeCmd 1).lost (mergeState 1) = false ∧ (mergeCmd 2).lost (mergeState 2) = false)
    ∧ (∃ t, (mergeCmd 1).st = .run ∧ (mergeCmd 1).mgAt = 1 ∧ mergeStep (mergeState 1) 0 (mergeCmd 1) false = .ok () t ∧ t.bus = none)
    ∧ ∃ t, (mergeCmd 2).suspended = false ∧ (mergeCmd 2).mgAt = 2 ∧ (mergeCmd 2).mgSince + 64 ≤ (mergeState 2).cyc
      ∧ mergeStep (mergeState 2) 0 (mergeCmd 2) true = .ok () t ∧ t.bus = none := by
  have h : ∀ b, ((isOk (mergeStep (mergeState (if b then 1 else 2)) 0 (mergeCmd (if b then 1 else 2)) (!b))).map (fun t => t.bus.isNone)) = some true := by decide +kernel
  refine ⟨by decide +kernel, ?_, ?_⟩
  · have h1 := h true
    obtain ⟨t, ht⟩ := isSome_get (x := isOk (mergeStep (mergeState 1) 0 (mergeCmd 1) false)) (by decide +kernel)
    refine ⟨t, rfl, rfl, isOk_iff ht, ?_⟩
    change (isOk (mergeStep (mergeState 1) 0 (mergeCmd 1) false)).map _ = _ at h1
    rw [ht] at h1
    simpa using h1
  · have h1 := h false
    obtain ⟨t, ht⟩ := isSome_get (x := isOk (mergeStep (mergeState 2) 0 (mergeCmd 2) true)) (by decide +kernel)
    refine ⟨t, rfl, rfl, by decide, isOk_iff ht, ?_⟩
    change (isOk (mergeStep (mergeState 2) 0 (mergeCmd 2) true)).map _ = _ at h1
    rw [ht] at h1
    simpa using h1

/-- An access of the lane. -/
def flightOf_ (k : FKind) (st : FStage) : Flight := { tid := 1, lid := 0, tags := ⟨0, 0, 0, none⟩, kind := k, leaf := 0x17, d := 127, stage := st }

def flying (f : Flight) : State := { idleLane (fun l => { l with regs := setAt l.regs 127 ⟨0, false, .pend 0 true⟩ }) with flights := [(0, f)] }

theorem witness_AccessesComplete : ∀ f ∈ ([flightOf_ (.done 0 1 true) .ready, flightOf_ (.ld .i8 .fresh) (.got 0x80)] : List Flight),
    (flying f).bus = none ∧ (flying f).hits = [] ∧ Tab.find 0 (flying f).flights = some f := by
  intro f hf
  fin_cases hf <;> exact ⟨rfl, rfl, rfl⟩

/-- What a write that is performed asks for of the state. -/
def performs (s : State) (f : Flight) : Bool :=
  decide (f.kind.isWrite = true ∧ s.underWay f = true ∧ s.stale f.tags = false ∧ s.clear 0 f = true ∧ entryTagOk s f = true)
    && (match s.repoint f with | .ok x => x == f | .error _ => false)
    && (match performFlight s f with | .ok x => x.1.bus.isNone | .error _ => false)

theorem performs_of {s : State} {f : Flight} (h : performs s f = true) : ∃ t w v, f.kind.isWrite = true ∧ s.underWay f = true ∧ s.stale f.tags = false
    ∧ s.repoint f = .ok f ∧ s.clear 0 f = true ∧ entryTagOk s f = true ∧ performFlight s f = .ok (t, w, v) ∧ t.bus = none := by
  unfold performs at h
  split at h
  · rename_i x hx
    split at h
    · rename_i y hy
      simp only [Bool.and_eq_true, decide_eq_true_eq, beq_iff_eq] at h
      obtain ⟨⟨⟨h1, h2, h3, h4, h6⟩, rfl⟩, h5⟩ := h
      exact ⟨y.1, y.2.1, y.2.2, h1, h2, h3, hx, h4, h6, hy, by simpa using h5⟩
    · simp at h
  · simp at h

theorem witness_AccessesComplete_write : ∀ k ∈ ([.st .b32, .rmw .add .n32, .red .add .n32, .qpush, .qpop, .tagw] : List FKind), ∃ t w v, k.isWrite = true
    ∧ (flying (flightOf_ k .ready)).underWay (flightOf_ k .ready) = true ∧ (flying (flightOf_ k .ready)).stale (flightOf_ k .ready).tags = false
    ∧ (flying (flightOf_ k .ready)).repoint (flightOf_ k .ready) = .ok (flightOf_ k .ready) ∧ (flying (flightOf_ k .ready)).clear 0 (flightOf_ k .ready) = true
    ∧ entryTagOk (flying (flightOf_ k .ready)) (flightOf_ k .ready) = true ∧ performFlight (flying (flightOf_ k .ready)) (flightOf_ k .ready) = .ok (t, w, v) ∧ t.bus = none := by
  have h : ([.st .b32, .rmw .add .n32, .red .add .n32, .qpush, .qpop, .tagw] : List FKind).all (fun k => performs (flying (flightOf_ k .ready)) (flightOf_ k .ready))
    = true := by decide +kernel
  exact fun k hk => performs_of (List.all_eq_true.mp h k hk)

/-- Memory whose granule 0 holds a queue of `n` entries from index 1007. -/
def granule (n : Nat) (f : Flight) : State := { flying f with mem := Mem.write [] 0 (leBytes 4 1007 ++ leBytes 4 n) }

/-- The write that stores, the read-modify-writes, and the acts on a granule with room, full, with an entry, and empty. -/
theorem witness_AccessesComplete_stored : ∀ x ∈ ([(flightOf_ (.st .b64) .ready, 0, 8), (flightOf_ (.rmw .cas .n64) .ready, 0, 8), (flightOf_ (.red .add .n32) .ready, 0, 4),
      (flightOf_ .qpush .ready, 1007, 4096), (flightOf_ .qpush .ready, 1008, 4096), (flightOf_ .qpop .ready, 1, 4096), (flightOf_ .qpop .ready, 0, 4096)]
      : List (Flight × Nat × Nat)),
    Performs (granule x.2.1 x.1) 0 x.1 ∧ leafVersioned x.1.leaf.toNat = false ∧ Stored (granule x.2.1 x.1) x.1 x.2.2 ∧ x.1.pa % x.2.2 = 0
    ∧ Mem.num (granule x.2.1 x.1).mem (x.1.pa + 4) 4 = x.2.1 := by
  have h : ([(flightOf_ (.st .b64) .ready, 0, 8), (flightOf_ (.rmw .cas .n64) .ready, 0, 8), (flightOf_ (.red .add .n32) .ready, 0, 4),
      (flightOf_ .qpush .ready, 1007, 4096), (flightOf_ .qpush .ready, 1008, 4096), (flightOf_ .qpop .ready, 1, 4096), (flightOf_ .qpop .ready, 0, 4096)]
      : List (Flight × Nat × Nat)).all (fun x => performs (granule x.2.1 x.1) x.1 && decide (x.1.stage = .ready ∧ leafVersioned x.1.leaf.toNat = false
        ∧ Stored (granule x.2.1 x.1) x.1 x.2.2 ∧ x.1.pa % x.2.2 = 0 ∧ Mem.num (granule x.2.1 x.1).mem (x.1.pa + 4) 4 = x.2.1)) = true := by decide +kernel
  intro x hx
  have hb := List.all_eq_true.mp h x hx
  simp only [Bool.and_eq_true, decide_eq_true_eq] at hb
  obtain ⟨t, w, v, _, _, h3, h4, h5, h6, _, _⟩ := performs_of hb.1
  exact ⟨⟨hb.2.1, h3, h4, h5, h6⟩, hb.2.2⟩

/-- A load that misses, or asks for the newest bytes, read at its home slice. -/
theorem witness_AccessesComplete_read : ∀ h ∈ ([.dflt, .stream, .fresh] : List Hint), let f := { flightOf_ (.ld .b64 h) .ready with d := 126, wide := true }
    Reads (flying f) 0 f 8 ∧ (flying f).l1Hit f.tags f.tid f.lid (eaVa f.ptr) = none ∧ leafVersioned f.leaf.toNat = false ∧ leafMode f.leaf.toNat = 0
    ∧ (flying f).pairs = [] ∧ ∃ l, (flying f).lane f.tid f.lid = some l ∧ l.exited = false ∧ f.d < 128 := by
  intro h hh f
  have hn : ∀ x ∈ (flying f).flights, x.2.tid = f.tid → ∀ c, x.2.stage ≠ .fail c := by
    intro x hx _ c
    simp only [flying, List.mem_singleton] at hx
    subst hx
    simp [f, flightOf_]
  fin_cases hh <;> exact ⟨⟨by decide +kernel, by decide +kernel, by decide +kernel, by decide +kernel, by decide +kernel, hn⟩, by decide +kernel, by decide +kernel,
    by decide +kernel, by decide +kernel, _, rfl, by decide +kernel, by decide +kernel⟩

/-- A store of a task on a versioned page, into the version it has of the line; and what the task sees of its own bytes and of others. -/
theorem witness_AccessesComplete_version : ∃ (s : State) (f : Flight) (k : Task) (v : Version), Performs s 0 f ∧ leafVersioned f.leaf.toNat = true ∧ f.kind = .st .b32
    ∧ f.pa % 4 = 0 ∧ Stored s f 4 ∧ s.liveTask f.tags = some (1, k) ∧ struckBy s (some k.ctx) (some (1, k)) (f.pa / 512) = []
    ∧ s.versionOf k.ctx (f.pa / 512) (.task 1) = some v ∧ v.cells.Pairwise (fun a b => a.1 < b.1)
    ∧ (∀ y ∈ s.seen (1, k) (f.pa / 512), Mem.noted y.2.2.cells ((f.pa + 8) % 512) = none) ∧ (s.seen (1, k) (f.pa / 512)).any (fun y => Mem.noted y.2.2.cells 4 = some 7) = true := by
  let k : Task := { idx := 0, ctx := 0, postmark := 0, carbon := 0, st := .running }
  let f : Flight := { flightOf_ (.st .b32) .ready with leaf := 0x1F, tags := ⟨0, 0, 0, some (1, 0)⟩ }
  let v : Version := ⟨0, 0, .task 1, 0, [(4, 7)], false⟩
  let s : State := { flying f with tasks := [(1, k)], versions := [v] }
  have h : performs s f = true := by decide +kernel
  obtain ⟨t, w, x, _, _, h3, h4, h5, h6, _, _⟩ := performs_of h
  exact ⟨s, f, k, v, ⟨rfl, h3, h4, h5, h6⟩, by decide +kernel⟩

/-- A copy whose lease has come to its end, a bank on its way to another mode, a record that can be placed. -/
theorem witness_LeasesBanksAndRecords : (∃ (s : State) (c : Copy), (127 : Nat) < 128 ∧ (s.core 127).l1[0]? = some c ∧ c.exp ≤ s.now)
    ∧ (∃ s : State, ((s.cluster 31).bank 63).sw = some 0)
    ∧ ∃ (s : State) (p : Post) (k : Nat) (u : State), firstWith (fun (q : Post) => q.die == 1 && !s.groupLost q && (placeRecs s 1 q.ctx q.recs).isSome) s.posts = some p
      ∧ placeRecs { s with posts := s.posts.filter (fun q => q.qid != p.qid) } 1 p.ctx p.recs = some (k, u) ∧ p.act = .none := by
  refine ⟨⟨{ State.reset with cores := [(127, { l1 := [⟨0, 0, 0, 0, [], 5, 7, [], 0⟩] })], now := 5 }, _, by decide, rfl, by decide⟩,
    ⟨{ State.reset with clusters := [(31, { banks := [(63, ⟨.fifo, some 0⟩)] })] }, by decide +kernel⟩, ?_⟩
  let p : Post := ⟨3, 1, 0, [0x41], .none⟩
  let s : State := { State.reset with posts := [p] }
  obtain ⟨⟨k, u⟩, hu⟩ := isSome_get (x := placeRecs { s with posts := s.posts.filter (fun q => q.qid != p.qid) } 1 p.ctx p.recs) (by decide +kernel)
  exact ⟨s, p, k, u, by decide +kernel, hu, rfl⟩

/-- A pop that waits on a queue with an entry, a stamp on an empty one, a push on one with room. -/
def acting (k : PActKind) (p : Pigeon) : State :=
  { idle with pacts := [(0, { kind := k, scope := 0, owner := 1, num := 0, tid := 1, lid := 0, d := 10 })], pigeons := [p] }

theorem witness_ServiceOfActs : ∀ x ∈ ([(acting .pop holeOne, 0), (acting (.stamp 2) hole, 1), (acting (.push ⟨0, false⟩) holeOne, 2)] : List (State × Nat)),
    ∃ a p, x.1.bus = none ∧ x.1.hits = [] ∧ x.1.dbg = [] ∧ Tab.find 0 x.1.pacts = some a ∧ x.1.pigeon a.scope a.owner a.num = some p
    ∧ (match serveOf x.1 0 a p with | .value _ _ _ _ => 0 | .grant _ _ => 1 | .pass _ => 2 | .no | .stale => 3) = x.2 := by
  intro x hx
  fin_cases hx <;> exact ⟨_, _, rfl, rfl, rfl, rfl, rfl, by decide +kernel⟩

/-- A held courier write to an empty-open register. -/
theorem witness_ServiceOfActs_courier : ∃ (s : State) (c : Courier), Tab.find 0 s.couriers = some c ∧ s.isOpen c.tid c.lid c.reg = true
    ∧ (∀ e ∈ s.couriers, ¬ (e.1 < 0 ∧ e.2.tid = c.tid ∧ e.2.lid = c.lid ∧ e.2.reg = c.reg)) :=
  ⟨{ idleLane (fun l => l.mkOpen 127 false) with couriers := [(0, ⟨1, 0, 127, 5, false, some 31, 1, 0⟩)] }, ⟨1, 0, 127, 5, false, some 31, 1, 0⟩,
    rfl, by decide +kernel, by decide +kernel⟩

/-- A queue in spill mode. -/
def spilling (l : List Entry) : Pigeon := { hole with spm := true, spill := l, chunks := 1 }

/-- A push that has waited 4,097 cycles; a queue in spill mode with room and two, one or no entries of its extension. -/
theorem witness_ServiceOfActs_spill : (∃ (s : State) (p : Pigeon) (e : Nat × PAct) (rest : List (Nat × PAct)), s.pigeon p.scope p.owner p.num = some p
      ∧ s.waiting p PActKind.isPush = e :: rest ∧ p.scope ≤ 1 ∧ p.kind < 2 ∧ p.spm = false ∧ e.2.since + 4096 < s.cyc)
    ∧ (∀ l ∈ ([[⟨1, false⟩, ⟨2, false⟩], [⟨1, true⟩], []] : List (List Entry)), ∃ (s : State) (p : Pigeon), s.pigeon p.scope p.owner p.num = some p ∧ p.spm = true
      ∧ p.spill = l ∧ 0 < p.room ∧ s.waiting p PActKind.isPush = []) := by
  refine ⟨⟨{ acting (.push ⟨0, false⟩) holeFull with cyc := 4097 }, holeFull, _, [], rfl, rfl, by decide, by decide, rfl, by decide⟩, fun l hl => ?_⟩
  refine ⟨{ idle with pigeons := [spilling l] }, spilling l, ?_⟩
  fin_cases hl <;> exact ⟨rfl, rfl, rfl, by decide, rfl⟩

/-- A lane that waits for ever, for 65,536 cycles. -/
theorem witness_ServiceOfActs_deadlock : ∃ s : State, 65536 ≤ (s.ctx 0).stuck ∧ stuckNow s 0 = true ∧ (s.ctx 0).st = .ready ∧ (s.ctx 0).fault = none := by
  refine ⟨{ acting .pop hole with ctxs := [(0, { st := .ready, stuck := 65536 })], teams := (acting .pop hole).teams.map (fun e =>
    (e.1, { e.2 with lanes := [{ wait := some (.regs [10]), regs := setAt (List.replicate 16 {}) 10 ⟨0, false, .pend 0 false⟩ }] })) }, by decide +kernel⟩

/-- A task of context 0. -/
def task0 : Task := { idx := 0, ctx := 0, postmark := 5, carbon := 0, st := .running }

/-- The idle team's grid as a task in some state. -/
def tasking (k : Task) : State := { idle with tasks := [(1, k)] }

theorem witness_EventsOfTasks : (({ task0 with st := .held } : Task).st = .held ∧ task0.deps.any (tasking { task0 with st := .held }).holds = false)
    ∧ ((tasking { task0 with st := .finished }).frontier 0 = some (5, 1) ∧ ((tasking { task0 with st := .finished }).ctx 0).fault = none
      ∧ ((tasking { task0 with st := .finished }).ctx 0).commitCyc ≠ (tasking { task0 with st := .finished }).cyc + 1
      ∧ (commitTask (tasking { task0 with st := .finished }) 1 { task0 with st := .finished }).bus = none)
    ∧ (tasking { task0 with st := .committed }).task 1 = some { task0 with st := .committed }
    ∧ (∀ b ∈ [true, false], (tasking { task0 with st := .aborted, ends := b }).task 1 = some { task0 with st := .aborted, ends := b }) := by
  decide +kernel

/-- A finished frontier task with a version whose bytes are to enter memory. -/
theorem witness_EventsOfTasks_commit : ∃ (s : State) (k : Task) (v : Version), s.bus = none ∧ s.task 1 = some k ∧ s.frontier 0 = some (k.postmark, 1) ∧ k.st = .finished
    ∧ (s.ctx 0).fault = none ∧ (s.ctx 0).commitCyc ≠ s.cyc + 1 ∧ k.acts = [] ∧ s.fab.wrote = [] ∧ k.ctx = 0
    ∧ s.versions.filter (fun v => v.ctx == 0 && v.writer == .task 1) = [v] ∧ v.line / 128 < 2 ^ 48 ∧ Mem.wf s.mem = true ∧ v.cells.Pairwise (fun a b => a.1 < b.1) ∧ v.cells ≠ [] :=
  ⟨{ tasking { task0 with st := .finished } with versions := [⟨0, 3, .task 1, 0, [(0, 1), (511, 2)], false⟩] }, { task0 with st := .finished },
    ⟨0, 3, .task 1, 0, [(0, 1), (511, 2)], false⟩, by decide +kernel⟩

theorem witness_EventsOfTasks_park : ∀ p ∈ ([.act, .halt 4, .trap ⟨0, 0, 0⟩] : List Park), ∃ (s : State) (l : Lane), parkedLanes s 1 = [(1, 0)] ∧ s.lane 1 0 = some l
    ∧ l.exited = false ∧ l.halted = none ∧ l.parked = some p := by
  intro p hp
  refine ⟨(tasking task0).modLane 1 0 (fun l => { l with parked := some p }), { regs := List.replicate 128 {}, preds := List.replicate 63 {}, parked := some p }, ?_⟩
  fin_cases hp <;> decide +kernel

/-- The frontier's task waits for the place of a version of line 0, which three tasks have written; a later task has a spilled version. -/
def crowded : State :=
  let v := fun (k line : Nat) (b : Bool) => (⟨0, line, .task k, 0, [], b⟩ : Version)
  { idle with
    tasks := [(1, task0), (2, { task0 with postmark := 6 })]
    versions := [v 3 0 false, v 4 0 false, v 5 0 false, v 2 9 true]
    flights := [(0, { flightOf_ (.st .b32) .ready with tags := ⟨0, 0, 0, some (1, 0)⟩, leaf := 0x1F })] }

theorem witness_EventsOfTasks_space : ∃ v, crowded.frontier 0 = some (5, 1) ∧ crowded.waitsPlace 1 task0 = true
    ∧ leastBy (fun (e : Nat × Task) => 2 ^ 112 - (e.2.postmark * 2 ^ 64 + e.1)) (crowded.tasks.filter (fun e => e.1 != 1 && e.2.ctx == 0
        && e.2.st != .committed && e.2.st != .aborted && crowded.versions.any (fun v => v.ctx == 0 && v.spilled && v.writer == .task e.1))) = some v
    ∧ (abortTasks crowded [v.1] false).bus = none :=
  ⟨(2, { task0 with postmark := 6 }), by decide +kernel⟩

/-- A record of the out-tray, plain or a task's. -/
def trayRec (pm : Bool) : Tray :=
  { lseq := 1, ctx := 0, lrec := { placedRec with pm := pm }, config := [], depth := 2, posterTeam := some 7, posterGrid := some 0, carbon := 0 }

/-- Queue 15 with one record, of cells `cs`, at physical address 0. -/
def submitted (cs : List Host.Cell) : State :=
  { State.reset with ctxs := [(0, { st := .ready })], mem := cs, disp := { queues := [(15, { en := true, tail := 1 })] } }

theorem witness_TakingARecord : (∀ pm ∈ [true, false], ∃ s : State, s.bus = none ∧ s.disp.lastTake ≠ s.cyc + 1 ∧ s.grids.length < 4096 ∧ s.ctxRuns 0 = true
      ∧ s.disp.tray = [trayRec pm] ∧ (∀ k, k < 16 → s.sourceNext k = none) ∧ s.tasks.length < 1024)
    ∧ ∀ cs ∈ ([[], [⟨32, 0x22⟩, ⟨40, 1⟩, ⟨42, 1⟩, ⟨44, 1⟩]] : List (List Host.Cell)),
      Tab.find 15 (submitted cs).disp.queues = some { en := true, tail := 1 } ∧ (∀ k, k ≤ 16 → k ≠ 15 → (submitted cs).sourceNext k = none)
      ∧ (0 : Nat) ≠ 1 % 2 ^ 4 ∧ (submitted cs).ctxRuns 0 = true ∧ hasFrame 0 = true ∧ hasFrame 127 = true
      ∧ (if cs = [] then recCause (Mem.num cs 0 128) = some 0x21 else recCause (Mem.num cs 0 128) = none
        ∧ (parseRec (Mem.num cs 0 128)).config = 0 ∧ (parseRec (Mem.num cs 0 128)).sets = 0 ∧ (parseRec (Mem.num cs 0 128)).pm = false
        ∧ (parseRec (Mem.num cs 0 128)).carbon = 0 ∧ (parseRec (Mem.num cs 0 128)).guess = false) := by
  refine ⟨fun pm _ => ⟨{ State.reset with ctxs := [(0, { st := .ready })], disp := { tray := [trayRec pm], lseq := 2 } }, rfl, Nat.zero_ne_one, Nat.zero_lt_succ _, rfl, rfl, ?_, Nat.zero_lt_succ _⟩, ?_⟩
  · intro k hk
    simp [State.sourceNext, Nat.ne_of_lt hk, Tab.get, Tab.find]
  · decide +kernel

/-- Grid 1 of partition 0 has a team to start. -/
def starting (r : Rec) : State :=
  { State.reset with ctxs := [(0, { st := .ready })], grids := [(1, { ctx := 0, lrec := r })], disp := { ptable := { shares := [1, 31, 16, 16] } } }

theorem witness_StartsAndResumptions_start : ∃ (o : Ord) (g : Grid) (x : Placing), (starting placedRec).order 0 = [o]
    ∧ Tab.find 0 (starting placedRec).disp.blocked = none ∧ Tab.find 0 (starting placedRec).disp.chosen = none ∧ o.saved = none
    ∧ (starting placedRec).grid o.lseq = some g ∧ (∀ q ∈ [o], (starting placedRec).now < q.joined + 100000)
    ∧ (starting placedRec).chooseCore 0 o.need false = some (0, x) ∧ (starting placedRec).frontEnd (dieOf 0) = true
    ∧ o.joined + 100000 ≤ ({ starting placedRec with now := 100000 } : State).now ∧ ({ starting placedRec with now := 100000 } : State).order 0 = [o] :=
  ⟨⟨1, 0, none, 0, ⟨placedRec, [], (0, 0), []⟩⟩, { ctx := 0, lrec := placedRec }, ⟨0, 0, [], 0, 0⟩, by decide +kernel⟩

/-- A grid of class 2 while both dies stand at class 1. -/
def switching : State := { starting { placedRec with opclass := 2 } with now := 100000, grids := [(1, { ctx := 0, lrec := { placedRec with opclass := 2 }, joined := 1 })] }

theorem witness_StartsAndResumptions_switch : ∃ (o : Ord) (x : Placing), switching.order 0 = [o] ∧ Tab.find 0 switching.disp.blocked = none
    ∧ Tab.find 0 switching.disp.chosen = none ∧ o.saved = none ∧ (switching.grid o.lseq).isSome = true ∧ o.need.lrec.opclass ≠ 0
    ∧ switching.chooseCore 0 o.need false = none ∧ switching.chooseCore 0 o.need true = some (0, x) ∧ (switching.point (dieOf 0)).sw = none
    ∧ (switching.point (dieOf 0)).cls ≠ o.need.lrec.opclass ∧ switching.frontEnd (dieOf 0) = true ∧ (switching.point (dieOf 0)).since + 100000 ≤ switching.now
    ∧ switching.disp.points.length = 2 :=
  ⟨⟨1, 0, none, 1, ⟨{ placedRec with opclass := 2 }, [], (0, 0), []⟩⟩, ⟨0, 0, [], 0, 0⟩, by decide +kernel⟩

/-- The same soon after a switch, with no team on the die, and with one of the class of its point: the switch begins, and does not. -/
def switchingSoon : State := { switching with now := 5, disp := { switching.disp with points := [{ since := 1 }, { since := 1 }] } }
def switchingHeld : State :=
  { switchingSoon with
    teams := [(9, { lseq := 7, tlin := 0, loc := .resident 3 0 })]
    grids := switchingSoon.grids ++ [(7, { ctx := 0, lrec := { placedRec with opclass := 1 }, next := 1 })] }

theorem witness_StartsAndResumptions_soon : (∃ (o : Ord) (x : Placing), switchingSoon.order 0 = [o] ∧ Tab.find 0 switchingSoon.disp.blocked = none
      ∧ Tab.find 0 switchingSoon.disp.chosen = none ∧ o.saved = none ∧ (switchingSoon.grid o.lseq).isSome = true ∧ o.need.lrec.opclass ≠ 0
      ∧ switchingSoon.chooseCore 0 o.need false = none ∧ switchingSoon.chooseCore 0 o.need true = some (0, x) ∧ (switchingSoon.point (dieOf 0)).sw = none
      ∧ (switchingSoon.point (dieOf 0)).cls ≠ o.need.lrec.opclass ∧ switchingSoon.frontEnd (dieOf 0) = true ∧ switchingSoon.disp.points.length = 2
      ∧ ¬ (switchingSoon.point (dieOf 0)).since + 100000 ≤ switchingSoon.now ∧ switchingSoon.teams = [])
    ∧ ∃ (o : Ord) (x : Placing) (e : Team) (g : Grid), switchingHeld.order 0 = [o] ∧ Tab.find 0 switchingHeld.disp.blocked = none ∧ Tab.find 0 switchingHeld.disp.chosen = none
      ∧ switchingHeld.chooseCore 0 o.need true = some (0, x) ∧ switchingHeld.now < (switchingHeld.point (dieOf 0)).since + 100000 ∧ (9, e) ∈ switchingHeld.teams
      ∧ e.place = some (3, 0) ∧ dieOf 3 = dieOf 0 ∧ switchingHeld.grid e.lseq = some g ∧ g.lrec.opclass = (switchingHeld.point (dieOf 0)).cls :=
  ⟨⟨⟨1, 0, none, 1, ⟨{ placedRec with opclass := 2 }, [], (0, 0), []⟩⟩, ⟨0, 0, [], 0, 0⟩, by decide +kernel⟩,
    ⟨⟨1, 0, none, 1, ⟨{ placedRec with opclass := 2 }, [], (0, 0), []⟩⟩, ⟨0, 0, [], 0, 0⟩, { lseq := 7, tlin := 0, loc := .resident 3 0 },
      { ctx := 0, lrec := { placedRec with opclass := 1 }, next := 1 }, by decide +kernel⟩⟩

/-- A saved team whose image is the digest of nothing. -/
def savedTeam : Team := { lseq := 1, tlin := 0, loc := .saved, lanes := [{ regs := [{}], preds := [] }], padb := 64, image := some (0, 1, 64, 3) }

def resuming : State :=
  { starting placedRec with
    grids := [(1, { ctx := 0, lrec := { placedRec with padb := 64 }, next := 1 })]
    teams := [(1, savedTeam)]
    mem := Mem.write [] 0 (leBytes 64 (shake256 []).toNat) }

theorem resuming_image : imageGood resuming 0 0 64 = true := by
  have h : Mem.read resuming.mem 0 64 = leBytes 64 (shake256 []).toNat := by
    have := mem_read_write [] 0 (leBytes 64 (shake256 []).toNat) rfl
    simpa [resuming, leBytes_length] using this
  have hb : (resuming.ctx 0).saveBase + 65536 * 0 = 0 := by decide +kernel
  have hd : leNat (leBytes 64 (shake256 []).toNat) = (shake256 []).toNat := by
    rw [leNat_leBytes]
    exact Nat.mod_eq_of_lt (Nat.lt_of_lt_of_eq (shake256 []).isLt (by decide))
  simp only [imageGood, hb, h, beq_iff_eq]
  exact hd

theorem witness_StartsAndResumptions_resume : ∃ (o : Ord) (x : Placing), resuming.order 0 = [o] ∧ o.saved = some 1 ∧ resuming.team 1 = some savedTeam
    ∧ (resuming.grid savedTeam.lseq).isSome = true ∧ savedTeam.image = some (0, 1, 64, 3) ∧ imageGood resuming 0 0 64 = true
    ∧ (∀ q ∈ [o], resuming.now < q.joined + 100000) ∧ resuming.chooseCore 0 o.need false = some (0, x) ∧ resuming.frontEnd (dieOf 0) = true
    ∧ savedTeam.owed = [] ∧ savedTeam.unhalt = none ∧ resuming.flights = [] := by
  have h := resuming_image
  refine ⟨⟨1, 0, some 1, 0, ⟨{ placedRec with padb := 64 }, [], (0, 0), []⟩⟩, ⟨0, 0, [], 0, 0⟩, ?_, rfl, rfl, rfl, rfl, h, ?_, ?_, ?_, rfl, rfl, rfl⟩ <;> decide +kernel

/-- The pair's draft and target of the statement. -/
theorem witness_SharesPointsAndSaves : (∃ s : State, s.bus = none ∧ s.disp.shareTick < s.now / 10000 ∧ s.disp.ptable.pairen = true
      ∧ s.disp.ptable.draft ≠ s.disp.ptable.target ∧ s.disp.ptable.draft < 4 ∧ s.disp.ptable.target < 4 ∧ s.disp.ptable.shares.length = 4)
    ∧ (∃ s : State, s.disp.points.length = 2 ∧ (s.point 1).sw = some (2, 0) ∧ Tab.find 1 s.disp.classReq = none ∧ (∀ e ∈ s.teams, e.2.heldPoint = false)) :=
  ⟨⟨{ State.reset with now := 10000, disp := { ptable := { pairen := true, pairtot := 32, smin := 4, smax := 28, target := 3 } } }, by decide +kernel⟩,
    ⟨{ State.reset with disp := { points := [{}, { sw := some (2, 0) }] } }, by decide +kernel⟩⟩

/-- Partition 0 has cores 0 and 4; their clusters have one bank each for pads, part of which teams of partition 1 hold, and a team of partition 0
waits for a pad of a whole bank. -/
def crowdedOut : State :=
  { State.reset with
    ctxs := [(0, { st := .ready, desc := [0, 0, 0, 0, 0, 100] })]
    grids := [(1, { ctx := 0, lrec := { placedRec with padb := 262144 } }), (2, { ctx := 0, lrec := { placedRec with part := 1 }, next := 1 })]
    teams := [(1, { lseq := 2, tlin := 0, loc := .resident 0 0, padb := 65536, lanes := [{}] }), (2, { lseq := 2, tlin := 1, loc := .resident 4 0, padb := 65536, lanes := [{}, {}] })]
    clusters := [0, 1].map (fun c => (c, { banks := (upFrom 1 47).map (fun k => (k, ⟨.fifo, none⟩)) }))
    disp := { ptable := { shares := [1, 31, 16, 16] } } }

theorem witness_SharesPointsAndSaves_preempt : ∃ t0 n len, preemptChoice crowdedOut 0 = some [1] ∧ crowdedOut.team 1 = some t0 ∧ t0.loc = .resident 0 0 ∧ t0.returned = 0
    ∧ imagePlace crowdedOut 1 t0 = some (0, n, len) ∧ (∀ c ∈ crowdedOut.cmds, c.2.tid ≠ 1) ∧ t0.batonMove = none :=
  ⟨{ lseq := 2, tlin := 0, loc := .resident 0 0, padb := 65536, lanes := [{}] }, 2, 69696, by decide +kernel⟩

theorem witness_SharesPointsAndSaves_save : ∃ (s : State) (t0 : Team), s.bus = none ∧ s.team 1 = some t0 ∧ t0.loc = .saving 0 0 ∧ t0.image = some (0, 1, 64, 3)
    ∧ t0.returned = 0 ∧ (∀ f ∈ s.flights, f.2.tid = 1 → f.2.savable = true) ∧ (∀ c ∈ s.cmds, c.2.tid = 1 → c.2.late = []) ∧ hasFrame ((s.ctx (s.ctxOf t0)).saveBase + 65536 * 0) = true
    ∧ hasFrame ((s.ctx (s.ctxOf t0)).saveBase + 65536 * 0 + 64 - 1) = true ∧ 64 ≤ 64 ∧ Mem.wf s.mem = true :=
  ⟨{ idle with teams := [(1, { savedTeam with loc := .saving 0 0 })] }, { savedTeam with loc := .saving 0 0 }, by decide +kernel⟩

theorem witness_SharesPointsAndSaves_budget : ∃ (s : State) (t0 : Team) (g : Grid), s.team 1 = some t0 ∧ s.grid t0.lseq = some g ∧ t0.loc = .resident 0 0
    ∧ g.lrec.budget ≠ 0 ∧ g.lrec.budget ≤ t0.budBase + (s.cyc - t0.since) ∧ t0.returned = 0 ∧ t0.batonMove = none ∧ (∀ l ∈ t0.lanes, l.stepping = none) :=
  ⟨{ idle with cyc := 1, teams := [(1, { savedTeam with loc := .resident 0 0 })], grids := [(1, { ctx := 0, lrec := { placedRec with budget := 1 }, next := 1 })] },
    { savedTeam with loc := .resident 0 0 }, { ctx := 0, lrec := { placedRec with budget := 1 }, next := 1 }, by decide +kernel⟩

/-- A team all of whose lanes have exited, of a grid with or without a budget and a signal at VA 0. -/
def ending (budget : Nat) (sig : DWord) : State :=
  { paged idle with
    teams := [(1, { savedTeam with loc := .resident 0 0, lanes := [{ exited := true }] })]
    grids := [(1, { ctx := 0, lrec := { placedRec with budget := budget, sigAddr := sig }, next := 1 })] }

theorem witness_EndsOfTeamsAndGrids_team : ∀ x ∈ ([(0, 0), (9, 8)] : List (Nat × DWord)), ∃ t0 g w v, (ending x.1 x.2).bus = none ∧ (ending x.1 x.2).team 1 = some t0
    ∧ (ending x.1 x.2).grid t0.lseq = some g ∧ ((ending x.1 x.2).ctx g.ctx).fault = none ∧ t0.loc ≠ .saved ∧ t0.lanes.all Lane.exited = true ∧ (∀ c ∈ (ending x.1 x.2).cmds, c.2.tid ≠ 1)
    ∧ (ending x.1 x.2).task t0.lseq = none ∧ Tab.sorted (ending x.1 x.2).teams = true ∧ (∀ l ∈ t0.lanes, l.stepping = none)
    ∧ (∀ e ∈ (ending x.1 x.2).teams, e.2.partner = none) ∧ t0.batonMove = none ∧ g.lrec.budget = x.1 ∧ g.lrec.sigAddr = x.2
    ∧ gridStore (ending x.1 x.2) t0.lseq g 12 (statusEntry t0) = (.ok w, v) ∧ v.bus = none ∧ v.teams = (ending x.1 x.2).teams ∧ v.grids = (ending x.1 x.2).grids := by
  intro x hx
  fin_cases hx
  · exact ⟨{ savedTeam with loc := .resident 0 0, lanes := [{ exited := true }] }, { ctx := 0, lrec := { placedRec with budget := 0, sigAddr := 0 }, next := 1 }, 1,
      (gridStore (ending 0 0) 1 { ctx := 0, lrec := { placedRec with budget := 0, sigAddr := 0 }, next := 1 } 12 0x06000000).2, by decide +kernel⟩
  · exact ⟨{ savedTeam with loc := .resident 0 0, lanes := [{ exited := true }] }, { ctx := 0, lrec := { placedRec with budget := 9, sigAddr := 8 }, next := 1 }, 1,
      (gridStore (ending 9 8) 1 { ctx := 0, lrec := { placedRec with budget := 9, sigAddr := 8 }, next := 1 } 12 0x06000000).2, by decide +kernel⟩

/-- A grid whose only team has ended. -/
def retiring (sig : DWord) : State := { ending 0 sig with teams := [] }

theorem witness_EndsOfTeamsAndGrids_grid : ∀ sig ∈ ([0, 8] : List DWord), ∃ g w v, (retiring sig).grid 1 = some g ∧ ((retiring sig).ctx g.ctx).fault = none ∧ Tab.sorted (retiring sig).grids = true
    ∧ g.lrec.teams ≤ g.next ∧ (retiring sig).teams = [] ∧ (∀ e ∈ (retiring sig).grids, e.2.posterGrid ≠ some 1) ∧ (retiring sig).disp.tray = []
    ∧ (retiring sig).task 1 = none ∧ (retiring sig).fab.outs = [] ∧ g.lrec.sigAddr = sig ∧ g.lrec.budget = 0 ∧ g.shredded = false
    ∧ gridStore (retiring sig) 1 g 8 g.lrec.sigVal = (.ok w, v) ∧ v.bus = none ∧ v.grids = (retiring sig).grids ∧ v.cmds = (retiring sig).cmds := by
  intro sig hs
  fin_cases hs
  · exact ⟨{ ctx := 0, lrec := { placedRec with sigAddr := 0 }, next := 1 }, 1, (gridStore (retiring 0) 1 { ctx := 0, lrec := { placedRec with sigAddr := 0 }, next := 1 } 8 0).2,
      by decide +kernel⟩
  · exact ⟨{ ctx := 0, lrec := { placedRec with sigAddr := 8 }, next := 1 }, 1, (gridStore (retiring 8) 1 { ctx := 0, lrec := { placedRec with sigAddr := 8 }, next := 1 } 8 0).2,
      by decide +kernel⟩

/-- Service of page `p` is asked for; the ranges of context 0 back its pages 0 to 15, page 0 is mapped, and its pool has the frames from 64 on. -/
def asked (p : Nat) : State :=
  { paged State.reset with
    ctxs := [(0, { st := .ready, desc := [0x20000], ranges := [⟨0, 0x100000, 1⟩], pool := [(64, 4)] })]
    svcs := [⟨0, p, 0, [], none, none, []⟩] }

theorem witness_FrameServiceOfAPage : ((asked 16).ctx 0).attrOf 16 = none
    ∧ (∀ p ∈ [0, 15], (asked p).bus = none ∧ (asked p).sys.stopped = false ∧ (asked p).svc 0 p = some ⟨0, p, 0, [], none, none, []⟩
      ∧ ((asked p).ctx 0).attrOf p = some 1 ∧ entryAt (asked p) 0 p = some (0x60000 + 8 * p)
      ∧ leafValid (Mem.num (asked p).mem (0x60000 + 8 * p) 8) = decide (p = 0))
    ∧ bothDies 0 ((asked 15).ctx 0).freeFrame = some 64 ∧ hasFrame (0x60000 + 8 * 15) = true ∧ hasFrame (0x60000 + 8 * 15 + 7) = true ∧ Mem.wf (asked 15).mem = true := by
  decide +kernel

/-- Page 0 is chosen as the victim of page 15's service; an access is open to it, or none. -/
theorem witness_FrameServiceOfAPage_evict : ∀ b ∈ [true, false], ∃ (s : State) (v : Svc), s.bus = none ∧ s.sys.stopped = false ∧ s.svc 0 15 = some v ∧ v.served = none
    ∧ (∀ x ∈ s.svcs, (x.ctx ≠ 0 ∨ x.page ≠ 15) → x.victim = none ∧ x.served = none) ∧ v.victim = some 0 ∧ s.openTo 0 (fun p => p == 0) = b
    ∧ entryAt s 0 0 = some 0x60000 ∧ Mem.wf s.mem = true := by
  intro b hb
  refine ⟨{ asked 15 with svcs := [⟨0, 15, 0, [], none, some 0, []⟩], flights := if b then [(0, flightOf_ (.st .b8) .ready)] else [] }, ⟨0, 15, 0, [], none, some 0, []⟩, ?_⟩
  fin_cases hb <;> decide +kernel

theorem witness_FrameServiceOfAPage_end : ∀ ok ∈ [true, false], ∃ (s : State) (v : Svc) (t0 : Team) (l : Lane), firstWith (fun w => w.ctx == 0 && w.page == 15 && w.served.isSome) s.svcs = some v
    ∧ v.served = some ok ∧ s.flights = [] ∧ s.teams = [(1, t0)] ∧ s.ctxOf t0 = 0 ∧ t0.lanes = [l] ∧ l.wait = some (.page 15) :=
  fun ok _ => ⟨{ idleLane (fun l => { l with wait := some (.page 15) }) with svcs := [⟨0, 15, 0, [], some ok, none, []⟩] }, ⟨0, 15, 0, [], some ok, none, []⟩, _, _,
    by simp [firstWith], rfl, rfl, rfl, rfl, rfl, rfl⟩

/-- Masters 0 and 3 are attached; `owner` is the owner, and an offer stands to `offer`. -/
def owned (owner offer : Option Nat) : State := { State.reset with now := 1, sys := { attached := [0, 3], owner := owner, offer := offer } }

theorem witness_MastersAndOwnership : (∀ x ∈ ([(none, none), (some 0, none), (some 3, some 0)] : List (Option Nat × Option Nat)), (owned x.1 x.2).hears 0 = true
      ∧ 0 ∈ (owned x.1 x.2).sys.attached ∧ (∀ e ∈ (owned x.1 x.2).dbg, ¬ (e.2.rights = true ∧ e.2.holder = 0)) ∧ (owned x.1 x.2).sys.owner = x.1
      ∧ (owned x.1 x.2).sys.offer = x.2 ∧ (owned x.1 x.2).tasks = [])
    ∧ 3 ∈ (owned (some 0) none).sys.attached ∧ 1 ∉ (owned (some 0) none).sys.attached
    ∧ (0x2FF8 % 8 = 0 ∧ 0x2FF8 + 8 ≤ 0x3000) ∧ (2 ^ 40 + 191999995904) % 4096 + 4096 ≤ 4096 ∧ hasMem (2 ^ 40 + 191999995904) = true ∧ hasMem (2 ^ 40 + 191999995904 + 4096 - 1) = true
    ∧ ({ owned (some 3) none with cyc := 2, sys := { attached := [0, 3], owner := some 3, claimed := some (2, 4) }, answers := [(3, ctlMessage 0x81 0 4 [])] } : State).hears 0 = true
    ∧ ([1] : List Byte) ≠ [] ∧ 4095 % 4096 + ([1] : List Byte).length ≤ 4096 := by
  decide +kernel

/-- The owner's state in which its register writes take effect. -/
def writing (f : Sys → Sys) : State := { owned (some 0) none with sys := f (owned (some 0) none).sys }

theorem witness_RegisterWritesOfTheOwner : (writing id).bus = none ∧ (writing id).hears 0 = true ∧ (writing id).sys.owner = some 0
    ∧ Tab.get 0 0 (writing id).sys.memWct < (writing id).now ∧ ((writing id).queue 15).en = false
    ∧ ({ writing id with disp := { queues := [(15, { en := true })] } } : State).queue 15 = { en := true }
    ∧ (4 ≤ fld (0x80000004 : DWord).toNat 0 4 ∧ fld (0x8000000C : DWord).toNat 0 4 ≤ 12 ∧ bit (0x80000004 : DWord).toNat 31 = true ∧ 12 < fld (13 : DWord).toNat 0 4)
    ∧ (parseTable ((0x2000000 : DWord).toNat + (65536 : DWord).toNat * 2 ^ 64)).valid = true ∧ (parseTable ((65 : DWord).toNat + (0 : DWord).toNat * 2 ^ 64)).valid = false
    ∧ ((writing (fun c => { c with bstate := 1 })).sys.featDone = false ∧ ∀ c ∈ (writing (fun c => { c with bstate := 1 })).ctxs, c.2.st = .free)
    ∧ (writing (fun c => { c with featDone := true })).sys.featDone = true ∧ (writing id).disp.points.length = 2 ∧ ((writing id).point 1).sw = none
    ∧ (7 ≤ fld (0x80700000 : DWord).toNat 20 5 ∧ fld (0x81400000 : DWord).toNat 20 5 ≤ 20) ∧ (writing id).trace.en = false
    ∧ ((writing id).sys.bstate = 0 ∧ (writing id).sys.bootRun = none ∧ bit (1 : DWord).toNat 0 = true) ∧ (writing (fun c => { c with bstate := 2 })).sys.bootRun = none ∧ imageChecks (writing id) 0 = false
    ∧ ((writing id).openOn (fld (0x80001000 : DWord).toNat 16 6) (writing id).sys.shootVa (fld (0x80001000 : DWord).toNat 0 13) = false
      ∧ 1 ≤ fld (0x80001000 : DWord).toNat 0 13 ∧ fld (0x80001000 : DWord).toNat 0 13 ≤ 4096 ∧ bit (0x80001000 : DWord).toNat 31 = true
      ∧ (writing id).sys.shootGo = none) ∧ (writing (fun c => { c with shootGo := some (0, 0, 1) })).sys.shootGo ≠ none
    ∧ ({ writing id with flights := [(0, flightOf_ (.st .b8) .ready)] } : State).openOn 0 0 1 = true ∧ (writable 0 = false ∧ writable 0x2FF8 = false) := by
  decide +kernel

/-- Context 63 in some state, of the owner in RUN. -/
def governing (c : Ctx) : State := { writing (fun y => { y with bstate := 1 }) with ctxs := [(63, c)] }

/-- The same while a page of it waits for service, and a page of context 62 has a victim. -/
def served (c : Ctx) : State := { governing c with svcs := [⟨63, 1, 0, [], none, none, []⟩, ⟨62, 1, 0, [], none, some 5, []⟩] }

theorem witness_ContextsOfTheOwner : (∀ c ∈ ([{}, { st := .ready }, { st := .faulted }] : List Ctx), (governing c).bus = none ∧ (governing c).hears 0 = true
      ∧ (governing c).sys.owner = some 0 ∧ Tab.get 0 0 (governing c).sys.memWct < (governing c).now ∧ (governing c).sys.bstate = 1 ∧ (governing c).sys.op = none
      ∧ ((governing c).ctx 63).st = c.st ∧ ((governing c).ctx 63).fault = none ∧ Tab.sorted (governing c).ctxs = true
      ∧ (touchContext { governing c with sys := { (governing c).sys with opCtx := 63 } } 63).bus = none ∧ ∀ v ∈ (served c).svcs, v.ctx = 63 → v.victim = none)
    ∧ ((writing id).sys.bstate ≠ 1) ∧ ((served { st := .ready, fault := some (4, 0, 0) }).ctx 63).fault = some (4, 0, 0)
    ∧ (served { st := .ready, fault := some (4, 0, 0) }).sys.op = none ∧ (∀ v ∈ (served { st := .ready, fault := some (4, 0, 0) }).svcs, v.ctx = 63 → v.victim = none) := by
  decide +kernel

/-- The grid 1 of context 0, none of whose teams has started. -/
def preempting : State := { governing {} with ctxs := [(0, { st := .ready })], grids := [(1, { ctx := 0, lrec := placedRec })] }

theorem witness_ContextsOfTheOwner_preq : ∃ g, bit (0x80000001 : DWord).toNat 31 = true ∧ preempting.preqBusy = false
    ∧ preempting.liveHandle (fld (0x80000001 : DWord).toNat 24 6) (fld (0x80000001 : DWord).toNat 0 24) = some 1 ∧ preempting.grid 1 = some g
    ∧ (∀ e ∈ preempting.teams, e.2.lseq ≠ 1) :=
  ⟨{ ctx := 0, lrec := placedRec }, by decide +kernel⟩

/-- A request of the lane's access, of a command's step, or of a task's fold, sent at 0. -/
def sentOut (k : FKind) (owner : FabBy) (now : Nat) : State :=
  { flying (flightOf_ k .ready) with now := now, cmds := [(0, running_ (.fstm always 10 2))], fab := { outs := [(0, ⟨0, 1, none, 0, owner, none⟩)] } }

theorem witness_FabricEvents : (∀ k ∈ ([.fabSt .b8, .fabLd .b64] : List FKind), ∃ o f, Tab.find 0 (sentOut k (.lane 0) 20000).fab.outs = some o ∧ o.owner = .lane 0
      ∧ Tab.find 0 (sentOut k (.lane 0) 20000).flights = some f ∧ f.kind = k ∧ (sentOut k (.lane 0) 20000).now ≤ o.sent + 20000
      ∧ (sentOut k (.lane 0) 20000).ownDie o.die o.epid = none ∧ (∀ x ∈ (sentOut k (.lane 0) 20000).flights, x.2.tid = f.tid → unfailed x.2.stage = true)
      ∧ o.sent + 20000 ≤ (sentOut k (.lane 0) 20000).now ∧ ((sentOut k (.lane 0) 20000).fab.outs.map Prod.fst).Nodup
      ∧ (postFabric (setStage { sentOut k (.lane 0) 20000 with fab := { (sentOut k (.lane 0) 20000).fab with
          outs := (sentOut k (.lane 0) 20000).fab.outs.filter (fun x => x.1 != 0) } } 0 (.fail 0x35)) f.tid f.tags.core).bus = none)
    ∧ (∃ o, Tab.find 0 (sentOut .fabRmw (.fold 1) 0).fab.outs = some o ∧ o.owner = .fold 1)
    ∧ (∃ o c, Tab.find 0 (sentOut .fabRmw (.cmd 0 0 15 0) 20000).fab.outs = some o ∧ o.owner = .cmd 0 0 15 0 ∧ (sentOut .fabRmw (.cmd 0 0 15 0) 20000).cmd 0 = some c
      ∧ c.instr = .fstm always 10 2 ∧ o.sent + 20000 ≤ (sentOut .fabRmw (.cmd 0 0 15 0) 20000).now
      ∧ (∀ x ∈ (sentOut .fabRmw (.cmd 0 0 15 0) 20000).fab.outs, (x.2.stepOf 0).isSome = true → x = (0, o)) ∧ ((sentOut .fabRmw (.cmd 0 0 15 0) 20000).fab.outs.map Prod.fst).Nodup) := by
  refine ⟨fun k hk => ?_, ⟨⟨0, 1, none, 0, .fold 1, none⟩, rfl, rfl⟩, ⟨⟨0, 1, none, 0, .cmd 0 0 15 0, none⟩, running_ (.fstm always 10 2), rfl, rfl, rfl, rfl, by decide, by decide +kernel, by decide +kernel⟩⟩
  refine ⟨⟨0, 1, none, 0, .lane 0, none⟩, flightOf_ k .ready, ?_⟩
  fin_cases hk <;> decide +kernel

/-- A request of endpoint 5 for entry 4095, and a live entry 4095 for one page of context 0. -/
def request_ (k : FabKind) (key : BitVec 14) : FabReq := ⟨5, 4095, key, 8, k, none⟩

def exporting : State :=
  (paged State.reset).modFabDie 1 (fun d => { d with table := [(4095, ⟨0, 7, 1, 5, false, 0, true, true, false⟩)] })

theorem witness_FabricEvents_ingress : (Tab.find exporting.ids exporting.fab.kept = none ∧ Tab.find exporting.ids exporting.fab.begun = none) ∧ reqSupported (request_ .other 7) = false ∧ (reqSupported (request_ (.read 248) 7) = true
      ∧ ingressEntry exporting 1 (request_ (.read 248) 8) = .error 0x31)
    ∧ (∃ e pa leaf, ingressEntry exporting 1 (request_ (.read 248) 7) = .ok e ∧ exporting.window e.ctx (e.base + 8) = none ∧ (e.base + 8) % 4096 + 248 ≤ 4096
      ∧ exporting.svc e.ctx (exporting.mapVa e.ctx (e.base + 8) / 65536) = none
      ∧ xlWalk exporting e.ctx (e.base + 8) .rd 248 = (.ok pa leaf false, exporting) ∧ hasFrame pa = true ∧ hasFrame (pa + 248 - 1) = true
      ∧ xlWalk exporting e.ctx (e.base + 8) .wr 1 = (.ok pa leaf false, exporting) ∧ leafVersioned leaf = false ∧ Mem.wf exporting.mem = true)
    ∧ ∃ (s : State) (e : Export), ingressEntry s 1 (request_ (.read 248) 7) = .ok e ∧ s.window e.ctx (e.base + 8) = none ∧ Tab.find s.ids s.fab.kept = none
      ∧ Tab.find s.ids s.fab.begun = none ∧ s.svc e.ctx (s.mapVa e.ctx (e.base + 8) / 65536) ≠ none :=
  ⟨by decide +kernel, by decide +kernel, by decide +kernel, ⟨⟨0, 7, 1, 5, false, 0, true, true, false⟩, 0x100008, 0x100407, by decide +kernel⟩,
    ⟨{ exporting with svcs := [⟨0, 0, 0, [], none, none, []⟩] }, ⟨0, 7, 1, 5, false, 0, true, true, false⟩, by decide +kernel⟩⟩

/-- Versions of line 1 by task 9 of endpoint 5. -/
theorem witness_FabricEvents_notices : ∃ (s : State) (v : Version), Mem.wf s.mem = true ∧ s.versions.filter (fun x => x.writer == .remote 1 5 0 9) = [v]
    ∧ v.cells.Pairwise (fun a b => a.1 < b.1) ∧ s.fab.dies.length = 2 ∧ s.fab.outs = [] ∧ v.line / 128 < 2 ^ 48 :=
  ⟨{ State.reset with versions := [⟨0, 1, .remote 1 5 0 9, 0, [(0, 1), (511, 2)], false⟩] }, ⟨0, 1, .remote 1 5 0 9, 0, [(0, 1), (511, 2)], false⟩, by decide +kernel⟩

/-- A request of task 9 of endpoint 5 that waits here, and one of no task. -/
theorem witness_FabricEvents_kept : ∃ s : State, (∃ k ∈ s.fab.kept, (k.2.1 == 1 && reqOf k.2.2.2 5 0 9) = true) ∧ ∃ k ∈ s.fab.kept, (k.2.1 == 1 && reqOf k.2.2.2 5 0 9) = false :=
  ⟨{ State.reset with fab := { kept := [(4, 1, ⟨0, 7, 1, 5, false, 0, true, true, false⟩, { request_ (.write [1]) 7 with tag := some ⟨0, 2, [], 0, 9⟩ }),
      (5, 1, ⟨0, 7, 1, 5, false, 0, true, true, false⟩, request_ (.write [1]) 7)] } }, by decide +kernel⟩

/-- A request about register 127 of lane 0 of team 0 of grid 1 of context 0. -/
def dbgReq : DbgReq := ⟨0, 19, false, false, 127, 0, 0, 1, 5⟩

/-- Master 3, which is attached, holds the rights. -/
def debugged (f : Lane → Lane) : State := { idleLane f with dbg := [(0, { rights := true, holder := 3 })], sys := { attached := [3] } }

theorem witness_DebugRequests : idle.mayDebug 3 dbgReq = false ∧ (({ debugged id with teams := [] } : State).mayDebug 3 dbgReq = true
      ∧ reqTeam { debugged id with teams := [] } dbgReq = none)
    ∧ (∀ h ∈ [none, some 4], ∃ t0, (debugged (fun l => { l with halted := h })).bus = none ∧ (debugged (fun l => { l with halted := h })).hears 3 = true ∧ (debugged (fun l => { l with halted := h })).mayDebug 3 dbgReq = true
      ∧ reqTeam (debugged (fun l => { l with halted := h })) dbgReq = some 1 ∧ (debugged (fun l => { l with halted := h })).team 1 = some t0 ∧ t0.loc ≠ .saved
      ∧ dbgReq.lane.toNat < t0.lanes.length ∧ (nth {} t0.lanes dbgReq.lane.toNat).exited = false ∧ (nth {} t0.lanes dbgReq.lane.toNat).stepping = none
      ∧ t0.batonMove = none ∧ (nth {} t0.lanes dbgReq.lane.toNat).halted = h ∧ dbgReq.reg.toNat < 128 ∧ dbgReq.reg.toNat < (nth {} t0.lanes dbgReq.lane.toNat).regs.length
      ∧ ((nth {} t0.lanes dbgReq.lane.toNat).reg dbgReq.reg.toNat).st.isPend = false)
    ∧ (∀ l ∈ [({ regs := [⟨0, false, .pend 0 true⟩], halted := some 4 } : Lane)], ({ dbgReq with reg := 0 } : DbgReq).reg.toNat < l.regs.length
      ∧ (l.reg ({ dbgReq with reg := 0 } : DbgReq).reg.toNat).st.isPend = true)
    ∧ ({ debugged id with teams := [(1, { savedTeam with lanes := [{}] })] } : State).mayDebug 3 dbgReq = true
    ∧ reqTeam { debugged id with teams := [(1, { savedTeam with lanes := [{}] })] } dbgReq = some 1
    ∧ (dbgReq.wslot.toNat ≤ 19 ∧ slotReserved (2 ^ 63 + 2 ^ 64) = true ∧ slotGood 19 (2 ^ 63 + 2 ^ 64) = true)
    ∧ ((writing id).hears 0 = true ∧ (writing id).hears 3 = true ∧ (writing id).sys.owner = some 0 ∧ (writing id).sys.owner ≠ some 3 ∧ Tab.sorted (writing id).dbg = true ∧ (writing id).teams = [] ∧ (writing id).ctrs.length = 2) := by
  refine ⟨by decide +kernel, by decide +kernel, fun h hh => ?_, by decide +kernel, by decide +kernel, by decide +kernel, by decide +kernel, by decide +kernel⟩
  refine ⟨{ lseq := 1, tlin := 0, loc := .resident 0 0, padb := 65536, lanes := [{ regs := List.replicate 128 {}, preds := List.replicate 63 {}, halted := h }] }, ?_⟩
  fin_cases hh <;> decide +kernel

/-- A trace record held, with the postbag full and with room in it. -/
theorem witness_DebugRequests_postbag : ∃ (s u : State) (r : BitVec 256), s.trace.held = [r] ∧ u.trace.held = [r] ∧ s.trace.en = true ∧ u.trace.en = true
    ∧ (s.trace.put + 1) % 2 ^ s.trace.logn = s.trace.get ∧ (u.trace.put + 1) % 2 ^ u.trace.logn ≠ u.trace.get
    ∧ hasFrame (u.trace.base + 32 * u.trace.put) = true ∧ hasFrame (u.trace.base + 32 * u.trace.put + 31) = true :=
  ⟨{ State.reset with trace := { en := true, held := [1], put := 127 } }, { State.reset with trace := { en := true, held := [1], put := 126 } }, 1, by decide +kernel⟩

theorem witness_ControllerEvents : (writing id).hears 0 = true ∧ (writing id).sys.bstate = 0 ∧ (writing (fun c => { c with bstate := 2 })).sys.bstate ≠ 0
    ∧ 3 ∈ (writing id).sys.attached ∧ (writing id).sys.resetBy = none ∧ (∀ w ∈ (writing id).sys.writes, w.1 ≠ 3) ∧ (writing id).sys.owner ≠ some 3 ∧ (writing id).sys.owner ≠ none ∧ (writing id).sys.bstate ≠ 2 ∧ (writing id).sys.stopped = false
    ∧ (writing id).sys.temps.length = 2 ∧ nth 0 (writing id).sys.temps 1 < 104 ∧ nth 0 (writing id).sys.temps 1 < 105
    ∧ 114 < nth 0 (writing (fun c => { c with temps := [0, 115] })).sys.temps 1
    ∧ ((debugged id).ctx 0).st = .ready ∧ ((debugged id).ctx 0).fault = none ∧ Tab.sorted (debugged id).ctxs = true ∧ (debugged id).sys.errs.length = 2
    ∧ ((debugged id).team 1).map Team.loc = some (.resident 0 0) := by
  decide +kernel

/-- The blocks of commands at their only step. -/
def stepping (i : Instr) (b : Word) (blk : Nat) (f : State → State) : State := f (withCmd { running_ i with b := b, blk := leBytes 64 blk })

/-- What the steps of the other commands ask for besides. -/
def helped (s : State) : State :=
  { s with ctxs := [(0, { st := .ready, desc := [0, 0, 0, 0, 0, 2 ^ 33] })], dbg := [(0, { rights := true, laneset := true })], tasks := [(1, task0)] }

theorem witness_StepsOfCommands : (∀ x ∈ ([(.pquery always 10 2, 0, 0), (.opclass always 10 2 4, 1, 0), (.opclass always 10 2 4, 7, 0), (.pshare always true false 10 2, 0, 0),
      (.cwait always false 10 2 4, 0xFFFFFF, 0), (.phcfgCreate always 10 2 4, 15, 2 ^ 33 + 4096), (.decl always 10 2, 0, 2 ^ 96 + 2 ^ 73 + 512),
      (.wpset always 10 2 4, 19, 2 ^ 64), (.errq always 10 2, 0, 65504)] : List (Instr × Word × Nat)), ∃ c, (stepping x.1 x.2.1 x.2.2 helped).bus = none
      ∧ (stepping x.1 x.2.1 x.2.2 helped).cmd 0 = some c ∧ c.instr = x.1 ∧ c.b = x.2.1 ∧ leNat c.blk = x.2.2 ∧ c.st = .run ∧ c.suspended = false ∧ c.held = false
      ∧ c.page = none ∧ c.step = 0)
    ∧ (let c : Cmd := { running_ (.pquery always 10 2) with blk := leBytes 64 65504 }; c.f 32 480 = 0 ∧ padIn (cmdPadb idle c) (c.f 0 32) 32 = true)
    ∧ (let s := stepping (.pshare always true false 10 2) 0 0 helped; cmdFront { s with tasks := [] } (running_ (.pshare always true false 10 2)) = true
        ∧ (s.ctx 0).ctl = true ∧ s.disp.ptable.ewma ≤ 65536 ∧ s.liveHandle 0 0xFFFFFF = none ∧ s.disp.points.length = 2 ∧ (s.point 0).cls ≠ 7 ∧ (s.point 0).sw = none)
    ∧ (let c : Cmd := { running_ (.phcfgCreate always 10 2 4) with b := 15, blk := leBytes 64 (2 ^ 33 + 4096) }; c.f 32 8 = 2 ∧ c.f 0 32 = 4096
        ∧ cmdHole idle c = none ∧ (holeBacking idle 0 2 4096).isSome = true)
    ∧ (let c : Cmd := { running_ (.decl always 10 2) with blk := leBytes 64 (2 ^ 96 + 2 ^ 73 + 512) }; let s := stepping (.decl always 10 2) 0 (2 ^ 96 + 2 ^ 73 + 512) helped
        s.task (cmdLseq s c) = some task0 ∧ c.f 64 32 = 512 ∧ lowest (fun k => !s.setUsed (cmdLseq s c) task0 k) (4 * c.f 96 1) 4 = some 4) := by
  refine ⟨?_, by decide +kernel, by decide +kernel, by decide +kernel, by decide +kernel⟩
  intro x hx
  fin_cases hx <;> exact ⟨_, rfl, rfl, by decide +kernel⟩

/-! ### Steps of the engines' commands -/

def stepsB (s : State) (c : Cmd) : Bool :=
  decide (s.cmd 0 = some c ∧ s.mayStep 0 c = true ∧ s.stale c.tags = false ∧ (c.early = [] ∧ c.lag = none ∧ c.late = []) ∧ s.bus = none)

theorem steps_of {s : State} {c : Cmd} (h : stepsB s c = true) : Steps s 0 c :=
  let h := of_decide_eq_true h
  ⟨h.1, h.2.1, h.2.2.1, h.2.2.2.1, h.2.2.2.2⟩

theorem touches_of {s : State} {c : Cmd} {acc : Acc} {ptr n pa leaf : Nat} (h : decide ((0 < n ∧ fld ptr 0 56 % 4096 + n ≤ 4096 ∧ pa % 4096 = fld ptr 0 56 % 4096)
    ∧ s.window c.tags.ctx (fld ptr 0 56) = none ∧ (∃ big, translateOr s (clusterOf c.tags.core) c.tags.ctx ptr acc n = (.ok pa leaf big, s))
    ∧ leafVersioned leaf = false ∧ (hasFrame pa = true ∧ hasFrame (pa + n - 1) = true)) = true) : Touches s c acc ptr n pa leaf :=
  let h := of_decide_eq_true h
  ⟨h.1, h.2.1, h.2.2.1, h.2.2.2.1, h.2.2.2.2⟩

/-- The state that a part of a step leaves. -/
def okState {α : Type} (x : Eng α) : State := match x with
  | .ok _ s => s
  | _ => State.reset

/-- A command at a step, with fields of its block at their bits. -/
def blocked (i : Instr) (fs : List (Nat × Nat)) (step : Nat := 0) (vals : List Nat := []) (data : List Nat := []) : Cmd :=
  { running_ i with blk := leBytes 64 (sumOf (fs.map (fun p => p.2 * 2 ^ p.1))), step := step, vals := vals, data := data }

/-- The last 16 bytes of a granule read and written, and a pad read. -/
theorem witness_EngineWords_access : ∃ (s : State) (c : Cmd), Touches s c .rd 4080 16 4080 0x17 ∧ Touches s c .wr 4080 16 4080 0x17 ∧ Steps s 0 c
    ∧ cmdFront s c = true ∧ (s.team c.tid).isSome = true ∧ c.shadow = [] :=
  ⟨withCmd (running_ (.pquery always 10 2)), running_ (.pquery always 10 2), touches_of (by decide +kernel), touches_of (by decide +kernel), steps_of (by decide +kernel),
    by decide +kernel⟩

/-- Pieces of a fill: one that ends at a boundary of 512 bytes, and the last, on the pad. -/
theorem witness_EngineWords_fill : ∀ x ∈ ([(.fill always false false false 10 2 4, false, 0, 512), (.fill always false true true 10 2 4, true, 512, 88)]
      : List (Instr × Bool × Nat × Nat)), ∃ c v, Steps (withCmd c) 0 c ∧ (dataForm c.instr).map (fun f => (f.1, f.2.2.1)) = some (1, x.2.1) ∧ c.cpRow = 0 ∧ c.cpOff = x.2.2.1
    ∧ c.cpOff < c.cpLen ∧ sideAdd x.2.1 c.cpDst c.cpOff = some (8192 + c.cpOff) ∧ x.2.2.2 = min (c.cpLen - c.cpOff) (512 - (8192 + c.cpOff) % 512)
    ∧ sideWrite (withCmd c) 0 c x.2.1 (some (8192 + c.cpOff)) (fillBytes c.b (8192 + c.cpOff) x.2.2.2) [] = .ok () v ∧ v.bus = none := by
  intro x hx
  refine ⟨blocked x.1 [(64, 8192), (128, 600), (352, 4)] 0 [0, x.2.2.1], okState (sideWrite (withCmd (blocked x.1 [(64, 8192), (128, 600), (352, 4)] 0 [0, x.2.2.1])) 0
    (blocked x.1 [(64, 8192), (128, 600), (352, 4)] 0 [0, x.2.2.1]) x.2.1 (some (8192 + x.2.2.1)) (fillBytes 0 (8192 + x.2.2.1) x.2.2.2) []), ?_⟩
  fin_cases hx <;> exact ⟨steps_of (by decide +kernel), by decide +kernel⟩

/-- Pieces of a copy from memory to the pad and of a row of a copy2d from the pad to memory, and elements of gath and scat. -/
theorem witness_EngineWords_copy : ∀ x ∈ ([(.copy always false false true false 10 2, 0, true, false, 512), (.copy2d always false true false true 10 2, 2, false, true, 8),
      (.gath always false false false true 10 2, 3, false, true, 8), (.scat always false false true false 10 2, 4, true, false, 8)] : List (Instr × Nat × Bool × Bool × Nat)),
    ∃ c bytes v, Steps (withCmd c) 0 c ∧ (dataForm c.instr).map (fun f => (f.1, f.2.2)) = some (x.2.1, x.2.2.1, x.2.2.2.1) ∧ c.cpRow = 0 ∧ c.cpOff = 0 ∧ c.cpOff < c.cpLen
    ∧ (x.2.1 = 2 → 0 < c.cpCount) ∧ (3 ≤ x.2.1 → c.step < c.cpCount ∧ leNat (cmdPad (withCmd c) c (c.cpIdx + 4 * c.step) 4) = 0)
    ∧ sideAdd x.2.2.1 c.cpDst 0 = some 8192 ∧ sideAdd x.2.2.2.1 c.cpSrc 0 = some 4096 ∧ (x.2.1 < 3 → x.2.2.2.2 = min c.cpLen (512 - 8192 % 512)) ∧ (3 ≤ x.2.1 → x.2.2.2.2 = c.cpLen)
    ∧ sideRead (withCmd c) 0 c x.2.2.2.1 (some 4096) x.2.2.2.2 (sidePages x.2.2.2.1 (some 4096) x.2.2.2.2 ++ sidePages x.2.2.1 (some 8192) x.2.2.2.2) = .ok bytes (withCmd c)
    ∧ sideWrite (withCmd c) 0 c x.2.2.1 (some 8192) bytes (sidePages x.2.2.2.1 (some 4096) x.2.2.2.2 ++ sidePages x.2.2.1 (some 8192) x.2.2.2.2) = .ok () v ∧ v.bus = none := by
  intro x hx
  let c := blocked x.1 [(0, 4096), (64, 8192), (128, if x.2.1 = 0 then 513 else 8), (160, 1), (192, 8), (256, 8)]
  refine ⟨c, List.replicate x.2.2.2.2 0, okState (sideWrite (withCmd c) 0 c x.2.2.1 (some 8192) (List.replicate x.2.2.2.2 0)
    (sidePages x.2.2.2.1 (some 4096) x.2.2.2.2 ++ sidePages x.2.2.1 (some 8192) x.2.2.2.2)), ?_⟩
  fin_cases hx <;> exact ⟨steps_of (by decide +kernel), by decide +kernel⟩

/-- The ends of data commands, with a signal and without. -/
theorem witness_EngineWords_ends : ∀ x ∈ ([(.fill always false true true 10 2 4, 1, 0, [], 0), (.copy2d always false true false true 10 2, 2, 8, [1], 0),
      (.gath always false false false true 10 2, 3, 8, [], 1)] : List (Instr × Nat × Nat × List Nat × Nat)),
    ∃ c, Steps (withCmd c) 0 c ∧ (dataForm c.instr).map Prod.fst = some x.2.1
    ∧ ((x.2.1 ≤ 2 ∧ (c.cpLen = 0 ∨ (if x.2.1 = 2 then c.cpCount else 1) ≤ c.cpRow)) ∨ (3 ≤ x.2.1 ∧ c.cpCount ≤ c.step)) := by
  intro x hx
  refine ⟨blocked x.1 [(128, x.2.2.1), (160, 1)] x.2.2.2.2 x.2.2.2.1, ?_⟩
  fin_cases hx <;> exact ⟨steps_of (by decide +kernel), by decide +kernel⟩

/-- cpq of a live pair, and shadow of pages 1 and 2, which are pinned and marked for a pair. -/
theorem witness_EngineWords_pairs : (∃ s c, Steps s 0 c ∧ c.instr = .cpq always false 10 2 4 ∧ c.b.toNat ≤ 15 ∧ s.pair c.tags.ctx c.b.toNat = some pair0)
    ∧ ∃ s c, Steps s 0 c ∧ c.instr = .shadow always 10 2 4 ∧ cmdFront s c = true ∧ c.f 160 352 = 0 ∧ c.b.toNat ≤ 15 ∧ 1 ≤ c.f 128 32 ∧ c.f 128 32 ≤ 4096
      ∧ s.pair c.tags.ctx c.b.toNat = none ∧ c.f 0 56 % 65536 = 0 ∧ c.f 64 56 % 65536 = 0 ∧ c.f 0 56 + c.f 128 32 * 65536 ≤ 2 ^ 56 ∧ c.f 64 56 + c.f 128 32 * 65536 ≤ 2 ^ 56
      ∧ pagesMeet (c.f 0 56) (c.f 128 32) (c.f 64 56) (c.f 128 32) = false
      ∧ (∀ k, k < c.f 128 32 → pairPage s c.tags.ctx (c.f 0 56 + 65536 * k) = true ∧ pairPage s c.tags.ctx (c.f 64 56 + 65536 * k) = true)
      ∧ ∀ p ∈ s.pairs, ¬ (p.ctx = c.tags.ctx ∧ p.live = true) := by
  constructor
  · exact ⟨{ withCmd (blocked (.cpq always false 10 2 4) []) with pairs := [pair0] }, blocked (.cpq always false 10 2 4) [], steps_of (by decide +kernel), by decide +kernel⟩
  · let c := { blocked (.shadow always 10 2 4) [(0, 65536), (64, 131072), (128, 1)] with b := 15 }
    refine ⟨{ paged (withCmd c) with mem := pageTable ++ [⟨0x60008, 0x23⟩, ⟨0x60009, 5⟩, ⟨0x6000A, 0x11⟩, ⟨0x60010, 0x23⟩, ⟨0x60011, 5⟩, ⟨0x60012, 0x12⟩] }, c, steps_of (by decide +kernel), ?_⟩
    decide +kernel

/-- A team that holds rows and B slices of its core's store. -/
def storing (c : Cmd) : State := (withCmd c).modTeam 1 (fun t => { t with acc := { runits := 1, bunits := 1 } })

/-- Steps of the matrix engine: a row of integers and one of floats, slices filled, rows cleared, read and given over. -/
theorem witness_EngineWords_matrix : ∀ x ∈ ([(.mmul always false false true 10 2, [(192, 33), (224, 1), (240, 31), (256, 255), (272, 7), (276, 7)]),
      (.mmul always false false false 10 2, [(32, 64), (192, 1), (224, 2), (272, 5), (276, 5)]), (.bfill always false true 10 2, [(128, 4), (160, 255)]),
      (.bfill always false false 10 2, [(128, 4), (168, 1), (64, 4)]), (.bfill always true true 10 2, [(128, 1), (160, 255), (176, 1)]),
      (.azero always 10 2, [(0, 31), (16, 1)]), (.aread always false true true .rz 10 2, [(96, 31), (112, 1), (128, 255), (160, 0x3F800000)]),
      (.aread always true false false .rn 10 2, [(112, 1), (136, 31), (144, 3), (192, 4096)]),
      (.aepi always false true 10 2, [(64, 64), (112, 1), (144, 2)])] : List (Instr × List (Nat × Nat))),
    let c := blocked x.1 x.2
    Steps (storing c) 0 c ∧ (storing c).coreTurn 0 c = true ∧ matrixCheck (storing c) c = none ∧ ((storing c).team c.tid).isSome = true
    ∧ (∀ t, (storing c).team c.tid = some t → Tab.sorted t.acc.rows = true)
    ∧ (match c.instr with | .mmul _ _ _ _ _ _ => decide (0 < c.mxK ∧ c.mxK ≤ 8192 ∧ c.step < c.mxM ∧ c.mxCol + c.mxN ≤ 256) | _ => true) = true := by
  intro x hx c
  have ht : ∀ t, (storing c).team c.tid = some t → Tab.sorted t.acc.rows = true := by
    intro t h
    have : (storing c).team c.tid = some { (idle.team 1).getD { lseq := 0, tlin := 0, loc := .saved } with acc := { runits := 1, bunits := 1 } } := rfl
    rw [this, Option.some.injEq] at h
    rw [← h]; rfl
  fin_cases hx <;> exact ⟨steps_of (by decide +kernel), by decide +kernel, by decide +kernel, by decide +kernel, ht, by decide +kernel⟩

/-- The reads and writes of memory of those steps. -/
theorem witness_EngineWords_matrixMemory : (∃ c bs, cmdRead (storing c) 0 c (ptrOn (c.f 0 64) (c.step * c.f 64 32)) (c.f 128 32) = .ok bs (storing c) ∧ c = blocked (.bfill always false false 10 2) [(128, 4), (168, 1), (64, 4)])
    ∧ ∃ c t v, (storing c).team c.tid = some t ∧ c = blocked (.aread always true false false .rn 10 2) [(112, 1), (136, 31), (144, 3), (192, 4096)]
      ∧ cmdWriteMany (storing c) 0 c [(ptrOn (c.f 0 64) (c.step * c.f 64 32), (areadRow t true false .rn c c.step).1), (ptrOn (c.f 192 64) (c.step * c.f 256 32), (areadRow t true false .rn c c.step).2)]
        = .ok () v ∧ v.bus = none := by
  refine ⟨⟨blocked (.bfill always false false 10 2) [(128, 4), (168, 1), (64, 4)], List.replicate 4 0, by decide +kernel⟩, ?_⟩
  let c := blocked (.aread always true false false .rn 10 2) [(112, 1), (136, 31), (144, 3), (192, 4096)]
  let t := ((storing c).team 1).getD { lseq := 0, tlin := 0, loc := .saved }
  exact ⟨c, t, okState (cmdWriteMany (storing c) 0 c [(ptrOn (c.f 0 64) (c.step * c.f 64 32), (areadRow t true false .rn c c.step).1),
    (ptrOn (c.f 192 64) (c.step * c.f 256 32), (areadRow t true false .rn c c.step).2)]), by decide +kernel⟩

/-- Passes of topk over a row of 4,097 elements in the pad, the last chunk of a pass, and the list written; and a histogram's chunk and end. -/
theorem witness_EngineWords_select : (∀ x ∈ ([([], 0, 4097), ([], 1, 4097), ([1, 0, 0, 1], 0, 4097), ([1, 0, 0, 1], 0, 2)] : List (List Nat × Nat × Nat)), ∃ c keys, Steps (withCmd c) 0 c
      ∧ c.instr = .topk always true true 10 2 ∧ c.vals = x.1 ∧ c.step % chunks c.tkN = x.2.1 ∧ chunks c.tkN = ceilDiv x.2.2 4096
      ∧ chunkRead (withCmd c) 0 c true (c.f 0 64) c.tkFmt c.tkN x.2.1 (sidePages true (some (c.f 128 64)) (8 * c.tkK)) = .ok keys (withCmd c))
    ∧ (∃ c v, c.instr = .topk always true true 10 2 ∧ (∃ es : List (Nat × Nat), sideWrite (withCmd c) 0 c true (some (c.f 128 64)) (listBytes c.tkK es) [] = .ok () v) ∧ v.bus = none)
    ∧ ∀ x ∈ ([0, 1] : List Nat), ∃ c keys, Steps (withCmd c) 0 c ∧ c.instr = .hist always false true 10 2 ∧ c.step = x ∧ chunks (c.f 64 32) = 1
      ∧ (x = 0 → chunkRead (withCmd c) 0 c true (c.f 0 64) c.hsFmt (c.f 64 32) c.step [] = .ok keys (withCmd c)) := by
  refine ⟨?_, ?_, ?_⟩
  · intro x hx
    let c := blocked (.topk always true true 10 2) [(64, x.2.2), (128, 32768), (192, 1), (200, 1)] x.2.1 x.1
    refine ⟨c, List.replicate (if x.2.1 = 1 then 1 else min x.2.2 4096) 0, ?_⟩
    fin_cases hx <;> exact ⟨steps_of (by decide +kernel), by decide +kernel⟩
  · let c := blocked (.topk always true true 10 2) [(64, 2), (128, 32768), (192, 1), (200, 1)]
    exact ⟨c, okState (sideWrite (withCmd c) 0 c true (some (c.f 128 64)) (listBytes c.tkK []) []), rfl, ⟨[], by decide +kernel⟩, by decide +kernel⟩
  · intro x hx
    refine ⟨blocked (.hist always false true 10 2) [(64, 2), (160, 32768), (196, 1), (192, 1)] x, [0, 0], ?_⟩
    fin_cases hx <;> exact ⟨steps_of (by decide +kernel), by decide +kernel⟩

/-- A context with carbon 0 forked into 7; the idle team is a task of carbon 0, or no task. -/
def forked (c : Cmd) (task : Bool) : State :=
  { withCmd c with carbons := [{ ctx := 0, num := 7, parent := 0, postmark := 6, depth := 1, owner := none }], tasks := if task then [(1, { task0 with st := .running })] else [] }

/-- fork, and seals and shreds of carbon 7, at the frontier and before it. -/
theorem witness_EngineWords_office : (∃ c n, Steps (forked c true) 0 c ∧ c.instr = .fork always 10 2 ∧ c.f 48 464 = 0 ∧ (forked c true).carbonOf (cmdLseq (forked c true) c) = 0
      ∧ (forked c true).carbon c.tags.ctx 0 = none ∧ (forked c true).depthOf c.tags.ctx 0 ≠ 8 ∧ (forked c true).carbons.length < 255
      ∧ (∀ t, (forked c true).task (cmdLseq (forked c true) c) = some t → t.postmark < c.f 0 48) ∧ (forked c true).freeCarbon c.tags.ctx = some n)
    ∧ (∀ i ∈ ([.seal always 10 2 4, .shred always 10 2 4] : List Instr), ∀ s ∈ ([forked { cmdOf i with b := 7 } false,
        { forked { cmdOf i with b := 7 } true with tasks := [(1, { task0 with st := .running }), (2, { task0 with postmark := 1, st := .running })] }] : List State), ∃ c x,
      s.bus = none ∧ s.cmd 0 = some c ∧ c.instr = i ∧ c.st = .queued ∧ c.suspended = false ∧ c.lost s = false ∧ s.acceptTurn 0 c = true ∧ s.ldpBefore 0 c = false
      ∧ c.b.toNat = 7 ∧ s.carbon c.tags.ctx 7 = some x ∧ x.parent = s.carbonOf (cmdLseq s c) ∧ s.above c.tags.ctx (s.carbonOf (cmdLseq s c)) 7 9 = true
      ∧ s.atFrontNow (cmdLseq s c) = s.tasks.isEmpty)
    ∧ (∃ x, State.carbon (forked (cmdOf (.mstat always 10 2)) true) 0 7 = some x ∧ (∀ e ∈ (forked (cmdOf (.mstat always 10 2)) true).tasks, e.2.sig = [] ∧ ¬ (e.2.ctx = 0 ∧ e.2.carbon = 7))
      ∧ (∀ y ∈ (forked (cmdOf (.mstat always 10 2)) true).carbons, ¬ (y.ctx = 0 ∧ y.parent = 7))) := by
  refine ⟨?_, ?_, ⟨_, rfl, by decide +kernel, by decide +kernel⟩⟩
  · refine ⟨blocked (.fork always 10 2) [(0, 9)], 1, steps_of (by decide +kernel), by decide +kernel, by decide +kernel, by decide +kernel, by decide +kernel, by decide +kernel,
      by decide +kernel, ?_, by decide +kernel⟩
    intro t h
    have e : (forked (blocked (.fork always 10 2) [(0, 9)]) true).task (cmdLseq (forked (blocked (.fork always 10 2) [(0, 9)]) true) (blocked (.fork always 10 2) [(0, 9)]))
      = some { task0 with st := .running } := by decide +kernel
    rw [e, Option.some.injEq] at h
    rw [← h]
    decide +kernel
  · intro i hi s hs
    refine ⟨{ cmdOf i with b := 7 }, { ctx := 0, num := 7, parent := 0, postmark := 6, depth := 1, owner := none }, ?_⟩
    fin_cases hi <;> fin_cases hs <;> decide +kernel

/-- A pool at VA 0 with two blocks, one sequence and lists of two entries; block 0 is a sequence's only one, of `len` slots, where `len` is not 0. -/
def pool (len : Nat) : List Host.Cell :=
  Mem.write (Mem.write (Mem.write (Mem.write [] 0 (leBytes 52 (0x1000 + 0x8000 * 2 ^ 64 + 0x2000 * 2 ^ 128 + 0x3000 * 2 ^ 192 + 2 * 2 ^ 256 + 16 * 2 ^ 288 + 2 ^ 320 + 2 * 2 ^ 352 + 2 * 2 ^ 384)))
    0x1000 (leBytes 24 (if len = 0 then 0 else (2 ^ len - 1) + 2 ^ 64 + len * 2 ^ 80 + 2 ^ 87))) 0x2000 (leBytes 12 (len + (if len = 0 then 0 else 2 ^ 32) + 2 ^ 64)))
    0x3000 (leBytes 8 (len * 2 ^ 32))

def poolHdr0 : PoolHdr := ⟨0, 0x1000, 0x8000, 0x2000, 0x3000, 2, 16, 1, 2⟩

def pooled (len : Nat) (c : Cmd) : State :=
  { withCmd c with mem := pool len, teams := [(1, { lseq := 1, tlin := 0, loc := .resident 0 0, lanes := [{}], padb := 65536 })] }

/-- kvalloc, and the first step of an append, in an empty sequence; an append to a tail with room for one slot more. -/
theorem witness_EngineWords_pools : (∃ c v dsc, Steps (pooled 0 c) 0 c ∧ c.instr = .kvalloc always 10 2 ∧ (pooled 0 c).actTurn 0 c = true ∧ poolHdr (pooled 0 c) 0 c (c.f 0 64) = .ok poolHdr0 (pooled 0 c)
      ∧ kvLimit c poolHdr0 = true ∧ readSeq (pooled 0 c) 0 c poolHdr0 c.kvSeq = .ok (0, 0, true) (pooled 0 c)
      ∧ cmdXl (pooled 0 c) 0 c (ptrOn poolHdr0.ptr 48) .wr 4 [] = .ok (48, 0x17) (pooled 0 c) ∧ cmdFront (pooled 0 c) c = true
      ∧ findBlocks (pooled 0 c) 0 c poolHdr0 1 = .ok (some [0]) (pooled 0 c) ∧ readDesc (pooled 0 c) 0 c poolHdr0 0 = .ok dsc (pooled 0 c)
      ∧ cmdWriteMany (pooled 0 c) 0 c [wDesc poolHdr0 0 (freshDesc dsc 0 c.tags.carbon 0), wList poolHdr0 c.kvSeq 0 0 0, wSeq poolHdr0 c.kvSeq 0 1 true] poolHdr0.keep = .ok () v ∧ v.bus = none)
    ∧ (∃ c, Steps (pooled 0 c) 0 c ∧ c.instr = .kvapp always 10 2 ∧ (pooled 0 c).actTurn 0 c = true ∧ poolHdr (pooled 0 c) 0 c (c.f 0 64) = .ok poolHdr0 (pooled 0 c)
      ∧ kvLimit c poolHdr0 = true ∧ c.vals = [] ∧ readSeq (pooled 0 c) 0 c poolHdr0 c.kvSeq = .ok (0, 0, true) (pooled 0 c) ∧ moreBlocks c.kvArg 64 = 2
      ∧ cmdXl (pooled 0 c) 0 c (ptrOn poolHdr0.ptr 48) .wr 4 [] = .ok (48, 0x17) (pooled 0 c) ∧ findBlocks (pooled 0 c) 0 c poolHdr0 2 = .ok (some [0, 1]) (pooled 0 c)
      ∧ (∀ k ∈ [0, 1], cmdXl (pooled 0 c) 0 c (poolHdr0.descAt k) .wr 32 poolHdr0.keep = .ok (0x1000 + 32 * k, 0x17) (pooled 0 c)) ∧ cmdFront (pooled 0 c) c = true)
    ∧ ∃ c dsc v, Steps (pooled 63 c) 0 c ∧ c.instr = .kvapp always 10 2 ∧ poolHdr (pooled 63 c) 0 c (c.f 0 64) = .ok poolHdr0 (pooled 63 c) ∧ c.vals = [1, 63, 1, 2, 63]
      ∧ readList (pooled 63 c) 0 c poolHdr0 c.kvSeq (1 - 1) = .ok (0, 63) (pooled 63 c) ∧ readDesc (pooled 63 c) 0 c poolHdr0 0 = .ok dsc (pooled 63 c) ∧ dFill dsc < 64 ∧ dRef dsc ≤ 1
      ∧ needsCopy c dsc = false ∧ cmdWriteMany (pooled 63 c) 0 c [wDesc poolHdr0 0 (putFld (putFld dsc 0 64 (dSurv dsc ||| ((2 ^ min 2 (64 - dFill dsc) - 1) * 2 ^ dFill dsc))) 80 7
          (dFill dsc + min 2 (64 - dFill dsc))), wList poolHdr0 c.kvSeq (1 - 1) 0 (63 + min 2 (64 - dFill dsc))] poolHdr0.keep = .ok () v ∧ v.bus = none := by
  refine ⟨?_, ?_, ?_⟩
  · let c := blocked (.kvalloc always 10 2) []
    exact ⟨c, okState (cmdWriteMany (pooled 0 c) 0 c [wDesc poolHdr0 0 (freshDesc 0 0 0 0), wList poolHdr0 c.kvSeq 0 0 0, wSeq poolHdr0 c.kvSeq 0 1 true] poolHdr0.keep), 0,
      steps_of (by decide +kernel), by decide +kernel⟩
  · exact ⟨blocked (.kvapp always 10 2) [(96, 65)], steps_of (by decide +kernel), by decide +kernel⟩
  · let c := blocked (.kvapp always 10 2) [(96, 2)] 1 [1, 63, 1, 2, 63] [1]
    let dsc := (2 ^ 63 - 1) + 2 ^ 64 + 63 * 2 ^ 80 + 2 ^ 87
    exact ⟨c, dsc, okState (cmdWriteMany (pooled 63 c) 0 c [wDesc poolHdr0 0 (putFld (putFld dsc 0 64 (dSurv dsc ||| ((2 ^ min 2 (64 - dFill dsc) - 1) * 2 ^ dFill dsc))) 80 7
        (dFill dsc + min 2 (64 - dFill dsc))), wList poolHdr0 c.kvSeq (1 - 1) 0 (63 + min 2 (64 - dFill dsc))] poolHdr0.keep), steps_of (by decide +kernel), by decide +kernel⟩

/-- The node of the tree whose one node is the path. -/
def tree0 (n : Nat) : Tree := { nodes := (upFrom 0 n).map (fun k => { parent := if k = 0 then 255 else 0, flags := if k = 0 then 2 else 0, depth := k }) }

def redacting (c : Cmd) : State := (pooled 2 c).modTeam 1 (fun t => { t with trees := [(0, tree0 2)] })

/-- The slots found of a tree of a path and one other node; the block of both; and the tree renumbered. -/
theorem witness_EngineWords_redact : ∀ x ∈ ([(0, []), (0, [1]), (1, [1])] : List (Nat × List Nat)), ∃ c, Steps (redacting c) 0 c ∧ c.instr = .redact always 10 2 ∧ c.vals = x.2 ∧ c.step = x.1
    ∧ (redacting c).treeTurn 0 c = true ∧ (c.step = 0 → c.vals = [] → treeCheck (redacting c) c = none) ∧ myTree (redacting c) c c.trSlot = some (tree0 2)
    ∧ (upFrom 0 (tree0 2).nodes.length).filter (fun i => bit (nth {} (tree0 2).nodes i).flags 1) = [0] ∧ (redacting c).actTurn 0 c = true ∧ pathGood (tree0 2).nodes [0] = true
    ∧ poolHdr (redacting c) 0 c (c.f 192 64) = .ok poolHdr0 (redacting c) ∧ (tree0 2).seq < poolHdr0.nseq ∧ readSeq (redacting c) 0 c poolHdr0 (tree0 2).seq = .ok (2, 1, true) (redacting c)
    ∧ (tree0 2).kv0 + (tree0 2).nodes.length ≤ 2 ∧ (c.vals = [] → allSlots (redacting c) 0 c poolHdr0 (tree0 2).seq (tree0 2).kv0 [] (tree0 2).nodes.length = .ok (some [0, 1]) (redacting c))
    ∧ (c.vals ≠ [] → (distinct (c.data.map (· / 2 ^ 40))).length = 1)
    ∧ ∃ dsc v, readDesc (redacting c) 0 c poolHdr0 0 = .ok dsc (redacting c) ∧ dRef dsc ≤ 1 ∧ needsCopy c dsc = false
      ∧ (c.vals ≠ [] → c.step = 0 → surviveWrite (redacting c) 0 c poolHdr0 0 0 (2, 1, true) 0 dsc (clearBits (dSurv dsc) (sumOf (((((c.data.zip (upFrom 0 2)).filter
          (fun y => y.1 / 2 ^ 40 == 0)).filter (fun y => !([0] : List Nat).contains y.2))).map (fun y => 2 ^ (y.1 % 64))))) = .ok () v) ∧ v.bus = none := by
  intro x hx
  let c := blocked (.redact always 10 2) [] x.1 x.2 (if x.2 = [] then [] else [0, 1])
  refine ⟨c, ?_⟩
  fin_cases hx
  all_goals refine ⟨steps_of (by decide +kernel), by decide +kernel, by decide +kernel, by decide +kernel, by decide +kernel, fun _ _ => by decide +kernel, by decide +kernel,
    by decide +kernel, by decide +kernel, by decide +kernel, by decide +kernel, by decide +kernel, by decide +kernel, by decide +kernel, by decide +kernel, by decide +kernel,
    3 + 2 ^ 64 + 2 * 2 ^ 80 + 2 ^ 87, okState (surviveWrite (redacting c) 0 c poolHdr0 0 0 (2, 1, true) 0 (3 + 2 ^ 64 + 2 * 2 ^ 80 + 2 ^ 87) 1), by decide +kernel⟩

/-- A partial of one element, held by the slice or refused by it, for a record of one element on a page that is not versioned. -/
theorem witness_PublicationsAndPartials_record : ∀ at_ ∈ ([1, 2] : List Nat), ∃ c s, s.cmd 0 = some c ∧ c.instr = .smerge always true 10 2 ∧ c.st = .run ∧ s.bus = none
    ∧ c.lost s = false ∧ s.stale c.tags = false ∧ c.mgN = 1 ∧ fld (c.f 0 64) 0 56 % 16 = 0 ∧ Touches s c .wr (c.f 0 64) 20 0 0x17 ∧ cmdFront s c = true
    ∧ (c.data.map (BitVec.ofNat 8)).length = 20 ∧ Mem.num s.mem (0 + 12) 2 = 1 ∧ c.mgIdx = Mem.num s.mem (0 + 8) 4 ∧ Mem.wf s.mem = true ∧ c.suspended = false ∧ c.mgAt = at_
    ∧ c.mgSince + 64 ≤ s.cyc ∧ isNan32 (BitVec.ofNat 32 (Mem.num s.mem 0 4)) = false ∧ isNan32 (BitVec.ofNat 32 (leNat ((c.data.map (BitVec.ofNat 8)).take 4))) = (at_ == 2) := by
  intro a ha
  let c := blocked (.smerge always true 10 2) [] 0 [1, a, 0, 0] (if a = 1 then List.replicate 20 0 else [1, 0, 0x80, 0x7F] ++ List.replicate 16 0)
  refine ⟨c, { withCmd c with mem := [⟨12, 1⟩], cyc := 64 }, ?_⟩
  fin_cases ha <;> exact ⟨by decide +kernel, by decide +kernel, by decide +kernel, by decide +kernel, by decide +kernel, by decide +kernel, by decide +kernel, by decide +kernel,
    touches_of (by decide +kernel), by decide +kernel⟩

end Sys2Proof.Tests
end

section
/-! Integer, bit and compare words: the model's computations of class 0x0 are the functions that R82 to R85 give. -/

namespace Sys2Proof.Machine

open Sys2Proof

/-! ### Integers (R82) -/

/-- The bounds of R82 leave room between them, so saturation by two comparisons is the clamp. -/
theorem narrow_eq_fit (n : Nat) (sat u : Bool) (t : Int) : narrow n sat u t = fit n sat u t := by
  have hfull : (0 : Int) < 2 ^ n := by positivity
  have hhalf : (0 : Int) < 2 ^ (n - 1) := by positivity
  unfold narrow fit clamp
  generalize (2 : Int) ^ n = full at *
  generalize (2 : Int) ^ (n - 1) = half at *
  cases sat
  · rfl
  · cases u <;> simp only [if_true, Bool.false_eq_true, if_false] <;> congr 1 <;> omega

/-- Without SAT the result is only taken modulo 2^n. -/
theorem fit_unsaturated (n : Nat) (u : Bool) (t : Int) : fit n false u t = BitVec.ofInt n t := rfl

/-- The exact integer of a word, of either sign, is the word again modulo 2^n. -/
theorem ofInt_ext {n : Nat} (u : Bool) (v : BitVec n) : BitVec.ofInt n (ext u v) = v := by
  cases u
  · exact BitVec.ofInt_toInt
  · exact (BitVec.ofInt_natCast n v.toNat).trans (by rw [BitVec.ofNat_toNat, BitVec.setWidth_eq])

theorem iMin_eq_fit (u : Bool) (a b : Word) : iMin u a b = fit 32 false u (min (ext u a) (ext u b)) := by
  rw [fit_unsaturated, min_def, apply_ite (BitVec.ofInt 32), ofInt_ext, ofInt_ext]
  rfl

theorem iMax_eq_fit (u : Bool) (a b : Word) : iMax u a b = fit 32 false u (max (ext u a) (ext u b)) := by
  rw [fit_unsaturated, max_def, apply_ite (BitVec.ofInt 32), ofInt_ext, ofInt_ext]
  rfl

/-! ### Shifts and counts (R83) -/

/-- A shift by the whole width or more leaves 0. -/
theorem bShl_eq_shiftLeft (a b : Word) : bShl a b = a <<< b.toNat := by
  unfold bShl
  split
  · rfl
  · exact (BitVec.shiftLeft_eq_zero (by omega)).symm

/-- A shift by the whole width or more leaves 0, or copies of the sign. -/
theorem bShr_eq_shiftRight (s : Bool) (a b : Word) : bShr s a b = if s then a.sshiftRight b.toNat else a >>> b.toNat := by
  unfold bShr
  by_cases hb : b.toNat < 32
  · simp only [hb, if_true]
  · have hlogical (x : Word) : x >>> b.toNat = 0 := BitVec.ushiftRight_eq_zero (by omega)
    have harith : a.sshiftRight b.toNat = if a.msb then 0xFFFFFFFF else 0 := by
      cases hm : a.msb
      · rw [BitVec.sshiftRight_eq_of_msb_false hm, hlogical]; rfl
      · rw [BitVec.sshiftRight_eq_of_msb_true hm, hlogical]; rfl
    simp only [hb, if_false, hlogical, harith]

theorem bRot_eq_rotateLeft (a b : Word) : bRot a b = a.rotateLeft (b.toNat % 32) := by
  rw [BitVec.rotateLeft_def, Nat.mod_mod]
  rfl

/-- A bit of a word's number is the word's bit. -/
theorem bit_toNat {n : Nat} (v : BitVec n) (k : Nat) : bit v.toNat k = v.getLsbD k := by
  unfold bit
  rw [BitVec.getLsbD, Nat.testBit_eq_decide_div_mod_eq]
  rfl

/-- Counting bit by bit is counting the places that hold a 1. -/
theorem popN_eq_length_filter (a : Word) (n : Nat) : popN a.toNat n = ((List.range n).filter (fun k => a.getLsbD k)).length := by
  induction n with
  | zero => rfl
  | succ n ih =>
    rw [popN, ih, bit_toNat, List.range_succ, List.filter_append, List.length_append, Nat.add_comm]
    cases h : a.getLsbD n <;> simp [h, b2n]

theorem clzN_zero (n : Nat) : clzN 0 n = n := by
  induction n with
  | zero => rfl
  | succ n ih => simp [clzN, bit, ih, Nat.add_comm]

/-- The zeros above the highest 1, whose place is the logarithm. -/
theorem clzN_eq_sub_log2 (v n : Nat) (hv : v ≠ 0) (hlt : v < 2 ^ n) : clzN v n = n - 1 - v.log2 := by
  induction n with
  | zero => omega
  | succ n ih =>
    unfold clzN
    by_cases htop : v < 2 ^ n
    · have hbit : bit v n = false := by simp [bit, Nat.div_eq_of_lt htop]
      have hlog : v.log2 < n := (Nat.log2_lt hv).2 htop
      rw [hbit, ih htop]
      simp only [Bool.false_eq_true, if_false]
      omega
    · have hlog : v.log2 = n := (Nat.log2_eq_iff hv).2 ⟨by omega, hlt⟩
      have hbit : bit v n = true := by
        have hdiv : v / 2 ^ n = 1 := Nat.div_eq_of_lt_le (by omega) (by rw [pow_succ] at hlt; omega)
        simp [bit, hdiv]
      rw [hbit, hlog]
      simp

theorem bClz_eq_log2 (a : Word) : bClz a = if a = 0 then 32 else BitVec.ofNat 32 (31 - a.toNat.log2) := by
  unfold bClz
  split
  · next h => rw [h]; exact congrArg (BitVec.ofNat 32) (clzN_zero 32)
  · next h => rw [clzN_eq_sub_log2 a.toNat 32 (fun h0 => h (BitVec.eq_of_toNat_eq h0)) a.isLt]

/-! ### Truth values (R85) -/

/-- An operand is true when it is not 0, and its negation bit turns that round. -/
theorem truth_eq (a : Word) (n : Bool) : truth a n = (decide (a ≠ 0) ^^ n) := by
  have hne : (a != 0) = decide (a ≠ 0) := by rw [bne, beq_eq_decide, decide_not]
  rw [truth, hne]

/-- pnot asks whether its operand is 0. -/
theorem not_truth (a : Word) : (!truth a false) = decide (a = 0) := by
  rw [truth_eq, Bool.xor_false, decide_not, Bool.not_not]

/-! ### The words -/

theorem Val.w_congr {v v' : Word} {p : Bool} (h : v = v') : Val.w v p = Val.w v' p := by rw [h]

/-- Settles O1: each word of opcode 0x00 runs through the one rule for words that compute D, and its function is that of R82. -/
theorem integerResults : Obligations.IntegerResults := by
  unfold Obligations.IntegerResults
  intro g sat u d a b c
  refine ⟨?add, ?sub, ?mul, ?mulh, ?mad, ?min, ?max, ?abs, ?neg⟩ <;> refine computes_of (fun _ => rfl) _ rfl rfl rfl (fun x y z => Val.w_congr ?_)
  case add | sub | mul | mad => exact narrow_eq_fit 32 sat u _
  case mulh => exact (fit_unsaturated 32 u _).symm
  case min => exact iMin_eq_fit u _ _
  case max => exact iMax_eq_fit u _ _
  case abs | neg => exact narrow_eq_fit 32 sat false _

/-- Settles O2: the shifts, the rotation and the counts are those of the bit vectors; the other words are given by the functions that the statement
names. -/
theorem bitResults : Obligations.BitResults := by
  unfold Obligations.BitResults
  intro g sx d a b c
  refine ⟨?and, ?or, ?xor, ?not, ?shl, ?shr, ?rot, ?popc, ?clz, ?brev, ?bfe, ?bfi, ?bperm⟩ <;>
    refine computes_of (fun _ => rfl) _ rfl rfl rfl (fun x y z => Val.w_congr ?_)
  case shl => exact bShl_eq_shiftLeft _ _
  case shr => exact bShr_eq_shiftRight sx _ _
  case rot => exact bRot_eq_rotateLeft _ _
  case popc => exact congrArg (BitVec.ofNat 32) (popN_eq_length_filter _ 32)
  case clz => exact bClz_eq_log2 _
  case and | or | xor | not | brev | bfe | bfi | bperm => rfl

/-- Settles O4: the predicate words combine the truths of their operands, and icmp compares as its width says. -/
theorem compareResults : Obligations.CompareResults := by
  unfold Obligations.CompareResults
  intro g u nb na cmp d a b
  refine ⟨?icmp, ?icmpWide, ?pand, ?por, ?pxor, ?pnot⟩ <;> refine computes_of (fun _ => rfl) _ rfl rfl rfl (fun x y z => Val.w_congr ?_)
  case pand | por | pxor => rw [← truth_eq, ← truth_eq]
  case pnot => exact congrArg b2w (not_truth _)
  case icmp | icmpWide => rfl

end Sys2Proof.Machine
end
